-- ==== Sys2Proof/Word.lean ====
section
/-! DEFINITION. The word types of the HX9 and their plainest arithmetic (R1, R2, R7, R412). -/

namespace Sys2Proof

/-- A 64-bit register, address or record word. -/
abbrev Word := BitVec 64

/-- One byte of any memory of the package. -/
abbrev Byte := BitVec 8

/-- `x[hi:lo]` of R2, on a natural number: the value formed by bits lo to hi. -/
def bits (x hi lo : Nat) : Nat := x / 2 ^ lo % 2 ^ (hi + 1 - lo)

/-- One bit of a number. -/
def bitAt (x n : Nat) : Bool := x / 2 ^ n % 2 == 1

/-- `SignExt(x, n)` of R7: the low `n` bits of `x` as a two's-complement integer. -/
def signed (n x : Nat) : Int :=
  if 2 * (x % 2 ^ n) < 2 ^ n then (x % 2 ^ n : Nat) else (x % 2 ^ n : Nat) - (2 ^ n : Nat)

/-- The low `n` bits of an integer's two's-complement form. -/
def wrap (n : Nat) (x : Int) : Nat := (x % (2 ^ n : Nat)).toNat

/-- Serial numbers of R412: `a` precedes `b` when (b − a) mod 2^32 is 1 to 2^31 − 1. -/
def precedes (a b : BitVec 32) : Bool :=
  let d := (b - a).toNat
  1 ≤ d && d < 2 ^ 31

end Sys2Proof
end

