-- ==== Sys2Proof/Syntax.lean ====
section
/-! DEFINITION. The syntax of everything the HX9 executes or undergoes: one constructor of `Instr` per row of the
opcode table. Four kinds of row stand side by side: Turkar instructions (their words are R118 to R121), pitch
instructions (R355), commands of the Herilo Command Set (R90, R404) and the package's own events. -/

namespace Sys2Proof

/-- The stall count S of R118, bits [31:28] of an instruction's first word. -/
abbrev Stall := Fin 16

/-- The four sequencers of R113. -/
inductive Seq where
  | k | l | w | c
  deriving DecidableEq, Repr

/-- The sequencer code of R113. -/
def Seq.code : Seq → Nat
  | .k => 0 | .l => 1 | .w => 2 | .c => 3

/-- The sequencer a code of R113 names. -/
def Seq.ofCode : Nat → Option Seq
  | 0 => some .k | 1 => some .l | 2 => some .w | 3 => some .c | _ => none

/-- A scalar register of R123. -/
inductive SReg where
  | x (n : Fin 32)
  | a (n : Fin 16)
  | lc (n : Fin 4)
  deriving DecidableEq, Repr

/-- A vector operand read by an instruction: a register name or a load port popped (R125). -/
inductive VSrc where
  | v (n : Fin 32)
  | lq (n : Fin 4)
  deriving DecidableEq, Repr

/-- A vector operand written: a register name or a store port pushed (R125). -/
inductive VDst where
  | v (n : Fin 32)
  | sq (n : Fin 4)
  deriving DecidableEq, Repr

/-- The predicate prefix: P and PN of R121. `⟨0, false⟩` means every lane (R122). -/
structure Pfx where
  p : Fin 16
  pn : Bool
  deriving DecidableEq, Repr

/-- The number formats of R24, in the order of their type codes 0 to 18. -/
inductive NumType where
  | f32 | bf16 | f16 | e4m3 | e5m2 | e2m1 | mk8 | e8m0
  | i32 | i16 | i8 | i4 | i2 | n32 | n16 | n8 | n4 | n2 | fxa
  deriving DecidableEq, Repr

/-- The type code of R24. -/
def NumType.code : NumType → Nat
  | .f32 => 0 | .bf16 => 1 | .f16 => 2 | .e4m3 => 3 | .e5m2 => 4 | .e2m1 => 5 | .mk8 => 6 | .e8m0 => 7
  | .i32 => 8 | .i16 => 9 | .i8 => 10 | .i4 => 11 | .i2 => 12 | .n32 => 13 | .n16 => 14 | .n8 => 15
  | .n4 => 16 | .n2 => 17 | .fxa => 18

/-- The format a type code names; codes 19 to 31 are reserved (R24). -/
def NumType.ofCode : Nat → Option NumType
  | 0 => some .f32 | 1 => some .bf16 | 2 => some .f16 | 3 => some .e4m3 | 4 => some .e5m2 | 5 => some .e2m1
  | 6 => some .mk8 | 7 => some .e8m0 | 8 => some .i32 | 9 => some .i16 | 10 => some .i8 | 11 => some .i4
  | 12 => some .i2 | 13 => some .n32 | 14 => some .n16 | 15 => some .n8 | 16 => some .n4 | 17 => some .n2
  | 18 => some .fxa | _ => none

/-- The rounding codes of R35. -/
inductive Rnd where
  | rne | rz | rup | rdn | rsr
  deriving DecidableEq, Repr

/-- The code of a rounding (R35). -/
def Rnd.code : Rnd → Nat
  | .rne => 0 | .rz => 1 | .rup => 2 | .rdn => 3 | .rsr => 4

/-- The rounding a code names; 5 to 7 are reserved (R35). -/
def Rnd.ofCode : Nat → Option Rnd
  | 0 => some .rne | 1 => some .rz | 2 => some .rup | 3 => some .rdn | 4 => some .rsr | _ => none

/-- The block codes 1 to 3 of R49 that `vqnt` takes (R187). -/
inductive Blk where
  | b32 | b64 | b128
  deriving DecidableEq, Repr

/-- The code of a block size. -/
def Blk.code : Blk → Nat
  | .b32 => 1 | .b64 => 2 | .b128 => 3

/-- The block size a code names. -/
def Blk.ofCode : Nat → Option Blk
  | 1 => some .b32 | 2 => some .b64 | 3 => some .b128 | _ => none

/-- The amount of a vector shift: a register's elements or an immediate (R180). -/
inductive ShAmt where
  | reg (b : VSrc)
  | imm (n : Fin 32)
  deriving DecidableEq, Repr

/-- The system registers of R392. -/
inductive SysReg where
  | srndcnt | holdcnt | evt | sto | opb1 | opb2 | oplr | opeps | opwd | opc1 | opc2 | opmu | imgseq
  | trec | tpck | tpcl | tpcw | tpcc | taddr | tinfo | tword
  deriving DecidableEq, Repr

/-- The number of a system register (R392). -/
def SysReg.code : SysReg → Nat
  | .srndcnt => 0 | .holdcnt => 1 | .evt => 2 | .sto => 3 | .opb1 => 4 | .opb2 => 5 | .oplr => 6 | .opeps => 7
  | .opwd => 8 | .opc1 => 9 | .opc2 => 10 | .opmu => 11 | .imgseq => 12 | .trec => 16 | .tpck => 17
  | .tpcl => 18 | .tpcw => 19 | .tpcc => 20 | .taddr => 21 | .tinfo => 22 | .tword => 23

/-- The system register a number names; the others are reserved (R392). -/
def SysReg.ofCode : Nat → Option SysReg
  | 0 => some .srndcnt | 1 => some .holdcnt | 2 => some .evt | 3 => some .sto | 4 => some .opb1 | 5 => some .opb2
  | 6 => some .oplr | 7 => some .opeps | 8 => some .opwd | 9 => some .opc1 | 10 => some .opc2 | 11 => some .opmu
  | 12 => some .imgseq | 16 => some .trec | 17 => some .tpck | 18 => some .tpcl | 19 => some .tpcw
  | 20 => some .tpcc | 21 => some .taddr | 22 => some .tinfo | 23 => some .tword | _ => none

/-- The engines that run operations beside the sequencers, in the test order of R269. -/
inductive Engine where
  | copy | hist | gemv | tmu
  deriving DecidableEq, Repr

/-- The place of a storage error (R372, R373): an array and an address inside it. `tlb` names an entry by the base of its
page, with core 32 for the die's own TLB; `wq` the entry of a queue by its number since the queue was configured. -/
inductive Loc where
  | hbm (pa : Nat)
  | l1 (die core pa : Nat)
  | scratch (t off : Nat)
  | acc (t word : Nat)
  | md (t off : Nat)
  | cluster (die cl lr off : Nat)
  | stripe (die ctx off : Nat)
  | wq (queue entry : Nat)
  | psr (layer role : Nat)
  | record (lr part : Nat)
  | kernel (port pp word : Nat)
  | flow (port f half : Nat)
  | tlb (die core asid page : Nat)
  | rcache (t addr : Nat)
  deriving DecidableEq, Repr

/-- The Ultra Ethernet delivery modes (R361). -/
inductive Delivery where
  | rud | rod | other
  deriving DecidableEq, Repr

/-- What a transfer carries to its destination task (R340, R342), with the sender's number for it and for its walk. -/
structure XferHdr where
  pkg : Nat
  lrec : Nat
  wid : Word
  addr : Word
  op : Nat
  rcnt : Nat
  job : Nat
  total : Nat
  xid : Nat
  walk : Nat
  deriving DecidableEq, Repr

/-- A packet that reaches an Ultra Ethernet port (R353, R361): the flow of its route entry when it is a packet of a
walk, the classifier key otherwise, its payload, and the transfer its transport headers carry, if any. -/
structure Packet where
  walkFlow : Option Nat
  job : Nat
  src : Nat
  srcPkg : Nat
  mode : Delivery
  payload : List Byte
  hdr : Option XferHdr
  deriving DecidableEq, Repr

/-- The PLDM sensors of R411. -/
inductive Sensor where
  | power | temp (die : Nat) | flow | therm
  deriving DecidableEq, Repr

/-- Everything that one step of the package can be: one constructor per row of the opcode table. -/
inductive Instr where
  -- Turkar: SYS, ALU, MULDIV, immediates and control (R155 to R164, R391 to R396)
  /-- `NOP` (R155). -/
  | nop (w : Stall)
  /-- `TRAP` (R391). -/
  | trap (w : Stall) (code : BitVec 6)
  /-- `RFT` (R394). -/
  | rft (w : Stall)
  /-- `BRK` (R395). -/
  | brk (w : Stall)
  /-- `TEND` (R156). -/
  | tend (w : Stall)
  /-- `SRD` (R393). -/
  | srd (w : Stall) (d : SReg) (r : SysReg)
  /-- `SWR` (R393). -/
  | swr (w : Stall) (a : SReg) (r : SysReg)
  /-- `IMGCUT` (R396). -/
  | imgcut (w : Stall) (d : SReg)
  /-- `ADD` (R157). -/
  | add (w : Stall) (d a b : SReg)
  /-- `SUB` (R157). -/
  | sub (w : Stall) (d a b : SReg)
  /-- `AND` (R157). -/
  | and (w : Stall) (d a b : SReg)
  /-- `OR` (R157). -/
  | or (w : Stall) (d a b : SReg)
  /-- `XOR` (R157). -/
  | xor (w : Stall) (d a b : SReg)
  /-- `SHL` (R157). -/
  | shl (w : Stall) (d a b : SReg)
  /-- `SHR` (R157). -/
  | shr (w : Stall) (d a b : SReg)
  /-- `SRA` (R157). -/
  | sra (w : Stall) (d a b : SReg)
  /-- `MIN` (R157). -/
  | min (w : Stall) (d a b : SReg)
  /-- `MAX` (R157). -/
  | max (w : Stall) (d a b : SReg)
  /-- `MINN` (R157). -/
  | minn (w : Stall) (d a b : SReg)
  /-- `MAXN` (R157). -/
  | maxn (w : Stall) (d a b : SReg)
  /-- `SLT` (R157). -/
  | slt (w : Stall) (d a b : SReg)
  /-- `SLTN` (R157). -/
  | sltn (w : Stall) (d a b : SReg)
  /-- `SEQ` (R157). -/
  | seq (w : Stall) (d a b : SReg)
  /-- `SNE` (R157). -/
  | sne (w : Stall) (d a b : SReg)
  /-- `MUL` (R158). -/
  | mul (w : Stall) (d a b : SReg)
  /-- `MULH` (R158). -/
  | mulh (w : Stall) (d a b : SReg)
  /-- `MULHN` (R158). -/
  | mulhn (w : Stall) (d a b : SReg)
  /-- `DIV` (R158). -/
  | div (w : Stall) (d a b : SReg)
  /-- `DIVN` (R158). -/
  | divn (w : Stall) (d a b : SReg)
  /-- `REM` (R158). -/
  | rem (w : Stall) (d a b : SReg)
  /-- `REMN` (R158). -/
  | remn (w : Stall) (d a b : SReg)
  /-- `CLZ` (R158). -/
  | clz (w : Stall) (d a : SReg)
  /-- `CTZ` (R158). -/
  | ctz (w : Stall) (d a : SReg)
  /-- `POPC` (R158). -/
  | popc (w : Stall) (d a : SReg)
  /-- `BREV` (R158). -/
  | brev (w : Stall) (d a : SReg)
  /-- `LEA2` (R158). -/
  | lea2 (w : Stall) (d a b : SReg)
  /-- `LEA4` (R158). -/
  | lea4 (w : Stall) (d a b : SReg)
  /-- `LEA8` (R158). -/
  | lea8 (w : Stall) (d a b : SReg)
  /-- `ADDI` (R159). -/
  | addi (w : Stall) (d a : SReg) (m : BitVec 10)
  /-- `ANDI` (R159). -/
  | andi (w : Stall) (d a : SReg) (m : BitVec 10)
  /-- `ORI` (R159). -/
  | ori (w : Stall) (d a : SReg) (m : BitVec 10)
  /-- `XORI` (R159). -/
  | xori (w : Stall) (d a : SReg) (m : BitVec 10)
  /-- `SHLI` (R159). -/
  | shli (w : Stall) (d a : SReg) (n : BitVec 6)
  /-- `SHRI` (R159). -/
  | shri (w : Stall) (d a : SReg) (n : BitVec 6)
  /-- `SRAI` (R159). -/
  | srai (w : Stall) (d a : SReg) (n : BitVec 6)
  /-- `SLTI` (R159). -/
  | slti (w : Stall) (d a : SReg) (m : BitVec 10)
  /-- `SLTNI` (R159). -/
  | sltni (w : Stall) (d a : SReg) (m : BitVec 10)
  /-- `LUI` (R160). -/
  | lui (w : Stall) (d : SReg) (m : BitVec 16)
  /-- `LSH` (R160). -/
  | lsh (w : Stall) (d : SReg) (m : BitVec 16)
  /-- `BEQ` (R161). -/
  | beq (w : Stall) (a b : SReg) (o : BitVec 9)
  /-- `BNE` (R161). -/
  | bne (w : Stall) (a b : SReg) (o : BitVec 9)
  /-- `BLT` (R161). -/
  | blt (w : Stall) (a b : SReg) (o : BitVec 9)
  /-- `BGE` (R161). -/
  | bge (w : Stall) (a b : SReg) (o : BitVec 9)
  /-- `BLTN` (R161). -/
  | bltn (w : Stall) (a b : SReg) (o : BitVec 9)
  /-- `BGEN` (R161). -/
  | bgen (w : Stall) (a b : SReg) (o : BitVec 9)
  /-- `J` (R162). -/
  | j (w : Stall) (o : BitVec 22)
  /-- `JAL` (R162). -/
  | jal (w : Stall) (d : SReg) (m : BitVec 16)
  /-- `JR` (R162). -/
  | jr (w : Stall) (a : SReg)
  /-- `JALR` (R162). -/
  | jalr (w : Stall) (d a : SReg)
  /-- `LOOP` (R163). -/
  | loop (w : Stall) (l : Fin 4) (o : BitVec 20)
  /-- `LCSET` (R164). -/
  | lcset (w : Stall) (d : Fin 4) (m : BitVec 16)
  -- Turkar: scalar memory, tokens and work (R165 to R170)
  /-- `LDS` (R165). -/
  | lds (w : Stall) (d a : SReg) (v : Fin 4) (m : BitVec 8)
  /-- `STS` (R165). -/
  | sts (w : Stall) (d a : SReg) (v : Fin 4) (m : BitVec 8)
  /-- `TGIVE` (R167). -/
  | tgive (w : Stall) (q : Seq)
  /-- `TTAKE` (R167). -/
  | ttake (w : Stall) (q : Seq)
  /-- `TCNT` (R167). -/
  | tcnt (w : Stall) (d : SReg) (e : Bool) (q : Seq)
  /-- `LPATCH` (R168). -/
  | lpatch (w : Stall) (d a b : SReg)
  /-- `LARM` (R168). -/
  | larm (w : Stall) (d a : SReg)
  /-- `LSTAT` (R168). -/
  | lstat (w : Stall) (d a : SReg)
  /-- `WQPUSH` (R169). -/
  | wqpush (w : Stall) (d a b : SReg)
  /-- `WQPOP` (R169). -/
  | wqpop (w : Stall) (d a : SReg)
  /-- `WQLEN` (R169). -/
  | wqlen (w : Stall) (d a : SReg)
  /-- `HOPS` (R170). -/
  | hops (w : Stall) (d a b : SReg)
  /-- `VDID` (R170). -/
  | vdid (w : Stall) (d : SReg)
  /-- `WIDF` (R170). -/
  | widf (w : Stall) (d : SReg) (x : Fin 6)
  /-- `TILE` (R170). -/
  | tile (w : Stall) (d : SReg)
  -- Turkar: generators, ports, caches, copies and measurement (R260 to R283)
  /-- `AGBASE` (R261). -/
  | agbase (w : Stall) (a : SReg) (g : Fin 8)
  /-- `AGLEV` (R261). -/
  | aglev (w : Stall) (d a : SReg) (l : Fin 6) (g : Fin 8)
  /-- `AGPAT` (R261). -/
  | agpat (w : Stall) (a : SReg) (l : Fin 5) (g : Fin 8)
  /-- `AGGO` (R262). -/
  | aggo (w : Stall) (g : Fin 8)
  /-- `AGSTOP` (R263). -/
  | agstop (w : Stall) (g : Fin 8)
  /-- `AGWAIT` (R263). -/
  | agwait (w : Stall) (g : Fin 8)
  /-- `AGSTAT` (R263). -/
  | agstat (w : Stall) (d : SReg) (g : Fin 8)
  /-- `LDQ` (R265). -/
  | ldq (w : Stall) (p : Fin 4) (a : SReg) (m : BitVec 8)
  /-- `LDQB` (R265). -/
  | ldqb (w : Stall) (p : Fin 4) (a : SReg) (m : BitVec 8)
  /-- `STQ` (R265). -/
  | stq (w : Stall) (p : Fin 4) (a : SReg) (m : BitVec 8)
  /-- `STQM` (R266). -/
  | stqm (w : Stall) (p : Fin 4) (a : SReg) (m : BitVec 8)
  /-- `PREF` (R267). -/
  | pref (w : Stall) (a b : SReg)
  /-- `CWB` (R267). -/
  | cwb (w : Stall) (a b : SReg)
  /-- `CINV` (R267). -/
  | cinv (w : Stall) (a b : SReg)
  /-- `CWBI` (R267). -/
  | cwbi (w : Stall) (a b : SReg)
  /-- `CZERO` (R267). -/
  | czero (w : Stall) (a b : SReg)
  /-- `CEGO` (R273). -/
  | cego (w : Stall) (d a : SReg)
  /-- `CEWAIT` (R273). -/
  | cewait (w : Stall) (a : SReg)
  /-- `CEPOLL` (R273). -/
  | cepoll (w : Stall) (d a : SReg)
  /-- `RCFENCE` (R276). -/
  | rcfence (w : Stall)
  /-- `TSRLD` (R277). -/
  | tsrld (w : Stall) (d a : SReg) (x : Fin 8)
  /-- `MDLD` (R278). -/
  | mdld (w : Stall) (d a b : SReg)
  /-- `HIST` (R279). -/
  | hist (w : Stall) (d a : SReg)
  /-- `HISTRD` (R280). -/
  | histrd (w : Stall) (d : SReg) (n : Fin 32) (z : Bool)
  /-- `GVGET` (R281). -/
  | gvget (w : Stall) (d a : SReg)
  /-- `GVREP` (R282). -/
  | gvrep (w : Stall) (d a b : SReg)
  /-- `GVSTEP` (R283). -/
  | gvstep (w : Stall) (d : SReg)
  -- Turkar: ordering, phasers, supersteps, atomics and the plane (R317 to R352)
  /-- `FENCE` (R317). -/
  | fence (w : Stall) (p : BitVec 4) (q : BitVec 5) (v b : Bool) (c : Fin 6)
  /-- `MARK` (R318). -/
  | mark (w : Stall) (q : Seq)
  /-- `PHJOIN` (R320). -/
  | phjoin (w : Stall) (d a : SReg) (m : Fin 4)
  /-- `PHDROP` (R320). -/
  | phdrop (w : Stall) (a : SReg)
  /-- `PHSIG` (R320). -/
  | phsig (w : Stall) (a : SReg)
  /-- `PHWAIT` (R320). -/
  | phwait (w : Stall) (d a : SReg)
  /-- `PHSW` (R320). -/
  | phsw (w : Stall) (d a : SReg)
  /-- `PHQRY` (R322). -/
  | phqry (w : Stall) (d a : SReg)
  /-- `SSARR` (R324). -/
  | ssarr (w : Stall) (d a : SReg)
  /-- `SSWAIT` (R324). -/
  | sswait (w : Stall) (d a : SReg)
  /-- `SSQRY` (R324). -/
  | ssqry (w : Stall) (d a : SReg)
  /-- `MONARM` (R328). -/
  | monarm (w : Stall) (a : SReg)
  /-- `MONWAIT` (R329). -/
  | monwait (w : Stall) (d : SReg)
  /-- `MONCLR` (R329). -/
  | monclr (w : Stall)
  /-- `ACCADD` (R326). -/
  | accadd (w : Stall) (a b : SReg)
  /-- `ACCADDF` (R326). -/
  | accaddf (w : Stall) (d a b : SReg)
  /-- `ACCSWP` (R326). -/
  | accswp (w : Stall) (d a b : SReg)
  /-- `ACCGET` (R326). -/
  | accget (w : Stall) (d a : SReg)
  /-- `ACCSET` (R326). -/
  | accset (w : Stall) (a b : SReg)
  /-- `BID` (R333). -/
  | bid (w : Stall) (a b : SReg)
  /-- `BIDW` (R334). -/
  | bidw (w : Stall) (d a : SReg)
  /-- `ARES` (R335). -/
  | ares (w : Stall) (d a : SReg)
  /-- `TRIGARM` (R350). -/
  | trigarm (w : Stall) (d a b : SReg)
  /-- `TRIGDIS` (R351). -/
  | trigdis (w : Stall) (d a : SReg)
  /-- `RCVCNT` (R352). -/
  | rcvcnt (w : Stall) (d a b : SReg)
  /-- `CWALK` (R348). -/
  | cwalk (w : Stall) (d a : SReg)
  /-- `CWAIT` (R349). -/
  | cwait (w : Stall) (a : SReg)
  -- C-seq vector groups (R177 to R197)
  /-- `VADD` (R177). -/
  | vadd (w : Stall) (p : Pfx) (t : NumType) (r : Rnd) (u : Bool) (d : VDst) (a b : VSrc)
  /-- `VSUB` (R177). -/
  | vsub (w : Stall) (p : Pfx) (t : NumType) (r : Rnd) (u : Bool) (d : VDst) (a b : VSrc)
  /-- `VMUL` (R177). -/
  | vmul (w : Stall) (p : Pfx) (t : NumType) (r : Rnd) (u : Bool) (d : VDst) (a b : VSrc)
  /-- `VFMA` (R177). -/
  | vfma (w : Stall) (p : Pfx) (t : NumType) (r : Rnd) (u : Bool) (d : VDst) (a b c : VSrc)
  /-- `VFMS` (R177). -/
  | vfms (w : Stall) (p : Pfx) (t : NumType) (r : Rnd) (u : Bool) (d : VDst) (a b c : VSrc)
  /-- `VFNMA` (R177). -/
  | vfnma (w : Stall) (p : Pfx) (t : NumType) (r : Rnd) (u : Bool) (d : VDst) (a b c : VSrc)
  /-- `VMIN` (R177). -/
  | vmin (w : Stall) (p : Pfx) (t : NumType) (r : Rnd) (u : Bool) (d : VDst) (a b : VSrc)
  /-- `VMAX` (R177). -/
  | vmax (w : Stall) (p : Pfx) (t : NumType) (r : Rnd) (u : Bool) (d : VDst) (a b : VSrc)
  /-- `VABS` (R177). -/
  | vabs (w : Stall) (p : Pfx) (t : NumType) (r : Rnd) (u : Bool) (d : VDst) (a : VSrc)
  /-- `VNEG` (R177). -/
  | vneg (w : Stall) (p : Pfx) (t : NumType) (r : Rnd) (u : Bool) (d : VDst) (a : VSrc)
  /-- `VCLMP` (R177). -/
  | vclmp (w : Stall) (p : Pfx) (t : NumType) (r : Rnd) (u : Bool) (d : VDst) (a b c : VSrc)
  /-- `VRND` (R177). -/
  | vrnd (w : Stall) (p : Pfx) (t : NumType) (r : Rnd) (u : Bool) (d : VDst) (a : VSrc)
  /-- `VRCP` (R179). -/
  | vrcp (w : Stall) (p : Pfx) (t : NumType) (r : Rnd) (u : Bool) (d : VDst) (a : VSrc)
  /-- `VRSQ` (R179). -/
  | vrsq (w : Stall) (p : Pfx) (t : NumType) (r : Rnd) (u : Bool) (d : VDst) (a : VSrc)
  /-- `VSQRT` (R179). -/
  | vsqrt (w : Stall) (p : Pfx) (t : NumType) (r : Rnd) (u : Bool) (d : VDst) (a : VSrc)
  /-- `VEXP2` (R179). -/
  | vexp2 (w : Stall) (p : Pfx) (t : NumType) (r : Rnd) (u : Bool) (d : VDst) (a : VSrc)
  /-- `VLOG2` (R179). -/
  | vlog2 (w : Stall) (p : Pfx) (t : NumType) (r : Rnd) (u : Bool) (d : VDst) (a : VSrc)
  /-- `VTANH` (R179). -/
  | vtanh (w : Stall) (p : Pfx) (t : NumType) (r : Rnd) (u : Bool) (d : VDst) (a : VSrc)
  /-- `VSIGM` (R179). -/
  | vsigm (w : Stall) (p : Pfx) (t : NumType) (r : Rnd) (u : Bool) (d : VDst) (a : VSrc)
  /-- `VAND` (R180). -/
  | vand (w : Stall) (p : Pfx) (d : VDst) (a b : VSrc)
  /-- `VOR` (R180). -/
  | vor (w : Stall) (p : Pfx) (d : VDst) (a b : VSrc)
  /-- `VXOR` (R180). -/
  | vxor (w : Stall) (p : Pfx) (d : VDst) (a b : VSrc)
  /-- `VNOT` (R180). -/
  | vnot (w : Stall) (p : Pfx) (d : VDst) (a : VSrc)
  /-- `VSHL` (R180). -/
  | vshl (w : Stall) (p : Pfx) (t : NumType) (d : VDst) (a : VSrc) (m : ShAmt)
  /-- `VSHR` (R180). -/
  | vshr (w : Stall) (p : Pfx) (t : NumType) (d : VDst) (a : VSrc) (m : ShAmt)
  /-- `VSRA` (R180). -/
  | vsra (w : Stall) (p : Pfx) (t : NumType) (d : VDst) (a : VSrc) (m : ShAmt)
  /-- `VPOPC` (R180). -/
  | vpopc (w : Stall) (p : Pfx) (t : NumType) (d : VDst) (a : VSrc)
  /-- `VCLZ` (R180). -/
  | vclz (w : Stall) (p : Pfx) (t : NumType) (d : VDst) (a : VSrc)
  /-- `VCMPEQ` (R181). -/
  | vcmpeq (w : Stall) (p : Pfx) (t : NumType) (d : Fin 16) (a b : VSrc)
  /-- `VCMPNE` (R181). -/
  | vcmpne (w : Stall) (p : Pfx) (t : NumType) (d : Fin 16) (a b : VSrc)
  /-- `VCMPLT` (R181). -/
  | vcmplt (w : Stall) (p : Pfx) (t : NumType) (d : Fin 16) (a b : VSrc)
  /-- `VCMPLE` (R181). -/
  | vcmple (w : Stall) (p : Pfx) (t : NumType) (d : Fin 16) (a b : VSrc)
  /-- `VCMPGT` (R181). -/
  | vcmpgt (w : Stall) (p : Pfx) (t : NumType) (d : Fin 16) (a b : VSrc)
  /-- `VCMPGE` (R181). -/
  | vcmpge (w : Stall) (p : Pfx) (t : NumType) (d : Fin 16) (a b : VSrc)
  /-- `VCLASS` (R181). -/
  | vclass (w : Stall) (p : Pfx) (d : Fin 16) (a : VSrc) (m : BitVec 9)
  /-- `VMOV` (R182). -/
  | vmov (w : Stall) (p : Pfx) (d : VDst) (a : VSrc)
  /-- `VSEL` (R182). -/
  | vsel (w : Stall) (p : Pfx) (d : VDst) (a b : VSrc)
  /-- `VSPLAT` (R182). -/
  | vsplat (w : Stall) (p : Pfx) (d : VDst) (a : VSrc) (y : Fin 16) (x : Fin 64)
  /-- `VMOVI` (R182). -/
  | vmovi (w : Stall) (p : Pfx) (t : NumType) (d : VDst) (k : BitVec 18)
  /-- `VEXTR` (R182). -/
  | vextr (w : Stall) (p : Pfx) (t : NumType) (d : VDst) (a : VSrc) (e : Fin 16)
  /-- `VROTR` (R183). -/
  | vrotr (w : Stall) (p : Pfx) (d : VDst) (a : VSrc) (k : Fin 64)
  /-- `VBCR` (R183). -/
  | vbcr (w : Stall) (p : Pfx) (d : VDst) (a : VSrc) (k : Fin 64)
  /-- `VSUMR` (R184). -/
  | vsumr (w : Stall) (p : Pfx) (t : NumType) (r : Rnd) (u : Bool) (d : VDst) (a : VSrc)
  /-- `VMAXR` (R183). -/
  | vmaxr (w : Stall) (p : Pfx) (t : NumType) (d : VDst) (a : VSrc)
  /-- `VMINR` (R183). -/
  | vminr (w : Stall) (p : Pfx) (t : NumType) (d : VDst) (a : VSrc)
  /-- `VSCNR` (R183). -/
  | vscnr (w : Stall) (p : Pfx) (t : NumType) (r : Rnd) (u : Bool) (d : VDst) (a : VSrc)
  /-- `VXLR` (R185). -/
  | vxlr (w : Stall) (p : Pfx) (d : VDst) (a b : VSrc)
  /-- `VROTC` (R183). -/
  | vrotc (w : Stall) (p : Pfx) (d : VDst) (a : VSrc) (k : Fin 16)
  /-- `VBCC` (R183). -/
  | vbcc (w : Stall) (p : Pfx) (d : VDst) (a : VSrc) (k : Fin 16)
  /-- `VSUMC` (R184). -/
  | vsumc (w : Stall) (p : Pfx) (t : NumType) (r : Rnd) (u : Bool) (d : VDst) (a : VSrc)
  /-- `VMAXC` (R183). -/
  | vmaxc (w : Stall) (p : Pfx) (t : NumType) (d : VDst) (a : VSrc)
  /-- `VMINC` (R183). -/
  | vminc (w : Stall) (p : Pfx) (t : NumType) (d : VDst) (a : VSrc)
  /-- `VSCNC` (R183). -/
  | vscnc (w : Stall) (p : Pfx) (t : NumType) (r : Rnd) (u : Bool) (d : VDst) (a : VSrc)
  /-- `VXLC` (R185). -/
  | vxlc (w : Stall) (p : Pfx) (d : VDst) (a b : VSrc)
  /-- `VCVT` (R186). -/
  | vcvt (w : Stall) (p : Pfx) (t : NumType) (r : Rnd) (u : Bool) (d : VDst) (a : VSrc) (b : Option VSrc) (f : NumType)
  /-- `VQNT` (R187). -/
  | vqnt (w : Stall) (p : Pfx) (t : NumType) (r : Rnd) (u : Bool) (d : VDst) (a : VSrc) (c : Fin 32) (k : Blk)
  /-- `VDQN` (R188). -/
  | vdqn (w : Stall) (p : Pfx) (t : NumType) (r : Rnd) (u : Bool) (d : VDst) (a b : VSrc)
  /-- `VPACK` (R189). -/
  | vpack (w : Stall) (p : Pfx) (t : NumType) (d : VDst) (a : VSrc) (e : Fin 16)
  /-- `VUNPK` (R189). -/
  | vunpk (w : Stall) (p : Pfx) (t : NumType) (d : VDst) (a : VSrc) (e : Fin 16)
  /-- `VSCALE` (R190). -/
  | vscale (w : Stall) (p : Pfx) (t : NumType) (r : Rnd) (u : Bool) (d : VDst) (a b : VSrc)
  /-- `VADAM` (R192). -/
  | vadam (w : Stall) (p : Pfx)
  /-- `VSGDM` (R193). -/
  | vsgdm (w : Stall) (p : Pfx)
  /-- `VNORMSQ` (R194). -/
  | vnormsq (w : Stall) (p : Pfx) (d : VDst) (a : VSrc)
  /-- `PAND` (R195). -/
  | pand (w : Stall) (p : Pfx) (d a b : Fin 16)
  /-- `POR` (R195). -/
  | por (w : Stall) (p : Pfx) (d a b : Fin 16)
  /-- `PXOR` (R195). -/
  | pxor (w : Stall) (p : Pfx) (d a b : Fin 16)
  /-- `PNOT` (R195). -/
  | pnot (w : Stall) (p : Pfx) (d a : Fin 16)
  /-- `PSET` (R195). -/
  | pset (w : Stall) (p : Pfx) (d : Fin 16) (y : BitVec 5) (x : BitVec 7)
  /-- `PCNT` (R195). -/
  | pcnt (w : Stall) (p : Pfx) (d : VDst) (a : Fin 16)
  /-- `CLOOP` (R197). -/
  | cloop (w : Stall) (d : Fin 4) (o : BitVec 12)
  /-- `CBRANY` (R196). -/
  | cbrany (w : Stall) (a : Fin 16) (o : BitVec 12)
  /-- `CBRALL` (R196). -/
  | cbrall (w : Stall) (a : Fin 16) (o : BitVec 12)
  /-- `CJ` (R196). -/
  | cj (w : Stall) (o : BitVec 18)
  /-- `CLCSET` (R196). -/
  | clcset (w : Stall) (d : Fin 4) (m : BitVec 18)
  /-- `CSTAGE` (R196). -/
  | cstage (w : Stall) (n : Fin 9)
  -- C-seq matrix, accumulator and GEMV groups (R224 to R241)
  /-- `MSHAPE` (R224). -/
  | mshape (w : Stall) (d : Fin 4) (m : Fin 3) (n : Fin 64)
  /-- `MTILE` (R225). -/
  | mtile (w : Stall) (d : Fin 4) (o : BitVec 12)
  /-- `ASETX` (R226). -/
  | asetx (w : Stall) (d : Fin 32) (e : Bool) (x : BitVec 12)
  /-- `AZERO` (R227). -/
  | azero (w : Stall) (d : Fin 32) (n : BitVec 6)
  /-- `LOTREQ` (R228). -/
  | lotreq (w : Stall) (n : Fin 33)
  /-- `LOTREL` (R228). -/
  | lotrel (w : Stall) (n : Fin 33)
  /-- `MMA` (R229). -/
  | mma (w : Stall) (d : Fin 32) (a b : Fin 4) (n : BitVec 12)
  /-- `MMAA` (R229). -/
  | mmaa (w : Stall) (d : Fin 32) (a b : Fin 4) (n : BitVec 12)
  /-- `MMAS` (R229). -/
  | mmas (w : Stall) (d : Fin 32) (a b : Fin 4) (n : BitVec 12)
  /-- `MCOMMIT` (R230). -/
  | mcommit (w : Stall) (d : Fin 4)
  /-- `MWAIT` (R231). -/
  | mwait (w : Stall) (a : Fin 4)
  /-- `MPOLL` (R232). -/
  | mpoll (w : Stall) (d : Fin 16) (a : Fin 4)
  /-- `ANORM` (R233). -/
  | anorm (w : Stall) (d : Fin 32) (n : Fin 64)
  /-- `ACVT` (R234). -/
  | acvt (w : Stall) (p : Pfx) (t : NumType) (r : Rnd) (u : Bool) (d : VDst) (a : Fin 32)
  /-- `AADD` (R235). -/
  | aadd (w : Stall) (d a : Fin 32)
  /-- `ALD` (R236). -/
  | ald (w : Stall) (d : Fin 32) (a b : VSrc)
  /-- `AST` (R236). -/
  | ast (w : Stall) (p : Pfx) (d : VDst) (a : Fin 32) (h : Bool)
  /-- `AHDR` (R237). -/
  | ahdr (w : Stall) (d : VDst) (a : Fin 32)
  /-- `AMOV` (R238). -/
  | amov (w : Stall) (d a : Fin 32)
  /-- `GEMVGO` (R240). -/
  | gemvgo (w : Stall) (d : Fin 4) (o : BitVec 12)
  /-- `GEMVWAIT` (R241). -/
  | gemvwait (w : Stall) (a : Fin 4)
  -- Pitch instructions (R356)
  /-- `PNOP` (R356). -/
  | pnop
  /-- `PLDP` (R356). -/
  | pldp (d : Fin 16) (k : Fin 4) (o : BitVec 12)
  /-- `PSTP` (R356). -/
  | pstp (d : Fin 16) (k : Fin 4) (o : BitVec 12)
  /-- `PHDR` (R356). -/
  | phdr (d : Fin 16) (k c : Fin 4)
  /-- `PLDF` (R356). -/
  | pldf (d : Fin 16) (k : Fin 4) (h : Bool)
  /-- `PSTF` (R356). -/
  | pstf (d : Fin 16) (k : Fin 4) (h : Bool)
  /-- `PLDFX` (R356). -/
  | pldfx (d a : Fin 16) (k : Fin 4) (h : Bool)
  /-- `PSTFX` (R356). -/
  | pstfx (d a : Fin 16) (k : Fin 4) (h : Bool)
  /-- `PADD` (R356). -/
  | padd (d a b : Fin 16) (k : Fin 4)
  /-- `PSUB` (R356). -/
  | psub (d a b : Fin 16) (k : Fin 4)
  /-- `PMUL` (R356). -/
  | pmul (d a b : Fin 16) (k : Fin 4)
  /-- `PVAND` (R356). -/
  | pvand (d a b : Fin 16) (k : Fin 4)
  /-- `PVOR` (R356). -/
  | pvor (d a b : Fin 16) (k : Fin 4)
  /-- `PVXOR` (R356). -/
  | pvxor (d a b : Fin 16) (k : Fin 4)
  /-- `PSHL` (R356). -/
  | pshl (d a b : Fin 16) (k : Fin 4)
  /-- `PSHR` (R356). -/
  | pshr (d a b : Fin 16) (k : Fin 4)
  /-- `PSRA` (R356). -/
  | psra (d a b : Fin 16) (k : Fin 4)
  /-- `PMIN` (R356). -/
  | pmin (d a b : Fin 16) (k : Fin 4)
  /-- `PMAX` (R356). -/
  | pmax (d a b : Fin 16) (k : Fin 4)
  /-- `PMAXN` (R356). -/
  | pmaxn (d a b : Fin 16) (k : Fin 4)
  /-- `PFXA` (R359). -/
  | pfxa (d a b : Fin 16) (k : Fin 4)
  /-- `PADDI` (R356). -/
  | paddi (d a : Fin 16) (k : Fin 4) (m : BitVec 12)
  /-- `PMOVI` (R356). -/
  | pmovi (d : Fin 16) (k : Fin 4) (m : BitVec 20)
  /-- `PCEQ` (R356). -/
  | pceq (d : Fin 4) (a b : Fin 16) (k : Fin 4)
  /-- `PCLT` (R356). -/
  | pclt (d : Fin 4) (a b : Fin 16) (k : Fin 4)
  /-- `PCLTN` (R356). -/
  | pcltn (d : Fin 4) (a b : Fin 16) (k : Fin 4)
  /-- `PMASK` (R356). -/
  | pmask (d k : Fin 4) (m : BitVec 16)
  /-- `PSEL` (R356). -/
  | psel (d a b : Fin 16) (k : Fin 4)
  /-- `PBCL` (R356). -/
  | pbcl (d a : Fin 16) (k : Fin 4) (n : Fin 16)
  /-- `PBANY` (R356). -/
  | pbany (a : Fin 4) (o : BitVec 12)
  /-- `PJ` (R356). -/
  | pj (o : BitVec 12)
  /-- `PREPN` (R356). -/
  | prepn (n l : Fin 64)
  /-- `PFWD` (R356). -/
  | pfwd
  /-- `PDROP` (R356). -/
  | pdrop
  /-- `PENQ` (R356). -/
  | penq (a : Fin 16) (q : Fin 256)
  /-- `PEMIT` (R356). -/
  | pemit (n : Fin 64)
  -- Herilo Command Set (R90, R404)
  /-- `REC_BIND` (R73). -/
  | recBind (tag : BitVec 16) (first count ctx : Word)
  /-- `REC_FREE` (R90). -/
  | recFree (tag : BitVec 16) (first count : Word)
  /-- `REC_WRITE` (R76). -/
  | recWrite (tag : BitVec 16) (idx word count addr : Word)
  /-- `REC_ARM` (R77). -/
  | recArm (tag : BitVec 16) (idx : Word)
  /-- `GRAPH_ARM` (R90). -/
  | graphArm (tag : BitVec 16) (count addr : Word)
  /-- `REC_CANCEL` (R85). -/
  | recCancel (tag : BitVec 16) (idx : Word)
  /-- `WQ_CONFIG` (R88). -/
  | wqConfig (tag : BitVec 16) (queue ctx k fixed : Word)
  /-- `WQ_PUSH` (R90). -/
  | wqPush (tag : BitVec 16) (queue v : Word)
  /-- `CTX_CREATE` (R404). -/
  | ctxCreate (tag : BitVec 16) (ctx asid root job : Word)
  /-- `CTX_DESTROY` (R404). -/
  | ctxDestroy (tag : BitVec 16) (ctx : Word)
  /-- `ALLOW` (R93). -/
  | allow (tag : BitVec 16) (ctx mask : Word)
  /-- `STRIPE` (R247). -/
  | stripe (tag : BitVec 16) (ctx d : Word)
  /-- `IMAGE` (R387). -/
  | image (tag : BitVec 16) (ctx addr size haddr hsize interval : Word)
  /-- `BIND` (R404). -/
  | bind (tag : BitVec 16) (kind idx ctx : Word)
  /-- `TLB_INVAL` (R301). -/
  | tlbInval (tag : BitVec 16) (addr len : Word)
  /-- `PAGE_MOVE` (R259). -/
  | pageMove (tag : BitVec 16) (addr stack : Word)
  /-- `EVQ` (R383). -/
  | evq (tag : BitVec 16) (ctx addr k : Word)
  /-- `MEM_WRITE` (R405). -/
  | memWrite (tag : BitVec 16) (va len haddr : Word)
  /-- `MEM_READ` (R405). -/
  | memRead (tag : BitVec 16) (va len haddr : Word)
  /-- `PHYS_WRITE` (R405). -/
  | physWrite (tag : BitVec 16) (pa len haddr : Word)
  /-- `PHYS_READ` (R405). -/
  | physRead (tag : BitVec 16) (pa len haddr : Word)
  /-- `PSR_WRITE` (R62). -/
  | psrWrite (tag : BitVec 16) (layer role lo hi : Word)
  /-- `CLASS_TARGET` (R68). -/
  | classTarget (tag : BitVec 16) (cls target : Word)
  /-- `OP_POINT` (R12). -/
  | opPoint (tag : BitVec 16) (mask point : Word)
  /-- `FLOW_WRITE` (R353). -/
  | flowWrite (tag : BitVec 16) (port flow lo hi addr : Word)
  /-- `CLASSIFY` (R353). -/
  | classify (tag : BitVec 16) (port entry job src flow : Word)
  /-- `KERNEL_LOAD` (R357). -/
  | kernelLoad (tag : BitVec 16) (port pp off addr len : Word)
  /-- `TASK_RESUME` (R395). -/
  | taskResume (tag : BitVec 16) (lr wid : Word)
  /-- `LAUNCH_STATS` (R401). -/
  | launchStats (tag : BitVec 16) (lr addr : Word)
  /-- `CONFIG_READ` (R408). -/
  | configRead (tag : BitVec 16) (addr : Word)
  /-- `ERR_READ` (R404). -/
  | errRead (tag : BitVec 16) (addr clear : Word)
  /-- `ATTEST` (R410). -/
  | attest (tag : BitVec 16) (nonce addr : Word)
  -- Ring, register and management events (R402, R403, R411)
  /-- `UNSUPPORTED_COMMAND` (R403). -/
  | unsupportedCommand (tag op : BitVec 16)
  /-- `DOORBELL` (R402). -/
  | doorbell (ring : Nat) (tail : Word)
  /-- `RING_ENABLE` (R402). -/
  | ringEnable (ring : Nat) (v : Word)
  /-- `RING_DISABLE` (R402). -/
  | ringDisable (ring : Nat) (v : Word)
  /-- `REGISTER_WRITE` (R402). -/
  | registerWrite (off : Nat) (v : Word)
  /-- `PLDM_SENSOR_READ` (R411). -/
  | pldmSensorRead (sensor : Sensor)
  -- Events of the package
  /-- `STALL_COUNT_EXPIRY` (R148). -/
  | stallCountExpiry (t : Nat) (q : Seq)
  /-- `RESULT_LAND` (R149). -/
  | resultLand (t : Nat) (q : Seq)
  /-- `INTERLOCKED_RESULT` (R150). -/
  | interlockedResult (t : Nat) (q : Seq)
  /-- `TOKEN_WAIT_COMPLETE` (R117). -/
  | tokenWaitComplete (t : Nat) (q : Seq)
  /-- `PORT_WAIT_COMPLETE` (R174). -/
  | portWaitComplete (t : Nat) (q : Seq)
  /-- `AG_OPERAND_ACCEPT` (R245). -/
  | agOperandAccept (t : Nat) (g : Fin 8)
  /-- `AG_OPERAND_COMPLETE` (R257). -/
  | agOperandComplete (t : Nat) (g : Fin 8)
  /-- `ENGINE_START` (R269). -/
  | engineStart (t : Nat) (e : Engine)
  /-- `COPY_CHUNK` (R274). -/
  | copyChunk (t : Nat)
  /-- `HIST_RETIRE` (R279). -/
  | histRetire (t : Nat)
  /-- `GEMV_RETIRE` (R240). -/
  | gemvRetire (t : Nat)
  /-- `MATRIX_CHUNK` (R200). -/
  | matrixChunk (t : Nat)
  /-- `LOT_GRANT` (R101). -/
  | lotGrant (die core : Nat)
  /-- `WQPOP_SERVED` (R89). -/
  | wqpopServed (queue : Nat)
  /-- `MONITOR_WAKE` (R329). -/
  | monitorWake (t : Nat) (reason : Fin 4)
  /-- `SPURIOUS_MONITOR_WAKE` (R329). -/
  | spuriousMonitorWake (t : Nat)
  /-- `FENCE_COMPLETE` (R295). -/
  | fenceComplete (t : Nat) (q : Seq)
  /-- `MARK_PAIR_COMPLETE` (R293). -/
  | markPairComplete (t : Nat) (q d : Seq)
  /-- `STALL_TIMEOUT` (R330). -/
  | stallTimeout (t : Nat) (q : Seq)
  /-- `WALK_TRANSFER_SEND` (R340). -/
  | walkTransferSend (t : Nat)
  /-- `TRANSFER_LAND` (R342). -/
  | transferLand (n : Nat)
  /-- `PAGE_WALK_COMPLETE` (R251). -/
  | pageWalkComplete (die ctx : Nat) (va : Word)
  /-- `PAGE_MIGRATION_COMPLETE` (R259). -/
  | pageMigrationComplete (ctx : Nat) (va : Word)
  /-- `TASK_RETIRE` (R156). -/
  | taskRetire (t : Nat)
  /-- `RETIREMENT` (R399). -/
  | retirement
  /-- `COMPLETION_PUSH_LAND` (R83). -/
  | completionPushLand (lr : Nat)
  /-- `TASK_PLACEMENT` (R97). -/
  | taskPlacement (lr : Nat)
  /-- `CUT_COMPLETE` (R385). -/
  | cutComplete (t : Nat)
  /-- `RESUME` (R390). -/
  | resume (t : Nat)
  /-- `IMAGE_INTERVAL_EXPIRY` (R388). -/
  | imageIntervalExpiry (ctx : Nat)
  /-- `BOUNDARY_EVALUATION` (R69). -/
  | boundaryEvaluation (cls : Nat)
  /-- `AUCTION_CALL` (R109). -/
  | auctionCall (lane : Fin 4)
  /-- `AUCTION_ROUND_END` (R106): `bad` when a die saw A ≠ B (R110), `silent` the dies that drive nothing in a heartbeat
  round (R111). -/
  | auctionRoundEnd (lane : Fin 4) (bad : Bool) (silent : BitVec 8)
  /-- `WIRE_TEST_COMPLETE` (R110). -/
  | wireTestComplete (lane : Fin 4) (stuck : Bool)
  /-- `HEARTBEAT_TICK` (R109). -/
  | heartbeatTick
  /-- `LINK_WAKE_DONE` (R379). -/
  | linkWakeDone (die : Nat)
  /-- `LINK_WAKE_TIMEOUT` (R379). -/
  | linkWakeTimeout (die : Nat)
  /-- `FLIT_CRC_ERROR` (R378). -/
  | flitCrcError (die ln : Nat)
  /-- `CORRECTABLE_ERROR` (R372). -/
  | correctableError (arr : Fin 16)
  /-- `UNCORRECTABLE_ERROR` (R373). -/
  | uncorrectableError (arr : Fin 16) (loc : Loc)
  /-- `MACHINE_CHECK` (R375). -/
  | machineCheck (t : Nat)
  /-- `PARITY_ERROR` (R374). -/
  | parityError (t : Nat) (arr : Fin 16)
  /-- `SCRUB` (R372). -/
  | scrub (arr : Fin 16)
  /-- `CHANNEL_FAILURE` (R19). -/
  | channelFailure (stack : Nat)
  /-- `EVQ_SLOT_FREED` (R383). -/
  | evqSlotFreed (ctx : Nat) (consumed : Word)
  /-- `PACKET_ARRIVAL` (R354). -/
  | packetArrival (port : Fin 16) (pkt : Packet)
  /-- `BOOT` (R406). `tested` gives the good cores and channels that step 4 finds in each die. -/
  | boot (perst ok : Bool) (tested : List (Nat × Nat))
  /-- `LINK_TRAIN_TIMEOUT` (R406). -/
  | linkTrainTimeout (die : Nat)
  /-- `POWER_CAP_EXCEEDED` (R411). -/
  | powerCapExceeded
  /-- `JUNCTION_OVER_95` (R411). -/
  | junctionOver95 (die : Nat) (temp : BitVec 8)
  /-- `JUNCTION_CRITICAL` (R411). -/
  | junctionCritical (die : Nat)
  /-- `COOLANT_FLOW_LOST` (R411). -/
  | coolantFlowLost
  /-- `THERMAL_CLEARED` (R411). -/
  | thermalCleared (die : Nat)
  /-- `SHUTDOWN_TIMER` (R411). -/
  | shutdownTimer
  /-- `OPERATING_POINT_HALT_END` (R13). -/
  | operatingPointHaltEnd (die : Nat)
  /-- `VECTOR_UNIT_OCCUPANCY_END` (R175, R216): of the vector unit, or of the accumulator port. -/
  | vectorUnitOccupancyEnd (die core : Nat) (acc : Bool)
  /-- `LANE_REPAIR_COMPLETE` (R378). -/
  | laneRepairComplete (die : Nat)
  /-- `LINK_SLEEP` (R379). -/
  | linkSleep (die : Nat)
  deriving DecidableEq, Repr

end Sys2Proof
end

