-- ==== Sys2Proof/WellFormed.lean ====
section
/-! DEFINITION. Well-formed instructions: the operand values that R119 to R128 and the entries admit, for the
sequencer that executes the instruction. An ill-formed term has no encoding that decodes back to it. -/

namespace Sys2Proof

/-- Storage width in bits of each format (R24). -/
def NumType.width : NumType → Nat
  | .f32 => 32 | .bf16 => 16 | .f16 => 16 | .e4m3 => 8 | .e5m2 => 8 | .e2m1 => 4 | .mk8 => 8 | .e8m0 => 8
  | .i32 => 32 | .i16 => 16 | .i8 => 8 | .i4 => 4 | .i2 => 2 | .n32 => 32 | .n16 => 16 | .n8 => 8
  | .n4 => 4 | .n2 => 2 | .fxa => 64

/-- The type sets of R176: FL. -/
def NumType.isFL (t : NumType) : Bool := t == .f32 || t == .bf16 || t == .f16
/-- The type sets of R176: SI. -/
def NumType.isSI (t : NumType) : Bool := t == .i32 || t == .i16 || t == .i8
/-- The unsigned types n32, n16 and n8 of R180. -/
def NumType.isNW (t : NumType) : Bool := t == .n32 || t == .n16 || t == .n8
/-- The type sets of R176: IN. -/
def NumType.isIN (t : NumType) : Bool := t.isSI || t.isNW
/-- The type sets of R176: WD. -/
def NumType.isWD (t : NumType) : Bool := t == .f32 || t == .i32 || t == .n32
/-- The partial-sum type. -/
def NumType.isFxa (t : NumType) : Bool := t == .fxa
/-- The element types of `vqnt` and `vdqn` (R187). -/
def NumType.isQT (t : NumType) : Bool := t == .e4m3 || t == .e5m2 || t == .e2m1 || t == .mk8 || t == .i8
/-- The types of `vpack` (R189). -/
def NumType.isNP (t : NumType) : Bool := t == .n16 || t == .n8 || t == .n4 || t == .n2
/-- The types of `vextr` and `vunpk` (R182, R189). -/
def NumType.isXT (t : NumType) : Bool := t.isNP || t == .i16 || t == .i8 || t == .i4 || t == .i2
/-- The types of `vmovi` (R182). -/
def NumType.isMI (t : NumType) : Bool := t == .i32 || t == .f32
/-- Every type: the targets of `vcvt` (R186). -/
def NumType.any (_ : NumType) : Bool := true

/-- Whether a scalar register is available on a sequencer (R123). -/
def SReg.onSeq (me : Seq) : SReg → Bool
  | .x n => n == 0 || me == .k
  | .a _ => me == .l || me == .w
  | .lc _ => true

/-- Whether a register may stand in a branch of a sequencer (R124). -/
def SReg.onBranch (me : Seq) : SReg → Bool
  | .x n => n == 0 || me == .k
  | .a _ => me == .l || me == .w
  | .lc _ => false

/-- Whether a generator belongs to a sequencer (R260). -/
def genOn (me : Seq) (g : Fin 8) : Bool :=
  match me with
  | .l => decide (g.val < 4)
  | .w => decide (4 ≤ g.val)
  | _ => false

/-- P = 0 with PN = 1 is reserved (R122). -/
def Pfx.ok (p : Pfx) : Bool := p.p != 0 || !p.pn

/-- An immediate shift amount is below the element width (R180). -/
def ShAmt.okFor (t : NumType) : ShAmt → Bool
  | .reg _ => true
  | .imm n => decide (n.val < t.width)

/-- Whether a `vcvt` is one of the fxa forms (R186). -/
def cvtFxa (t f : NumType) : Bool := t == .fxa || f == .fxa

/-- The pairs `vcvt` accepts: any but an fxa form whose other side is neither f32 nor i32 (R186). -/
def cvtOk (t f : NumType) : Bool :=
  if t == .fxa then f == .f32 || f == .i32 else if f == .fxa then t == .f32 || t == .i32 else true

/-- The conditions under which a Turkar instruction is legal on sequencer `me` (R128, R131), beside the ranges its
type already gives; pitch instructions, commands and events have no sequencer, and none is refused. -/
def Instr.wf (me : Seq) : Instr → Bool
  | .nop _ => true
  | .trap _ _ => true
  | .rft _ => me == .k
  | .brk _ => true
  | .tend _ => me == .k
  | .srd _ d _ => me == .k && d.onSeq me
  | .swr _ a _ => me == .k && a.onSeq me
  | .imgcut _ d => me == .k && d.onSeq me
  | .add _ d a b => me != .c && d.onSeq me && a.onSeq me && b.onSeq me
  | .sub _ d a b => me != .c && d.onSeq me && a.onSeq me && b.onSeq me
  | .and _ d a b => me != .c && d.onSeq me && a.onSeq me && b.onSeq me
  | .or _ d a b => me != .c && d.onSeq me && a.onSeq me && b.onSeq me
  | .xor _ d a b => me != .c && d.onSeq me && a.onSeq me && b.onSeq me
  | .shl _ d a b => me != .c && d.onSeq me && a.onSeq me && b.onSeq me
  | .shr _ d a b => me != .c && d.onSeq me && a.onSeq me && b.onSeq me
  | .sra _ d a b => me != .c && d.onSeq me && a.onSeq me && b.onSeq me
  | .min _ d a b => me != .c && d.onSeq me && a.onSeq me && b.onSeq me
  | .max _ d a b => me != .c && d.onSeq me && a.onSeq me && b.onSeq me
  | .minn _ d a b => me != .c && d.onSeq me && a.onSeq me && b.onSeq me
  | .maxn _ d a b => me != .c && d.onSeq me && a.onSeq me && b.onSeq me
  | .slt _ d a b => me != .c && d.onSeq me && a.onSeq me && b.onSeq me
  | .sltn _ d a b => me != .c && d.onSeq me && a.onSeq me && b.onSeq me
  | .seq _ d a b => me != .c && d.onSeq me && a.onSeq me && b.onSeq me
  | .sne _ d a b => me != .c && d.onSeq me && a.onSeq me && b.onSeq me
  | .mul _ d a b => me != .c && d.onSeq me && a.onSeq me && b.onSeq me
  | .mulh _ d a b => me != .c && d.onSeq me && a.onSeq me && b.onSeq me
  | .mulhn _ d a b => me != .c && d.onSeq me && a.onSeq me && b.onSeq me
  | .div _ d a b => me != .c && d.onSeq me && a.onSeq me && b.onSeq me
  | .divn _ d a b => me != .c && d.onSeq me && a.onSeq me && b.onSeq me
  | .rem _ d a b => me != .c && d.onSeq me && a.onSeq me && b.onSeq me
  | .remn _ d a b => me != .c && d.onSeq me && a.onSeq me && b.onSeq me
  | .clz _ d a => me != .c && d.onSeq me && a.onSeq me
  | .ctz _ d a => me != .c && d.onSeq me && a.onSeq me
  | .popc _ d a => me != .c && d.onSeq me && a.onSeq me
  | .brev _ d a => me != .c && d.onSeq me && a.onSeq me
  | .lea2 _ d a b => me != .c && d.onSeq me && a.onSeq me && b.onSeq me
  | .lea4 _ d a b => me != .c && d.onSeq me && a.onSeq me && b.onSeq me
  | .lea8 _ d a b => me != .c && d.onSeq me && a.onSeq me && b.onSeq me
  | .addi _ d a _ => me != .c && d.onSeq me && a.onSeq me
  | .andi _ d a _ => me != .c && d.onSeq me && a.onSeq me
  | .ori _ d a _ => me != .c && d.onSeq me && a.onSeq me
  | .xori _ d a _ => me != .c && d.onSeq me && a.onSeq me
  | .shli _ d a _ => me != .c && d.onSeq me && a.onSeq me
  | .shri _ d a _ => me != .c && d.onSeq me && a.onSeq me
  | .srai _ d a _ => me != .c && d.onSeq me && a.onSeq me
  | .slti _ d a _ => me != .c && d.onSeq me && a.onSeq me
  | .sltni _ d a _ => me != .c && d.onSeq me && a.onSeq me
  | .lui _ d _ => me != .c && d.onSeq me
  | .lsh _ d _ => me != .c && d.onSeq me
  | .beq _ a b _ => me != .c && a.onBranch me && b.onBranch me
  | .bne _ a b _ => me != .c && a.onBranch me && b.onBranch me
  | .blt _ a b _ => me != .c && a.onBranch me && b.onBranch me
  | .bge _ a b _ => me != .c && a.onBranch me && b.onBranch me
  | .bltn _ a b _ => me != .c && a.onBranch me && b.onBranch me
  | .bgen _ a b _ => me != .c && a.onBranch me && b.onBranch me
  | .j _ _ => me == .k
  | .jal _ d _ => me == .k && d.onSeq me
  | .jr _ a => me == .k && a.onSeq me
  | .jalr _ d a => me == .k && d.onSeq me && a.onSeq me
  | .loop _ _ _ => me != .c
  | .lcset _ _ _ => me != .c
  | .lds _ d a _ _ => me == .k && d.onSeq me && a.onSeq me
  | .sts _ d a _ _ => me == .k && d.onSeq me && a.onSeq me
  | .tgive _ q => (q != me)
  | .ttake _ q => (q != me)
  | .tcnt _ d _ q => d.onSeq me && (q != me)
  | .lpatch _ d a b => me == .k && d.onSeq me && a.onSeq me && b.onSeq me
  | .larm _ d a => me == .k && d.onSeq me && a.onSeq me
  | .lstat _ d a => me == .k && d.onSeq me && a.onSeq me
  | .wqpush _ d a b => me == .k && d.onSeq me && a.onSeq me && b.onSeq me
  | .wqpop _ d a => me == .k && d.onSeq me && a.onSeq me
  | .wqlen _ d a => me == .k && d.onSeq me && a.onSeq me
  | .hops _ d a b => me == .k && d.onSeq me && a.onSeq me && b.onSeq me
  | .vdid _ d => me == .k && d.onSeq me
  | .widf _ d _ => me == .k && d.onSeq me
  | .tile _ d => me == .k && d.onSeq me
  | .agbase _ a g => (me == .l || me == .w) && a.onSeq me && genOn me g
  | .aglev _ d a _ g => (me == .l || me == .w) && d.onSeq me && a.onSeq me && genOn me g
  | .agpat _ a _ g => (me == .l || me == .w) && a.onSeq me && genOn me g
  | .aggo _ g => (me == .l || me == .w) && genOn me g
  | .agstop _ g => (me == .l || me == .w) && genOn me g
  | .agwait _ g => (me == .l || me == .w) && genOn me g
  | .agstat _ d g => (me == .l || me == .w) && d.onSeq me && genOn me g
  | .ldq _ _ a _ => me == .l && a.onSeq me
  | .ldqb _ _ a _ => me == .l && a.onSeq me
  | .stq _ _ a _ => me == .w && a.onSeq me
  | .stqm _ _ a _ => me == .w && a.onSeq me
  | .pref _ a b => (me == .l || me == .w) && a.onSeq me && b.onSeq me
  | .cwb _ a b => (me == .l || me == .w) && a.onSeq me && b.onSeq me
  | .cinv _ a b => (me == .l || me == .w) && a.onSeq me && b.onSeq me
  | .cwbi _ a b => (me == .l || me == .w) && a.onSeq me && b.onSeq me
  | .czero _ a b => (me == .l || me == .w) && a.onSeq me && b.onSeq me
  | .cego _ d a => me != .c && d.onSeq me && a.onSeq me
  | .cewait _ a => me != .c && a.onSeq me
  | .cepoll _ d a => me != .c && d.onSeq me && a.onSeq me
  | .rcfence _ => me != .c
  | .tsrld _ d a _ => me != .c && d.onSeq me && a.onSeq me
  | .mdld _ d a b => me != .c && d.onSeq me && a.onSeq me && b.onSeq me
  | .hist _ d a => (me == .l || me == .w) && d.onSeq me && a.onSeq me
  | .histrd _ d _ _ => (me == .l || me == .w) && d.onSeq me
  | .gvget _ d a => me == .k && d.onSeq me && a.onSeq me
  | .gvrep _ d a b => me == .k && d.onSeq me && a.onSeq me && b.onSeq me
  | .gvstep _ d => me == .k && d.onSeq me
  | .fence _ _ _ _ _ _ => true
  | .mark _ q => (q != me)
  | .phjoin _ d a _ => me == .k && d.onSeq me && a.onSeq me
  | .phdrop _ a => me == .k && a.onSeq me
  | .phsig _ a => me == .k && a.onSeq me
  | .phwait _ d a => me == .k && d.onSeq me && a.onSeq me
  | .phsw _ d a => me == .k && d.onSeq me && a.onSeq me
  | .phqry _ d a => me == .k && d.onSeq me && a.onSeq me
  | .ssarr _ d a => me == .k && d.onSeq me && a.onSeq me
  | .sswait _ d a => me == .k && d.onSeq me && a.onSeq me
  | .ssqry _ d a => me == .k && d.onSeq me && a.onSeq me
  | .monarm _ a => me == .k && a.onSeq me
  | .monwait _ d => me == .k && d.onSeq me
  | .monclr _ => me == .k
  | .accadd _ a b => (me == .k || me == .w) && a.onSeq me && b.onSeq me
  | .accaddf _ d a b => (me == .k || me == .w) && d.onSeq me && a.onSeq me && b.onSeq me
  | .accswp _ d a b => (me == .k || me == .w) && d.onSeq me && a.onSeq me && b.onSeq me
  | .accget _ d a => (me == .k || me == .w) && d.onSeq me && a.onSeq me
  | .accset _ a b => (me == .k || me == .w) && a.onSeq me && b.onSeq me
  | .bid _ a b => me == .k && a.onSeq me && b.onSeq me
  | .bidw _ d a => me == .k && d.onSeq me && a.onSeq me
  | .ares _ d a => me == .k && d.onSeq me && a.onSeq me
  | .trigarm _ d a b => me == .k && d.onSeq me && a.onSeq me && b.onSeq me
  | .trigdis _ d a => me == .k && d.onSeq me && a.onSeq me
  | .rcvcnt _ d a b => me == .k && d.onSeq me && a.onSeq me && b.onSeq me
  | .cwalk _ d a => me == .k && d.onSeq me && a.onSeq me
  | .cwait _ a => me == .k && a.onSeq me
  | .vadd _ p t _ _ _ _ _ => me == .c && p.ok && (t.isFL || t.isIN || t.isFxa)
  | .vsub _ p t _ _ _ _ _ => me == .c && p.ok && (t.isFL || t.isIN || t.isFxa)
  | .vmul _ p t _ _ _ _ _ => me == .c && p.ok && (t.isFL || t.isIN)
  | .vfma _ p t _ _ _ _ _ _ => me == .c && p.ok && (t.isFL)
  | .vfms _ p t _ _ _ _ _ _ => me == .c && p.ok && (t.isFL)
  | .vfnma _ p t _ _ _ _ _ _ => me == .c && p.ok && (t.isFL)
  | .vmin _ p t _ _ _ _ _ => me == .c && p.ok && (t.isFL || t.isIN || t.isFxa)
  | .vmax _ p t _ _ _ _ _ => me == .c && p.ok && (t.isFL || t.isIN || t.isFxa)
  | .vabs _ p t _ _ _ _ => me == .c && p.ok && (t.isFL || t.isSI || t.isFxa)
  | .vneg _ p t _ _ _ _ => me == .c && p.ok && (t.isFL || t.isSI || t.isFxa)
  | .vclmp _ p t _ _ _ _ _ _ => me == .c && p.ok && (t.isFL || t.isIN)
  | .vrnd _ p t _ _ _ _ => me == .c && p.ok && (t.isFL)
  | .vrcp _ p t _ _ _ _ => me == .c && p.ok && (t.isFL)
  | .vrsq _ p t _ _ _ _ => me == .c && p.ok && (t.isFL)
  | .vsqrt _ p t _ _ _ _ => me == .c && p.ok && (t.isFL)
  | .vexp2 _ p t _ _ _ _ => me == .c && p.ok && (t.isFL)
  | .vlog2 _ p t _ _ _ _ => me == .c && p.ok && (t.isFL)
  | .vtanh _ p t _ _ _ _ => me == .c && p.ok && (t.isFL)
  | .vsigm _ p t _ _ _ _ => me == .c && p.ok && (t.isFL)
  | .vand _ p _ _ _ => me == .c && p.ok
  | .vor _ p _ _ _ => me == .c && p.ok
  | .vxor _ p _ _ _ => me == .c && p.ok
  | .vnot _ p _ _ => me == .c && p.ok
  | .vshl _ p t _ _ m => me == .c && p.ok && (t.isNW) && m.okFor t
  | .vshr _ p t _ _ m => me == .c && p.ok && (t.isNW) && m.okFor t
  | .vsra _ p t _ _ m => me == .c && p.ok && (t.isSI) && m.okFor t
  | .vpopc _ p t _ _ => me == .c && p.ok && (t.isNW)
  | .vclz _ p t _ _ => me == .c && p.ok && (t.isNW)
  | .vcmpeq _ p t d _ _ => me == .c && p.ok && (t.isWD) && (d != 0)
  | .vcmpne _ p t d _ _ => me == .c && p.ok && (t.isWD) && (d != 0)
  | .vcmplt _ p t d _ _ => me == .c && p.ok && (t.isWD) && (d != 0)
  | .vcmple _ p t d _ _ => me == .c && p.ok && (t.isWD) && (d != 0)
  | .vcmpgt _ p t d _ _ => me == .c && p.ok && (t.isWD) && (d != 0)
  | .vcmpge _ p t d _ _ => me == .c && p.ok && (t.isWD) && (d != 0)
  | .vclass _ p d _ _ => me == .c && p.ok && (d != 0)
  | .vmov _ p _ _ => me == .c && p.ok
  | .vsel _ p _ _ _ => me == .c && p.ok
  | .vsplat _ p _ _ _ _ => me == .c && p.ok
  | .vmovi _ p t _ _ => me == .c && p.ok && (t.isMI)
  | .vextr _ p t _ _ e => me == .c && p.ok && (t.isXT) && decide (e.val < 32 / t.width)
  | .vrotr _ p _ _ _ => me == .c && p.ok
  | .vbcr _ p _ _ _ => me == .c && p.ok
  | .vsumr _ p t _ _ _ _ => me == .c && p.ok && (t.isWD || t.isFxa)
  | .vmaxr _ p t _ _ => me == .c && p.ok && (t.isWD)
  | .vminr _ p t _ _ => me == .c && p.ok && (t.isWD)
  | .vscnr _ p t _ _ _ _ => me == .c && p.ok && (t.isWD)
  | .vxlr _ p _ _ _ => me == .c && p.ok
  | .vrotc _ p _ _ _ => me == .c && p.ok
  | .vbcc _ p _ _ _ => me == .c && p.ok
  | .vsumc _ p t _ _ _ _ => me == .c && p.ok && (t.isWD || t.isFxa)
  | .vmaxc _ p t _ _ => me == .c && p.ok && (t.isWD)
  | .vminc _ p t _ _ => me == .c && p.ok && (t.isWD)
  | .vscnc _ p t _ _ _ _ => me == .c && p.ok && (t.isWD)
  | .vxlc _ p _ _ _ => me == .c && p.ok
  | .vcvt _ p t _ _ _ _ b f => me == .c && p.ok && (t.any) && cvtOk t f && (b.isSome == cvtFxa t f)
  | .vqnt _ p t _ _ d _ c _ => me == .c && p.ok && (t.isQT) && (d != .v c)
  | .vdqn _ p t _ _ _ _ _ => me == .c && p.ok && (t.isQT)
  | .vpack _ p t _ _ e => me == .c && p.ok && (t.isNP) && decide (e.val < 32 / t.width)
  | .vunpk _ p t _ _ e => me == .c && p.ok && (t.isXT) && decide (e.val < 32 / t.width)
  | .vscale _ p t _ _ _ _ _ => me == .c && p.ok && (t.isFL)
  | .vadam _ p => me == .c && p.ok
  | .vsgdm _ p => me == .c && p.ok
  | .vnormsq _ p _ _ => me == .c && p.ok
  | .pand _ p d _ _ => me == .c && p.ok && (d != 0)
  | .por _ p d _ _ => me == .c && p.ok && (d != 0)
  | .pxor _ p d _ _ => me == .c && p.ok && (d != 0)
  | .pnot _ p d _ => me == .c && p.ok && (d != 0)
  | .pset _ p d y x => me == .c && p.ok && (d != 0) && decide (y.toNat ≤ 16) && decide (x.toNat ≤ 64)
  | .pcnt _ p _ _ => me == .c && p.ok
  | .cloop _ _ _ => me == .c
  | .cbrany _ _ _ => me == .c
  | .cbrall _ _ _ => me == .c
  | .cj _ _ => me == .c
  | .clcset _ _ _ => me == .c
  | .cstage _ n => me == .c && (n != 0)
  | .mshape _ _ _ n => me == .c && (n != 0)
  | .mtile _ _ _ => me == .c
  | .asetx _ _ _ _ => me == .c
  | .azero _ _ _ => me == .c
  | .lotreq _ n => me == .c && (n != 0)
  | .lotrel _ n => me == .c && (n != 0)
  | .mma _ _ _ _ _ => me == .c
  | .mmaa _ _ _ _ _ => me == .c
  | .mmas _ _ _ _ _ => me == .c
  | .mcommit _ _ => me == .c
  | .mwait _ _ => me == .c
  | .mpoll _ d _ => me == .c && (d != 0)
  | .anorm _ _ _ => me == .c
  | .acvt _ p t _ _ _ _ => me == .c && p.ok && (t.isFL)
  | .aadd _ _ _ => me == .c
  | .ald _ _ _ _ => me == .c
  | .ast _ p _ _ _ => me == .c && p.ok
  | .ahdr _ _ _ => me == .c
  | .amov _ _ _ => me == .c
  | .gemvgo _ _ _ => me == .c
  | .gemvwait _ _ => me == .c
  | .pnop => true
  | .pldp _ _ _ => true
  | .pstp _ _ _ => true
  | .phdr _ _ _ => true
  | .pldf _ _ _ => true
  | .pstf _ _ _ => true
  | .pldfx _ _ _ _ => true
  | .pstfx _ _ _ _ => true
  | .padd _ _ _ _ => true
  | .psub _ _ _ _ => true
  | .pmul _ _ _ _ => true
  | .pvand _ _ _ _ => true
  | .pvor _ _ _ _ => true
  | .pvxor _ _ _ _ => true
  | .pshl _ _ _ _ => true
  | .pshr _ _ _ _ => true
  | .psra _ _ _ _ => true
  | .pmin _ _ _ _ => true
  | .pmax _ _ _ _ => true
  | .pmaxn _ _ _ _ => true
  | .pfxa _ _ _ _ => true
  | .paddi _ _ _ _ => true
  | .pmovi _ _ _ => true
  | .pceq _ _ _ _ => true
  | .pclt _ _ _ _ => true
  | .pcltn _ _ _ _ => true
  | .pmask _ _ _ => true
  | .psel _ _ _ _ => true
  | .pbcl _ _ _ _ => true
  | .pbany _ o => o != 0
  | .pj o => o != 0
  | .prepn _ l => l != 0
  | .pfwd => true
  | .pdrop => true
  | .penq _ _ => true
  | .pemit _ => true
  | .recBind _ _ _ _ => true
  | .recFree _ _ _ => true
  | .recWrite _ _ _ _ _ => true
  | .recArm _ _ => true
  | .graphArm _ _ _ => true
  | .recCancel _ _ => true
  | .wqConfig _ _ _ _ _ => true
  | .wqPush _ _ _ => true
  | .ctxCreate _ _ _ _ _ => true
  | .ctxDestroy _ _ => true
  | .allow _ _ _ => true
  | .stripe _ _ _ => true
  | .image _ _ _ _ _ _ _ => true
  | .bind _ _ _ _ => true
  | .tlbInval _ _ _ => true
  | .pageMove _ _ _ => true
  | .evq _ _ _ _ => true
  | .memWrite _ _ _ _ => true
  | .memRead _ _ _ _ => true
  | .physWrite _ _ _ _ => true
  | .physRead _ _ _ _ => true
  | .psrWrite _ _ _ _ _ => true
  | .classTarget _ _ _ => true
  | .opPoint _ _ _ => true
  | .flowWrite _ _ _ _ _ _ => true
  | .classify _ _ _ _ _ _ => true
  | .kernelLoad _ _ _ _ _ _ => true
  | .taskResume _ _ _ => true
  | .launchStats _ _ _ => true
  | .configRead _ _ => true
  | .errRead _ _ _ => true
  | .attest _ _ _ => true
  | .unsupportedCommand _ _ => true
  | .doorbell _ _ => true
  | .ringEnable _ _ => true
  | .ringDisable _ _ => true
  | .registerWrite _ _ => true
  | .pldmSensorRead _ => true
  | .stallCountExpiry _ _ => true
  | .resultLand _ _ => true
  | .interlockedResult _ _ => true
  | .tokenWaitComplete _ _ => true
  | .portWaitComplete _ _ => true
  | .agOperandAccept _ _ => true
  | .agOperandComplete _ _ => true
  | .engineStart _ _ => true
  | .copyChunk _ => true
  | .histRetire _ => true
  | .gemvRetire _ => true
  | .matrixChunk _ => true
  | .lotGrant _ _ => true
  | .wqpopServed _ => true
  | .monitorWake _ _ => true
  | .spuriousMonitorWake _ => true
  | .fenceComplete _ _ => true
  | .markPairComplete _ _ _ => true
  | .stallTimeout _ _ => true
  | .walkTransferSend _ => true
  | .transferLand _ => true
  | .pageWalkComplete _ _ _ => true
  | .pageMigrationComplete _ _ => true
  | .taskRetire _ => true
  | .retirement => true
  | .completionPushLand _ => true
  | .taskPlacement _ => true
  | .cutComplete _ => true
  | .resume _ => true
  | .imageIntervalExpiry _ => true
  | .boundaryEvaluation _ => true
  | .auctionCall _ => true
  | .auctionRoundEnd _ _ _ => true
  | .wireTestComplete _ _ => true
  | .heartbeatTick => true
  | .linkWakeDone _ => true
  | .linkWakeTimeout _ => true
  | .flitCrcError _ _ => true
  | .correctableError _ => true
  | .uncorrectableError _ _ => true
  | .machineCheck _ => true
  | .parityError _ _ => true
  | .scrub _ => true
  | .channelFailure _ => true
  | .evqSlotFreed _ _ => true
  | .packetArrival _ _ => true
  | .boot _ _ _ => true
  | .linkTrainTimeout _ => true
  | .powerCapExceeded => true
  | .junctionOver95 _ _ => true
  | .junctionCritical _ => true
  | .coolantFlowLost => true
  | .thermalCleared _ => true
  | .shutdownTimer => true
  | .operatingPointHaltEnd _ => true
  | .vectorUnitOccupancyEnd _ _ _ => true
  | .laneRepairComplete _ => true
  | .linkSleep _ => true

end Sys2Proof
end

