-- ==== Sys2Proof/Decode.lean ====
section
/-! DEFINITION. Decoding: total on any words, rejecting by the fate R131 names; and, after it, the encoder written
from the same tables of R119 to R127. Pitch words (R355) and command descriptors (R90, R404) follow. -/

namespace Sys2Proof

/-- The three fates of a word that is not an instruction (R131). -/
inductive Fate where
  | illegalInstruction
  | wrongSequencer
  | illegalRegister
  deriving DecidableEq, Repr

/-- Raise the illegal-instruction fate unless a field check of R122 holds. -/
def need (b : Bool) : Except Fate Unit := if b then .ok () else .error .illegalInstruction
/-- Raise the illegal-register fate unless a register check holds. -/
def needR (b : Bool) : Except Fate Unit := if b then .ok () else .error .illegalRegister
/-- A field value, or the illegal-instruction fate. -/
def getI {α : Type} : Option α → Except Fate α
  | some a => .ok a
  | none => .error .illegalInstruction
/-- A register named by a field, or the illegal-register fate. -/
def getR {α : Type} : Option α → Except Fate α
  | some a => .ok a
  | none => .error .illegalRegister

/-- S of R118. -/
def sF (w : Nat) : Stall := Fin.ofNat 16 (bits w 31 28)
/-- The D field of R119. -/
def fD (w : Nat) : Nat := bits w 21 16
/-- The A field of R119. -/
def fA (w : Nat) : Nat := bits w 15 10
/-- The B field of R119. -/
def fB (w : Nat) : Nat := bits w 9 4
/-- The A field of the B format (R119). -/
def hA (w : Nat) : Nat := bits w 18 14
/-- The B field of the B format (R119). -/
def hB (w : Nat) : Nat := bits w 13 9
/-- The C field of word 1 (R121). -/
def gC (v : Nat) : Nat := bits v 31 26
/-- The P field of word 1 (R121). -/
def gP (v : Nat) : Nat := bits v 25 22
/-- The PN field of word 1 (R121). -/
def gPN (v : Nat) : Nat := bits v 21 21
/-- The TYPE field of word 1 (R121). -/
def gT (v : Nat) : Nat := bits v 20 16
/-- The RND field of word 1 (R121). -/
def gR (v : Nat) : Nat := bits v 15 13
/-- The SAT field of word 1 (R121). -/
def gS (v : Nat) : Nat := bits v 12 12
/-- The IMM12 field of word 1 (R121). -/
def gI (v : Nat) : Nat := bits v 11 0

/-- The code of a scalar register (R123). -/
def SReg.code : SReg → Nat
  | .x n => n.val
  | .a n => 32 + n.val
  | .lc n => 48 + n.val

/-- The scalar register a code names; 52 to 63 are reserved (R123). -/
def SReg.ofCode (n : Nat) : Option SReg :=
  if n < 32 then some (.x (Fin.ofNat 32 n))
  else if n < 48 then some (.a (Fin.ofNat 16 (n - 32)))
  else if n < 52 then some (.lc (Fin.ofNat 4 (n - 48)))
  else none

/-- A scalar register field on sequencer `me` (R123). -/
def getSReg (me : Seq) (n : Nat) : Except Fate SReg :=
  match SReg.ofCode n with
  | some r => if r.onSeq me then .ok r else .error .illegalRegister
  | none => .error .illegalRegister

/-- The code of a register in a branch (R124). -/
def SReg.brCode : SReg → Nat
  | .x n => n.val
  | .a n => 16 + n.val
  | .lc _ => 0

/-- A register field of a branch on sequencer `me` (R124). -/
def getBReg (me : Seq) (n : Nat) : Except Fate SReg :=
  match me with
  | .k => .ok (.x (Fin.ofNat 32 n))
  | .c => .error .illegalRegister
  | _ =>
    if n == 0 then .ok (.x 0)
    else if n < 16 then .error .illegalRegister
    else .ok (.a (Fin.ofNat 16 (n - 16)))

/-- A loop counter field, codes 48 to 51 (R164, R196). -/
def getLc (n : Nat) : Except Fate (Fin 4) :=
  if 48 ≤ n ∧ n < 52 then .ok (Fin.ofNat 4 (n - 48)) else .error .illegalRegister

/-- A port field of PORTMEM: four codes from `base` (R265). -/
def getPort (base n : Nat) : Except Fate (Fin 4) :=
  if base ≤ n ∧ n < base + 4 then .ok (Fin.ofNat 4 (n - base)) else .error .illegalRegister

/-- A generator field on sequencer `me` (R260). -/
def getGen (me : Seq) (n : Nat) : Except Fate (Fin 8) :=
  if genOn me (Fin.ofNat 8 n) then .ok (Fin.ofNat 8 n) else .error .illegalRegister

/-- The code of a vector source (R125). -/
def VSrc.code : VSrc → Nat
  | .v n => n.val
  | .lq n => 32 + n.val

/-- A vector source field (R125). -/
def getVSrc (n : Nat) : Except Fate VSrc :=
  if n < 32 then .ok (.v (Fin.ofNat 32 n))
  else if n < 36 then .ok (.lq (Fin.ofNat 4 (n - 32)))
  else .error .illegalRegister

/-- The code of a vector destination (R125). -/
def VDst.code : VDst → Nat
  | .v n => n.val
  | .sq n => 36 + n.val

/-- A vector destination field (R125). -/
def getVDst (n : Nat) : Except Fate VDst :=
  if n < 32 then .ok (.v (Fin.ofNat 32 n))
  else if 36 ≤ n ∧ n < 40 then .ok (.sq (Fin.ofNat 4 (n - 36)))
  else .error .illegalRegister

/-- A field that must name v0 to v31 (R187). -/
def getV (n : Nat) : Except Fate (Fin 32) :=
  if n < 32 then .ok (Fin.ofNat 32 n) else .error .illegalRegister

/-- A predicate source, p0 to p15 (R125). -/
def getPs (n : Nat) : Except Fate (Fin 16) :=
  if n < 16 then .ok (Fin.ofNat 16 n) else .error .illegalRegister

/-- A predicate destination, p1 to p15 (R125). -/
def getPd (n : Nat) : Except Fate (Fin 16) :=
  if 1 ≤ n ∧ n < 16 then .ok (Fin.ofNat 16 n) else .error .illegalRegister

/-- A tile field, acc0 to acc31 (R214). Tiles at or above the task's ACCD are refused at issue. -/
def getTile (n : Nat) : Except Fate (Fin 32) := getV n

/-- An operand selector field, mo0 to mo3 (R214). -/
def getSel (n : Nat) : Except Fate (Fin 4) :=
  if n < 4 then .ok (Fin.ofNat 4 n) else .error .illegalRegister

/-- The predicate prefix of word 1; P = 0 with PN = 1 is reserved (R122). -/
def getPfx (v : Nat) : Except Fate Pfx :=
  if gP v == 0 && gPN v == 1 then .error .illegalInstruction
  else .ok ⟨Fin.ofNat 16 (gP v), gPN v == 1⟩

/-- The amount of a vector shift of type `t` from B and IMM12 (R180). -/
def getShAmt (t : NumType) (b imm : Nat) : Except Fate ShAmt :=
  if imm < 32 then (if b < 32 then .ok (.reg (.v (Fin.ofNat 32 b))) else .ok (.reg (.lq (Fin.ofNat 4 (b - 32)))))
  else if imm / 32 == 64 && b == 0 && decide (imm % 32 < t.width) then .ok (.imm (Fin.ofNat 32 (imm % 32)))
  else .error .illegalInstruction

/-- The register check of a shift whose amount is a vector operand with code `b`. -/
def shAmtReg (b : Nat) : ShAmt → Except Fate ShAmt
  | .reg _ => (getVSrc b).map .reg
  | .imm n => .ok (.imm n)

/-- The B field of a shift amount. -/
def ShAmt.bField : ShAmt → Nat
  | .reg b => b.code
  | .imm _ => 0

/-- The IMM12 field of a shift amount. -/
def ShAmt.immField : ShAmt → Nat
  | .reg _ => 0
  | .imm n => 2048 + n.val

/-- The B field of a `vcvt`. -/
def cvtB : Option VSrc → Nat
  | some b => b.code
  | none => 0

/-- The B field of a `vcvt`: a vector operand exactly when one side is FXA (R186). -/
def getCvtB (t f : NumType) (n : Nat) : Except Fate (Option VSrc) :=
  if cvtFxa t f then (getVSrc n).map some else .ok none

/-- The function selector of a word: R127. -/
def selector (op w : Nat) : Nat :=
  if op == 0x0C then bits w 21 19
  else if op == 0x07 then bits w 9 8
  else if op == 0x17 then bits w 9 8
  else if 0x03 ≤ op && op ≤ 0x0E then 0
  else if op == 0x10 || op == 0x11 || op == 0x12 || op == 0x13 then 0
  else bits w 3 0

/-- How many selector values of a group R127 lists; they run from 0. -/
def selectorCount (op : Nat) : Nat :=
  ([8, 16, 14, 1, 1, 1, 1, 3, 1, 1, 1, 1, 6, 1, 1, 2,
    1, 1, 1, 1, 3, 10, 7, 4, 5, 6, 5, 2, 6, 6, 5, 8,
    12, 7, 9, 7, 5, 7, 7, 6, 3, 6, 6, 6, 6, 7, 2] : List Nat).getD op 0

/-- Which sequencer may execute an instruction: the table of R128. -/
def allowed (op fn : Nat) (me : Seq) : Bool :=
  match me with
  | .k => op ≤ 0x15 || op == 0x19 || (op == 0x1A && 2 ≤ fn) || (0x1B ≤ op && op ≤ 0x1F)
  | .l => (op == 0 && (fn == 0 || fn == 1 || fn == 3)) || (1 ≤ op && op ≤ 0x0C) || op == 0x10 || op == 0x11
      || op == 0x14 || op == 0x16 || (op == 0x17 && fn < 2) || op == 0x18 || op == 0x19 || (op == 0x1A && fn < 2)
      || op == 0x1B
  | .w => (op == 0 && (fn == 0 || fn == 1 || fn == 3)) || (1 ≤ op && op ≤ 0x0C) || op == 0x10 || op == 0x11
      || op == 0x14 || op == 0x16 || (op == 0x17 && 2 ≤ fn) || op == 0x18 || op == 0x19 || (op == 0x1A && fn < 2)
      || op == 0x1B || op == 0x1E
  | .c => (op == 0 && (fn == 0 || fn == 1 || fn == 3)) || op == 0x14 || op == 0x1B || (0x20 ≤ op && op ≤ 0x2E)

/-- Major 0x00, group SYS: the fields of R119 to R125, in the order of R131. -/
def parseSys (me : Seq) (fn w : Nat) : Except Fate Instr :=
  match fn with
  | 0 => do need (fD w == 0 && fA w == 0 && fB w == 0); .ok (.nop (sF w))
  | 1 => do need (fD w == 0 && fA w == 0); .ok (.trap (sF w) (BitVec.ofNat 6 (fB w)))
  | 2 => do need (fD w == 0 && fA w == 0 && fB w == 0); .ok (.rft (sF w))
  | 3 => do need (fD w == 0 && fA w == 0 && fB w == 0); .ok (.brk (sF w))
  | 4 => do need (fD w == 0 && fA w == 0 && fB w == 0); .ok (.tend (sF w))
  | 5 => do need (fA w == 0); let r ← getI (SysReg.ofCode (fB w)); let d ← getSReg me (fD w); .ok (.srd (sF w) d r)
  | 6 => do need (fD w == 0); let r ← getI (SysReg.ofCode (fB w)); let a ← getSReg me (fA w); .ok (.swr (sF w) a r)
  | 7 => do need (fA w == 0 && fB w == 0); let d ← getSReg me (fD w); .ok (.imgcut (sF w) d)
  | _ => .error .illegalInstruction

/-- Major 0x01, group ALU: the fields of R119 to R125, in the order of R131. -/
def parseAlu (me : Seq) (fn w : Nat) : Except Fate Instr :=
  match fn with
  | 0 => do let d ← getSReg me (fD w); let a ← getSReg me (fA w); let b ← getSReg me (fB w); .ok (.add (sF w) d a b)
  | 1 => do let d ← getSReg me (fD w); let a ← getSReg me (fA w); let b ← getSReg me (fB w); .ok (.sub (sF w) d a b)
  | 2 => do let d ← getSReg me (fD w); let a ← getSReg me (fA w); let b ← getSReg me (fB w); .ok (.and (sF w) d a b)
  | 3 => do let d ← getSReg me (fD w); let a ← getSReg me (fA w); let b ← getSReg me (fB w); .ok (.or (sF w) d a b)
  | 4 => do let d ← getSReg me (fD w); let a ← getSReg me (fA w); let b ← getSReg me (fB w); .ok (.xor (sF w) d a b)
  | 5 => do let d ← getSReg me (fD w); let a ← getSReg me (fA w); let b ← getSReg me (fB w); .ok (.shl (sF w) d a b)
  | 6 => do let d ← getSReg me (fD w); let a ← getSReg me (fA w); let b ← getSReg me (fB w); .ok (.shr (sF w) d a b)
  | 7 => do let d ← getSReg me (fD w); let a ← getSReg me (fA w); let b ← getSReg me (fB w); .ok (.sra (sF w) d a b)
  | 8 => do let d ← getSReg me (fD w); let a ← getSReg me (fA w); let b ← getSReg me (fB w); .ok (.min (sF w) d a b)
  | 9 => do let d ← getSReg me (fD w); let a ← getSReg me (fA w); let b ← getSReg me (fB w); .ok (.max (sF w) d a b)
  | 10 => do let d ← getSReg me (fD w); let a ← getSReg me (fA w); let b ← getSReg me (fB w); .ok (.minn (sF w) d a b)
  | 11 => do let d ← getSReg me (fD w); let a ← getSReg me (fA w); let b ← getSReg me (fB w); .ok (.maxn (sF w) d a b)
  | 12 => do let d ← getSReg me (fD w); let a ← getSReg me (fA w); let b ← getSReg me (fB w); .ok (.slt (sF w) d a b)
  | 13 => do let d ← getSReg me (fD w); let a ← getSReg me (fA w); let b ← getSReg me (fB w); .ok (.sltn (sF w) d a b)
  | 14 => do let d ← getSReg me (fD w); let a ← getSReg me (fA w); let b ← getSReg me (fB w); .ok (.seq (sF w) d a b)
  | 15 => do let d ← getSReg me (fD w); let a ← getSReg me (fA w); let b ← getSReg me (fB w); .ok (.sne (sF w) d a b)
  | _ => .error .illegalInstruction

/-- Major 0x02, group MULDIV: the fields of R119 to R125, in the order of R131. -/
def parseMulDiv (me : Seq) (fn w : Nat) : Except Fate Instr :=
  match fn with
  | 0 => do let d ← getSReg me (fD w); let a ← getSReg me (fA w); let b ← getSReg me (fB w); .ok (.mul (sF w) d a b)
  | 1 => do let d ← getSReg me (fD w); let a ← getSReg me (fA w); let b ← getSReg me (fB w); .ok (.mulh (sF w) d a b)
  | 2 => do let d ← getSReg me (fD w); let a ← getSReg me (fA w); let b ← getSReg me (fB w); .ok (.mulhn (sF w) d a b)
  | 3 => do let d ← getSReg me (fD w); let a ← getSReg me (fA w); let b ← getSReg me (fB w); .ok (.div (sF w) d a b)
  | 4 => do let d ← getSReg me (fD w); let a ← getSReg me (fA w); let b ← getSReg me (fB w); .ok (.divn (sF w) d a b)
  | 5 => do let d ← getSReg me (fD w); let a ← getSReg me (fA w); let b ← getSReg me (fB w); .ok (.rem (sF w) d a b)
  | 6 => do let d ← getSReg me (fD w); let a ← getSReg me (fA w); let b ← getSReg me (fB w); .ok (.remn (sF w) d a b)
  | 7 => do need (fB w == 0); let d ← getSReg me (fD w); let a ← getSReg me (fA w); .ok (.clz (sF w) d a)
  | 8 => do need (fB w == 0); let d ← getSReg me (fD w); let a ← getSReg me (fA w); .ok (.ctz (sF w) d a)
  | 9 => do need (fB w == 0); let d ← getSReg me (fD w); let a ← getSReg me (fA w); .ok (.popc (sF w) d a)
  | 10 => do need (fB w == 0); let d ← getSReg me (fD w); let a ← getSReg me (fA w); .ok (.brev (sF w) d a)
  | 11 => do let d ← getSReg me (fD w); let a ← getSReg me (fA w); let b ← getSReg me (fB w); .ok (.lea2 (sF w) d a b)
  | 12 => do let d ← getSReg me (fD w); let a ← getSReg me (fA w); let b ← getSReg me (fB w); .ok (.lea4 (sF w) d a b)
  | 13 => do let d ← getSReg me (fD w); let a ← getSReg me (fA w); let b ← getSReg me (fB w); .ok (.lea8 (sF w) d a b)
  | _ => .error .illegalInstruction

/-- Major 0x03, group ADDI: the fields of R119 to R125, in the order of R131. -/
def parseAddi (me : Seq) (w : Nat) : Except Fate Instr :=
  do let d ← getSReg me (fD w); let a ← getSReg me (fA w); .ok (.addi (sF w) d a (BitVec.ofNat 10 (bits w 9 0)))

/-- Major 0x04, group ANDI: the fields of R119 to R125, in the order of R131. -/
def parseAndi (me : Seq) (w : Nat) : Except Fate Instr :=
  do let d ← getSReg me (fD w); let a ← getSReg me (fA w); .ok (.andi (sF w) d a (BitVec.ofNat 10 (bits w 9 0)))

/-- Major 0x05, group ORI: the fields of R119 to R125, in the order of R131. -/
def parseOri (me : Seq) (w : Nat) : Except Fate Instr :=
  do let d ← getSReg me (fD w); let a ← getSReg me (fA w); .ok (.ori (sF w) d a (BitVec.ofNat 10 (bits w 9 0)))

/-- Major 0x06, group XORI: the fields of R119 to R125, in the order of R131. -/
def parseXori (me : Seq) (w : Nat) : Except Fate Instr :=
  do let d ← getSReg me (fD w); let a ← getSReg me (fA w); .ok (.xori (sF w) d a (BitVec.ofNat 10 (bits w 9 0)))

/-- Major 0x07, group SHIFTI: the fields of R119 to R125, in the order of R131. -/
def parseShifti (me : Seq) (fn w : Nat) : Except Fate Instr :=
  match fn with
  | 0 => do need (bits w 7 6 == 0); let d ← getSReg me (fD w); let a ← getSReg me (fA w); .ok (.shli (sF w) d a (BitVec.ofNat 6 (bits w 5 0)))
  | 1 => do need (bits w 7 6 == 0); let d ← getSReg me (fD w); let a ← getSReg me (fA w); .ok (.shri (sF w) d a (BitVec.ofNat 6 (bits w 5 0)))
  | 2 => do need (bits w 7 6 == 0); let d ← getSReg me (fD w); let a ← getSReg me (fA w); .ok (.srai (sF w) d a (BitVec.ofNat 6 (bits w 5 0)))
  | _ => .error .illegalInstruction

/-- Major 0x08, group SLTI: the fields of R119 to R125, in the order of R131. -/
def parseSlti (me : Seq) (w : Nat) : Except Fate Instr :=
  do let d ← getSReg me (fD w); let a ← getSReg me (fA w); .ok (.slti (sF w) d a (BitVec.ofNat 10 (bits w 9 0)))

/-- Major 0x09, group SLTNI: the fields of R119 to R125, in the order of R131. -/
def parseSltni (me : Seq) (w : Nat) : Except Fate Instr :=
  do let d ← getSReg me (fD w); let a ← getSReg me (fA w); .ok (.sltni (sF w) d a (BitVec.ofNat 10 (bits w 9 0)))

/-- Major 0x0A, group LUI: the fields of R119 to R125, in the order of R131. -/
def parseLui (me : Seq) (w : Nat) : Except Fate Instr :=
  do let d ← getSReg me (fD w); .ok (.lui (sF w) d (BitVec.ofNat 16 (bits w 15 0)))

/-- Major 0x0B, group LSH: the fields of R119 to R125, in the order of R131. -/
def parseLsh (me : Seq) (w : Nat) : Except Fate Instr :=
  do let d ← getSReg me (fD w); .ok (.lsh (sF w) d (BitVec.ofNat 16 (bits w 15 0)))

/-- Major 0x0C, group BR: the fields of R119 to R125, in the order of R131. -/
def parseBr (me : Seq) (fn w : Nat) : Except Fate Instr :=
  match fn with
  | 0 => do let a ← getBReg me (hA w); let b ← getBReg me (hB w); .ok (.beq (sF w) a b (BitVec.ofNat 9 (bits w 8 0)))
  | 1 => do let a ← getBReg me (hA w); let b ← getBReg me (hB w); .ok (.bne (sF w) a b (BitVec.ofNat 9 (bits w 8 0)))
  | 2 => do let a ← getBReg me (hA w); let b ← getBReg me (hB w); .ok (.blt (sF w) a b (BitVec.ofNat 9 (bits w 8 0)))
  | 3 => do let a ← getBReg me (hA w); let b ← getBReg me (hB w); .ok (.bge (sF w) a b (BitVec.ofNat 9 (bits w 8 0)))
  | 4 => do let a ← getBReg me (hA w); let b ← getBReg me (hB w); .ok (.bltn (sF w) a b (BitVec.ofNat 9 (bits w 8 0)))
  | 5 => do let a ← getBReg me (hA w); let b ← getBReg me (hB w); .ok (.bgen (sF w) a b (BitVec.ofNat 9 (bits w 8 0)))
  | _ => .error .illegalInstruction

/-- Major 0x0D, group J: the fields of R119 to R125, in the order of R131. -/
def parseJ (w : Nat) : Except Fate Instr :=
  .ok (.j (sF w) (BitVec.ofNat 22 (bits w 21 0)))

/-- Major 0x0E, group JAL: the fields of R119 to R125, in the order of R131. -/
def parseJal (me : Seq) (w : Nat) : Except Fate Instr :=
  do let d ← getSReg me (fD w); .ok (.jal (sF w) d (BitVec.ofNat 16 (bits w 15 0)))

/-- Major 0x0F, group JREG: the fields of R119 to R125, in the order of R131. -/
def parseJreg (me : Seq) (fn w : Nat) : Except Fate Instr :=
  match fn with
  | 0 => do need (fD w == 0 && fB w == 0); let a ← getSReg me (fA w); .ok (.jr (sF w) a)
  | 1 => do need (fB w == 0); let d ← getSReg me (fD w); let a ← getSReg me (fA w); .ok (.jalr (sF w) d a)
  | _ => .error .illegalInstruction

/-- Major 0x10, group LOOP: the fields of R119 to R125, in the order of R131. -/
def parseLoop (w : Nat) : Except Fate Instr :=
  .ok (.loop (sF w) (Fin.ofNat 4 (bits w 21 20)) (BitVec.ofNat 20 (bits w 19 0)))

/-- Major 0x11, group LCSET: the fields of R119 to R125, in the order of R131. -/
def parseLcset (w : Nat) : Except Fate Instr :=
  do let d ← getLc (fD w); .ok (.lcset (sF w) d (BitVec.ofNat 16 (bits w 15 0)))

/-- Major 0x12, group LDS: the fields of R119 to R125, in the order of R131. -/
def parseLds (me : Seq) (w : Nat) : Except Fate Instr :=
  do let d ← getSReg me (fD w); let a ← getSReg me (fA w); .ok (.lds (sF w) d a (Fin.ofNat 4 (bits w 9 8)) (BitVec.ofNat 8 (bits w 7 0)))

/-- Major 0x13, group STS: the fields of R119 to R125, in the order of R131. -/
def parseSts (me : Seq) (w : Nat) : Except Fate Instr :=
  do let d ← getSReg me (fD w); let a ← getSReg me (fA w); .ok (.sts (sF w) d a (Fin.ofNat 4 (bits w 9 8)) (BitVec.ofNat 8 (bits w 7 0)))

/-- Major 0x14, group TOKEN: the fields of R119 to R125, in the order of R131. -/
def parseToken (me : Seq) (fn w : Nat) : Except Fate Instr :=
  match fn with
  | 0 => do need (fD w == 0 && fA w == 0); let q ← getI (Seq.ofCode (fB w)); need (q != me); .ok (.tgive (sF w) q)
  | 1 => do need (fD w == 0 && fA w == 0); let q ← getI (Seq.ofCode (fB w)); need (q != me); .ok (.ttake (sF w) q)
  | 2 => do need (decide (fA w < 2)); let q ← getI (Seq.ofCode (fB w)); need (q != me); let d ← getSReg me (fD w); .ok (.tcnt (sF w) d (fA w == 1) q)
  | _ => .error .illegalInstruction

/-- Major 0x15, group WORK: the fields of R119 to R125, in the order of R131. -/
def parseWork (me : Seq) (fn w : Nat) : Except Fate Instr :=
  match fn with
  | 0 => do let d ← getSReg me (fD w); let a ← getSReg me (fA w); let b ← getSReg me (fB w); .ok (.lpatch (sF w) d a b)
  | 1 => do need (fB w == 0); let d ← getSReg me (fD w); let a ← getSReg me (fA w); .ok (.larm (sF w) d a)
  | 2 => do need (fB w == 0); let d ← getSReg me (fD w); let a ← getSReg me (fA w); .ok (.lstat (sF w) d a)
  | 3 => do let d ← getSReg me (fD w); let a ← getSReg me (fA w); let b ← getSReg me (fB w); .ok (.wqpush (sF w) d a b)
  | 4 => do need (fB w == 0); let d ← getSReg me (fD w); let a ← getSReg me (fA w); .ok (.wqpop (sF w) d a)
  | 5 => do need (fB w == 0); let d ← getSReg me (fD w); let a ← getSReg me (fA w); .ok (.wqlen (sF w) d a)
  | 6 => do let d ← getSReg me (fD w); let a ← getSReg me (fA w); let b ← getSReg me (fB w); .ok (.hops (sF w) d a b)
  | 7 => do need (fA w == 0 && fB w == 0); let d ← getSReg me (fD w); .ok (.vdid (sF w) d)
  | 8 => do need (fA w == 0); need (decide (fB w < 6)); let d ← getSReg me (fD w); .ok (.widf (sF w) d (Fin.ofNat 6 (fB w)))
  | 9 => do need (fA w == 0 && fB w == 0); let d ← getSReg me (fD w); .ok (.tile (sF w) d)
  | _ => .error .illegalInstruction

/-- Major 0x16, group AG: the fields of R119 to R125, in the order of R131. -/
def parseAg (me : Seq) (fn w : Nat) : Except Fate Instr :=
  match fn with
  | 0 => do need (fD w == 0 && bits w 9 7 == 0); let a ← getSReg me (fA w); let g ← getGen me (bits w 6 4); .ok (.agbase (sF w) a g)
  | 1 => do need (decide (bits w 9 7 < 6)); let d ← getSReg me (fD w); let a ← getSReg me (fA w); let g ← getGen me (bits w 6 4); .ok (.aglev (sF w) d a (Fin.ofNat 6 (bits w 9 7)) g)
  | 2 => do need (fD w == 0); need (decide (bits w 9 7 < 5)); let a ← getSReg me (fA w); let g ← getGen me (bits w 6 4); .ok (.agpat (sF w) a (Fin.ofNat 5 (bits w 9 7)) g)
  | 3 => do need (fD w == 0 && fA w == 0 && bits w 9 7 == 0); let g ← getGen me (bits w 6 4); .ok (.aggo (sF w) g)
  | 4 => do need (fD w == 0 && fA w == 0 && bits w 9 7 == 0); let g ← getGen me (bits w 6 4); .ok (.agstop (sF w) g)
  | 5 => do need (fD w == 0 && fA w == 0 && bits w 9 7 == 0); let g ← getGen me (bits w 6 4); .ok (.agwait (sF w) g)
  | 6 => do need (fA w == 0 && bits w 9 7 == 0); let d ← getSReg me (fD w); let g ← getGen me (bits w 6 4); .ok (.agstat (sF w) d g)
  | _ => .error .illegalInstruction

/-- Major 0x17, group PORTMEM: the fields of R119 to R125, in the order of R131. -/
def parsePortMem (me : Seq) (fn w : Nat) : Except Fate Instr :=
  match fn with
  | 0 => do let p ← getPort 32 (fD w); let a ← getSReg me (fA w); .ok (.ldq (sF w) p a (BitVec.ofNat 8 (bits w 7 0)))
  | 1 => do let p ← getPort 32 (fD w); let a ← getSReg me (fA w); .ok (.ldqb (sF w) p a (BitVec.ofNat 8 (bits w 7 0)))
  | 2 => do let p ← getPort 36 (fD w); let a ← getSReg me (fA w); .ok (.stq (sF w) p a (BitVec.ofNat 8 (bits w 7 0)))
  | 3 => do let p ← getPort 36 (fD w); let a ← getSReg me (fA w); .ok (.stqm (sF w) p a (BitVec.ofNat 8 (bits w 7 0)))
  | _ => .error .illegalInstruction

/-- Major 0x18, group CACHE: the fields of R119 to R125, in the order of R131. -/
def parseCache (me : Seq) (fn w : Nat) : Except Fate Instr :=
  match fn with
  | 0 => do need (fD w == 0); let a ← getSReg me (fA w); let b ← getSReg me (fB w); .ok (.pref (sF w) a b)
  | 1 => do need (fD w == 0); let a ← getSReg me (fA w); let b ← getSReg me (fB w); .ok (.cwb (sF w) a b)
  | 2 => do need (fD w == 0); let a ← getSReg me (fA w); let b ← getSReg me (fB w); .ok (.cinv (sF w) a b)
  | 3 => do need (fD w == 0); let a ← getSReg me (fA w); let b ← getSReg me (fB w); .ok (.cwbi (sF w) a b)
  | 4 => do need (fD w == 0); let a ← getSReg me (fA w); let b ← getSReg me (fB w); .ok (.czero (sF w) a b)
  | _ => .error .illegalInstruction

/-- Major 0x19, group COPY: the fields of R119 to R125, in the order of R131. -/
def parseCopy (me : Seq) (fn w : Nat) : Except Fate Instr :=
  match fn with
  | 0 => do need (fB w == 0); let d ← getSReg me (fD w); let a ← getSReg me (fA w); .ok (.cego (sF w) d a)
  | 1 => do need (fD w == 0 && fB w == 0); let a ← getSReg me (fA w); .ok (.cewait (sF w) a)
  | 2 => do need (fB w == 0); let d ← getSReg me (fD w); let a ← getSReg me (fA w); .ok (.cepoll (sF w) d a)
  | 3 => do need (fD w == 0 && fA w == 0 && fB w == 0); .ok (.rcfence (sF w))
  | 4 => do need (decide (fB w < 8)); let d ← getSReg me (fD w); let a ← getSReg me (fA w); .ok (.tsrld (sF w) d a (Fin.ofNat 8 (fB w)))
  | 5 => do let d ← getSReg me (fD w); let a ← getSReg me (fA w); let b ← getSReg me (fB w); .ok (.mdld (sF w) d a b)
  | _ => .error .illegalInstruction

/-- Major 0x1A, group MEAS: the fields of R119 to R125, in the order of R131. -/
def parseMeas (me : Seq) (fn w : Nat) : Except Fate Instr :=
  match fn with
  | 0 => do need (fB w == 0); let d ← getSReg me (fD w); let a ← getSReg me (fA w); .ok (.hist (sF w) d a)
  | 1 => do need (fA w == 0); let d ← getSReg me (fD w); .ok (.histrd (sF w) d (Fin.ofNat 32 (bits w 8 4)) (bits w 9 9 == 1))
  | 2 => do need (fB w == 0); let d ← getSReg me (fD w); let a ← getSReg me (fA w); .ok (.gvget (sF w) d a)
  | 3 => do let d ← getSReg me (fD w); let a ← getSReg me (fA w); let b ← getSReg me (fB w); .ok (.gvrep (sF w) d a b)
  | 4 => do need (fA w == 0 && fB w == 0); let d ← getSReg me (fD w); .ok (.gvstep (sF w) d)
  | _ => .error .illegalInstruction

/-- Major 0x1B, group ORDER: the fields of R119 to R125, in the order of R131. -/
def parseOrder (me : Seq) (fn w : Nat) : Except Fate Instr :=
  match fn with
  | 0 => do need (bits w 21 20 == 0 && bits w 15 15 == 0 && bits w 9 9 == 0); need (decide (bits w 6 4 < 6)); .ok (.fence (sF w) (BitVec.ofNat 4 (bits w 19 16)) (BitVec.ofNat 5 (bits w 14 10)) (bits w 8 8 == 1) (bits w 7 7 == 1) (Fin.ofNat 6 (bits w 6 4)))
  | 1 => do need (fD w == 0 && fA w == 0); let q ← getI (Seq.ofCode (fB w)); need (q != me); .ok (.mark (sF w) q)
  | _ => .error .illegalInstruction

/-- Major 0x1C, group PHASER: the fields of R119 to R125, in the order of R131. -/
def parsePhaser (me : Seq) (fn w : Nat) : Except Fate Instr :=
  match fn with
  | 0 => do need (decide (fB w < 4)); let d ← getSReg me (fD w); let a ← getSReg me (fA w); .ok (.phjoin (sF w) d a (Fin.ofNat 4 (fB w)))
  | 1 => do need (fD w == 0 && fB w == 0); let a ← getSReg me (fA w); .ok (.phdrop (sF w) a)
  | 2 => do need (fD w == 0 && fB w == 0); let a ← getSReg me (fA w); .ok (.phsig (sF w) a)
  | 3 => do need (fB w == 0); let d ← getSReg me (fD w); let a ← getSReg me (fA w); .ok (.phwait (sF w) d a)
  | 4 => do need (fB w == 0); let d ← getSReg me (fD w); let a ← getSReg me (fA w); .ok (.phsw (sF w) d a)
  | 5 => do need (fB w == 0); let d ← getSReg me (fD w); let a ← getSReg me (fA w); .ok (.phqry (sF w) d a)
  | _ => .error .illegalInstruction

/-- Major 0x1D, group SSMON: the fields of R119 to R125, in the order of R131. -/
def parseSsMon (me : Seq) (fn w : Nat) : Except Fate Instr :=
  match fn with
  | 0 => do need (fB w == 0); let d ← getSReg me (fD w); let a ← getSReg me (fA w); .ok (.ssarr (sF w) d a)
  | 1 => do need (fB w == 0); let d ← getSReg me (fD w); let a ← getSReg me (fA w); .ok (.sswait (sF w) d a)
  | 2 => do need (fB w == 0); let d ← getSReg me (fD w); let a ← getSReg me (fA w); .ok (.ssqry (sF w) d a)
  | 3 => do need (fD w == 0 && fB w == 0); let a ← getSReg me (fA w); .ok (.monarm (sF w) a)
  | 4 => do need (fA w == 0 && fB w == 0); let d ← getSReg me (fD w); .ok (.monwait (sF w) d)
  | 5 => do need (fD w == 0 && fA w == 0 && fB w == 0); .ok (.monclr (sF w))
  | _ => .error .illegalInstruction

/-- Major 0x1E, group ACCAT: the fields of R119 to R125, in the order of R131. -/
def parseAccAt (me : Seq) (fn w : Nat) : Except Fate Instr :=
  match fn with
  | 0 => do need (fD w == 0); let a ← getSReg me (fA w); let b ← getSReg me (fB w); .ok (.accadd (sF w) a b)
  | 1 => do let d ← getSReg me (fD w); let a ← getSReg me (fA w); let b ← getSReg me (fB w); .ok (.accaddf (sF w) d a b)
  | 2 => do let d ← getSReg me (fD w); let a ← getSReg me (fA w); let b ← getSReg me (fB w); .ok (.accswp (sF w) d a b)
  | 3 => do need (fB w == 0); let d ← getSReg me (fD w); let a ← getSReg me (fA w); .ok (.accget (sF w) d a)
  | 4 => do need (fD w == 0); let a ← getSReg me (fA w); let b ← getSReg me (fB w); .ok (.accset (sF w) a b)
  | _ => .error .illegalInstruction

/-- Major 0x1F, group PLANE: the fields of R119 to R125, in the order of R131. -/
def parsePlane (me : Seq) (fn w : Nat) : Except Fate Instr :=
  match fn with
  | 0 => do need (fD w == 0); let a ← getSReg me (fA w); let b ← getSReg me (fB w); .ok (.bid (sF w) a b)
  | 1 => do need (fB w == 0); let d ← getSReg me (fD w); let a ← getSReg me (fA w); .ok (.bidw (sF w) d a)
  | 2 => do need (fB w == 0); let d ← getSReg me (fD w); let a ← getSReg me (fA w); .ok (.ares (sF w) d a)
  | 3 => do let d ← getSReg me (fD w); let a ← getSReg me (fA w); let b ← getSReg me (fB w); .ok (.trigarm (sF w) d a b)
  | 4 => do need (fB w == 0); let d ← getSReg me (fD w); let a ← getSReg me (fA w); .ok (.trigdis (sF w) d a)
  | 5 => do let d ← getSReg me (fD w); let a ← getSReg me (fA w); let b ← getSReg me (fB w); .ok (.rcvcnt (sF w) d a b)
  | 6 => do need (fB w == 0); let d ← getSReg me (fD w); let a ← getSReg me (fA w); .ok (.cwalk (sF w) d a)
  | 7 => do need (fD w == 0 && fB w == 0); let a ← getSReg me (fA w); .ok (.cwait (sF w) a)
  | _ => .error .illegalInstruction

/-- Major 0x20, group VARITH: the fields of R119 to R125, in the order of R131. -/
def parseVArith (fn w v : Nat) : Except Fate Instr :=
  match fn with
  | 0 => do need (gC v == 0 && gI v == 0); let p ← getPfx v; let t ← getI (NumType.ofCode (gT v)); need (t.isFL || t.isIN || t.isFxa); let r ← getI (Rnd.ofCode (gR v)); let d ← getVDst (fD w); let a ← getVSrc (fA w); let b ← getVSrc (fB w); .ok (.vadd (sF w) p t r (gS v == 1) d a b)
  | 1 => do need (gC v == 0 && gI v == 0); let p ← getPfx v; let t ← getI (NumType.ofCode (gT v)); need (t.isFL || t.isIN || t.isFxa); let r ← getI (Rnd.ofCode (gR v)); let d ← getVDst (fD w); let a ← getVSrc (fA w); let b ← getVSrc (fB w); .ok (.vsub (sF w) p t r (gS v == 1) d a b)
  | 2 => do need (gC v == 0 && gI v == 0); let p ← getPfx v; let t ← getI (NumType.ofCode (gT v)); need (t.isFL || t.isIN); let r ← getI (Rnd.ofCode (gR v)); let d ← getVDst (fD w); let a ← getVSrc (fA w); let b ← getVSrc (fB w); .ok (.vmul (sF w) p t r (gS v == 1) d a b)
  | 3 => do need (gI v == 0); let p ← getPfx v; let t ← getI (NumType.ofCode (gT v)); need (t.isFL); let r ← getI (Rnd.ofCode (gR v)); let d ← getVDst (fD w); let a ← getVSrc (fA w); let b ← getVSrc (fB w); let c ← getVSrc (gC v); .ok (.vfma (sF w) p t r (gS v == 1) d a b c)
  | 4 => do need (gI v == 0); let p ← getPfx v; let t ← getI (NumType.ofCode (gT v)); need (t.isFL); let r ← getI (Rnd.ofCode (gR v)); let d ← getVDst (fD w); let a ← getVSrc (fA w); let b ← getVSrc (fB w); let c ← getVSrc (gC v); .ok (.vfms (sF w) p t r (gS v == 1) d a b c)
  | 5 => do need (gI v == 0); let p ← getPfx v; let t ← getI (NumType.ofCode (gT v)); need (t.isFL); let r ← getI (Rnd.ofCode (gR v)); let d ← getVDst (fD w); let a ← getVSrc (fA w); let b ← getVSrc (fB w); let c ← getVSrc (gC v); .ok (.vfnma (sF w) p t r (gS v == 1) d a b c)
  | 6 => do need (gC v == 0 && gI v == 0); let p ← getPfx v; let t ← getI (NumType.ofCode (gT v)); need (t.isFL || t.isIN || t.isFxa); let r ← getI (Rnd.ofCode (gR v)); let d ← getVDst (fD w); let a ← getVSrc (fA w); let b ← getVSrc (fB w); .ok (.vmin (sF w) p t r (gS v == 1) d a b)
  | 7 => do need (gC v == 0 && gI v == 0); let p ← getPfx v; let t ← getI (NumType.ofCode (gT v)); need (t.isFL || t.isIN || t.isFxa); let r ← getI (Rnd.ofCode (gR v)); let d ← getVDst (fD w); let a ← getVSrc (fA w); let b ← getVSrc (fB w); .ok (.vmax (sF w) p t r (gS v == 1) d a b)
  | 8 => do need (fB w == 0 && gC v == 0 && gI v == 0); let p ← getPfx v; let t ← getI (NumType.ofCode (gT v)); need (t.isFL || t.isSI || t.isFxa); let r ← getI (Rnd.ofCode (gR v)); let d ← getVDst (fD w); let a ← getVSrc (fA w); .ok (.vabs (sF w) p t r (gS v == 1) d a)
  | 9 => do need (fB w == 0 && gC v == 0 && gI v == 0); let p ← getPfx v; let t ← getI (NumType.ofCode (gT v)); need (t.isFL || t.isSI || t.isFxa); let r ← getI (Rnd.ofCode (gR v)); let d ← getVDst (fD w); let a ← getVSrc (fA w); .ok (.vneg (sF w) p t r (gS v == 1) d a)
  | 10 => do need (gI v == 0); let p ← getPfx v; let t ← getI (NumType.ofCode (gT v)); need (t.isFL || t.isIN); let r ← getI (Rnd.ofCode (gR v)); let d ← getVDst (fD w); let a ← getVSrc (fA w); let b ← getVSrc (fB w); let c ← getVSrc (gC v); .ok (.vclmp (sF w) p t r (gS v == 1) d a b c)
  | 11 => do need (fB w == 0 && gC v == 0 && gI v == 0); let p ← getPfx v; let t ← getI (NumType.ofCode (gT v)); need (t.isFL); let r ← getI (Rnd.ofCode (gR v)); let d ← getVDst (fD w); let a ← getVSrc (fA w); .ok (.vrnd (sF w) p t r (gS v == 1) d a)
  | _ => .error .illegalInstruction

/-- Major 0x21, group VSPEC: the fields of R119 to R125, in the order of R131. -/
def parseVSpec (fn w v : Nat) : Except Fate Instr :=
  match fn with
  | 0 => do need (fB w == 0 && gC v == 0 && gI v == 0); let p ← getPfx v; let t ← getI (NumType.ofCode (gT v)); need (t.isFL); let r ← getI (Rnd.ofCode (gR v)); let d ← getVDst (fD w); let a ← getVSrc (fA w); .ok (.vrcp (sF w) p t r (gS v == 1) d a)
  | 1 => do need (fB w == 0 && gC v == 0 && gI v == 0); let p ← getPfx v; let t ← getI (NumType.ofCode (gT v)); need (t.isFL); let r ← getI (Rnd.ofCode (gR v)); let d ← getVDst (fD w); let a ← getVSrc (fA w); .ok (.vrsq (sF w) p t r (gS v == 1) d a)
  | 2 => do need (fB w == 0 && gC v == 0 && gI v == 0); let p ← getPfx v; let t ← getI (NumType.ofCode (gT v)); need (t.isFL); let r ← getI (Rnd.ofCode (gR v)); let d ← getVDst (fD w); let a ← getVSrc (fA w); .ok (.vsqrt (sF w) p t r (gS v == 1) d a)
  | 3 => do need (fB w == 0 && gC v == 0 && gI v == 0); let p ← getPfx v; let t ← getI (NumType.ofCode (gT v)); need (t.isFL); let r ← getI (Rnd.ofCode (gR v)); let d ← getVDst (fD w); let a ← getVSrc (fA w); .ok (.vexp2 (sF w) p t r (gS v == 1) d a)
  | 4 => do need (fB w == 0 && gC v == 0 && gI v == 0); let p ← getPfx v; let t ← getI (NumType.ofCode (gT v)); need (t.isFL); let r ← getI (Rnd.ofCode (gR v)); let d ← getVDst (fD w); let a ← getVSrc (fA w); .ok (.vlog2 (sF w) p t r (gS v == 1) d a)
  | 5 => do need (fB w == 0 && gC v == 0 && gI v == 0); let p ← getPfx v; let t ← getI (NumType.ofCode (gT v)); need (t.isFL); let r ← getI (Rnd.ofCode (gR v)); let d ← getVDst (fD w); let a ← getVSrc (fA w); .ok (.vtanh (sF w) p t r (gS v == 1) d a)
  | 6 => do need (fB w == 0 && gC v == 0 && gI v == 0); let p ← getPfx v; let t ← getI (NumType.ofCode (gT v)); need (t.isFL); let r ← getI (Rnd.ofCode (gR v)); let d ← getVDst (fD w); let a ← getVSrc (fA w); .ok (.vsigm (sF w) p t r (gS v == 1) d a)
  | _ => .error .illegalInstruction

/-- Major 0x22, group VLOGIC: the fields of R119 to R125, in the order of R131. -/
def parseVLogic (fn w v : Nat) : Except Fate Instr :=
  match fn with
  | 0 => do need (gC v == 0 && gT v == 0 && gR v == 0 && gS v == 0 && gI v == 0); let p ← getPfx v; let d ← getVDst (fD w); let a ← getVSrc (fA w); let b ← getVSrc (fB w); .ok (.vand (sF w) p d a b)
  | 1 => do need (gC v == 0 && gT v == 0 && gR v == 0 && gS v == 0 && gI v == 0); let p ← getPfx v; let d ← getVDst (fD w); let a ← getVSrc (fA w); let b ← getVSrc (fB w); .ok (.vor (sF w) p d a b)
  | 2 => do need (gC v == 0 && gT v == 0 && gR v == 0 && gS v == 0 && gI v == 0); let p ← getPfx v; let d ← getVDst (fD w); let a ← getVSrc (fA w); let b ← getVSrc (fB w); .ok (.vxor (sF w) p d a b)
  | 3 => do need (fB w == 0 && gC v == 0 && gT v == 0 && gR v == 0 && gS v == 0 && gI v == 0); let p ← getPfx v; let d ← getVDst (fD w); let a ← getVSrc (fA w); .ok (.vnot (sF w) p d a)
  | 4 => do need (gC v == 0 && gR v == 0 && gS v == 0); let p ← getPfx v; let t ← getI (NumType.ofCode (gT v)); need (t.isNW); let m ← getShAmt t (fB w) (gI v); let d ← getVDst (fD w); let a ← getVSrc (fA w); let m ← shAmtReg (fB w) m; .ok (.vshl (sF w) p t d a m)
  | 5 => do need (gC v == 0 && gR v == 0 && gS v == 0); let p ← getPfx v; let t ← getI (NumType.ofCode (gT v)); need (t.isNW); let m ← getShAmt t (fB w) (gI v); let d ← getVDst (fD w); let a ← getVSrc (fA w); let m ← shAmtReg (fB w) m; .ok (.vshr (sF w) p t d a m)
  | 6 => do need (gC v == 0 && gR v == 0 && gS v == 0); let p ← getPfx v; let t ← getI (NumType.ofCode (gT v)); need (t.isSI); let m ← getShAmt t (fB w) (gI v); let d ← getVDst (fD w); let a ← getVSrc (fA w); let m ← shAmtReg (fB w) m; .ok (.vsra (sF w) p t d a m)
  | 7 => do need (fB w == 0 && gC v == 0 && gR v == 0 && gS v == 0 && gI v == 0); let p ← getPfx v; let t ← getI (NumType.ofCode (gT v)); need (t.isNW); let d ← getVDst (fD w); let a ← getVSrc (fA w); .ok (.vpopc (sF w) p t d a)
  | 8 => do need (fB w == 0 && gC v == 0 && gR v == 0 && gS v == 0 && gI v == 0); let p ← getPfx v; let t ← getI (NumType.ofCode (gT v)); need (t.isNW); let d ← getVDst (fD w); let a ← getVSrc (fA w); .ok (.vclz (sF w) p t d a)
  | _ => .error .illegalInstruction

/-- Major 0x23, group VCMP: the fields of R119 to R125, in the order of R131. -/
def parseVCmp (fn w v : Nat) : Except Fate Instr :=
  match fn with
  | 0 => do need (gC v == 0 && gR v == 0 && gS v == 0 && gI v == 0); let p ← getPfx v; let t ← getI (NumType.ofCode (gT v)); need (t.isWD); let d ← getPd (fD w); let a ← getVSrc (fA w); let b ← getVSrc (fB w); .ok (.vcmpeq (sF w) p t d a b)
  | 1 => do need (gC v == 0 && gR v == 0 && gS v == 0 && gI v == 0); let p ← getPfx v; let t ← getI (NumType.ofCode (gT v)); need (t.isWD); let d ← getPd (fD w); let a ← getVSrc (fA w); let b ← getVSrc (fB w); .ok (.vcmpne (sF w) p t d a b)
  | 2 => do need (gC v == 0 && gR v == 0 && gS v == 0 && gI v == 0); let p ← getPfx v; let t ← getI (NumType.ofCode (gT v)); need (t.isWD); let d ← getPd (fD w); let a ← getVSrc (fA w); let b ← getVSrc (fB w); .ok (.vcmplt (sF w) p t d a b)
  | 3 => do need (gC v == 0 && gR v == 0 && gS v == 0 && gI v == 0); let p ← getPfx v; let t ← getI (NumType.ofCode (gT v)); need (t.isWD); let d ← getPd (fD w); let a ← getVSrc (fA w); let b ← getVSrc (fB w); .ok (.vcmple (sF w) p t d a b)
  | 4 => do need (gC v == 0 && gR v == 0 && gS v == 0 && gI v == 0); let p ← getPfx v; let t ← getI (NumType.ofCode (gT v)); need (t.isWD); let d ← getPd (fD w); let a ← getVSrc (fA w); let b ← getVSrc (fB w); .ok (.vcmpgt (sF w) p t d a b)
  | 5 => do need (gC v == 0 && gR v == 0 && gS v == 0 && gI v == 0); let p ← getPfx v; let t ← getI (NumType.ofCode (gT v)); need (t.isWD); let d ← getPd (fD w); let a ← getVSrc (fA w); let b ← getVSrc (fB w); .ok (.vcmpge (sF w) p t d a b)
  | 6 => do need (fB w == 0 && gC v == 0 && gT v == 0 && gR v == 0 && gS v == 0); let p ← getPfx v; need (decide (gI v < 512)); let d ← getPd (fD w); let a ← getVSrc (fA w); .ok (.vclass (sF w) p d a (BitVec.ofNat 9 (gI v)))
  | _ => .error .illegalInstruction

/-- Major 0x24, group VMOVE: the fields of R119 to R125, in the order of R131. -/
def parseVMove (fn w v : Nat) : Except Fate Instr :=
  match fn with
  | 0 => do need (fB w == 0 && gC v == 0 && gT v == 0 && gR v == 0 && gS v == 0 && gI v == 0); let p ← getPfx v; let d ← getVDst (fD w); let a ← getVSrc (fA w); .ok (.vmov (sF w) p d a)
  | 1 => do need (gC v == 0 && gT v == 0 && gR v == 0 && gS v == 0 && gI v == 0); let p ← getPfx v; let d ← getVDst (fD w); let a ← getVSrc (fA w); let b ← getVSrc (fB w); .ok (.vsel (sF w) p d a b)
  | 2 => do need (fB w == 0 && gC v == 0 && gT v == 0 && gR v == 0 && gS v == 0); let p ← getPfx v; need (decide (gI v < 1024)); let d ← getVDst (fD w); let a ← getVSrc (fA w); .ok (.vsplat (sF w) p d a (Fin.ofNat 16 (bits (gI v) 9 6)) (Fin.ofNat 64 (bits (gI v) 5 0)))
  | 3 => do need (fA w == 0 && fB w == 0 && gR v == 0 && gS v == 0); let p ← getPfx v; let t ← getI (NumType.ofCode (gT v)); need (t.isMI); let d ← getVDst (fD w); .ok (.vmovi (sF w) p t d (BitVec.ofNat 18 (gC v * 4096 + gI v)))
  | 4 => do need (fB w == 0 && gC v == 0 && gR v == 0 && gS v == 0); let p ← getPfx v; let t ← getI (NumType.ofCode (gT v)); need (t.isXT); need (decide (gI v < 32 / t.width)); let d ← getVDst (fD w); let a ← getVSrc (fA w); .ok (.vextr (sF w) p t d a (Fin.ofNat 16 (gI v)))
  | _ => .error .illegalInstruction

/-- Major 0x25, group VROW: the fields of R119 to R125, in the order of R131. -/
def parseVRow (fn w v : Nat) : Except Fate Instr :=
  match fn with
  | 0 => do need (fB w == 0 && gC v == 0 && gT v == 0 && gR v == 0 && gS v == 0); let p ← getPfx v; need (decide (gI v < 64)); let d ← getVDst (fD w); let a ← getVSrc (fA w); .ok (.vrotr (sF w) p d a (Fin.ofNat 64 (gI v)))
  | 1 => do need (fB w == 0 && gC v == 0 && gT v == 0 && gR v == 0 && gS v == 0); let p ← getPfx v; need (decide (gI v < 64)); let d ← getVDst (fD w); let a ← getVSrc (fA w); .ok (.vbcr (sF w) p d a (Fin.ofNat 64 (gI v)))
  | 2 => do need (fB w == 0 && gC v == 0 && gI v == 0); let p ← getPfx v; let t ← getI (NumType.ofCode (gT v)); need (t.isWD || t.isFxa); let r ← getI (Rnd.ofCode (gR v)); let d ← getVDst (fD w); let a ← getVSrc (fA w); .ok (.vsumr (sF w) p t r (gS v == 1) d a)
  | 3 => do need (fB w == 0 && gC v == 0 && gR v == 0 && gS v == 0 && gI v == 0); let p ← getPfx v; let t ← getI (NumType.ofCode (gT v)); need (t.isWD); let d ← getVDst (fD w); let a ← getVSrc (fA w); .ok (.vmaxr (sF w) p t d a)
  | 4 => do need (fB w == 0 && gC v == 0 && gR v == 0 && gS v == 0 && gI v == 0); let p ← getPfx v; let t ← getI (NumType.ofCode (gT v)); need (t.isWD); let d ← getVDst (fD w); let a ← getVSrc (fA w); .ok (.vminr (sF w) p t d a)
  | 5 => do need (fB w == 0 && gC v == 0 && gI v == 0); let p ← getPfx v; let t ← getI (NumType.ofCode (gT v)); need (t.isWD); let r ← getI (Rnd.ofCode (gR v)); let d ← getVDst (fD w); let a ← getVSrc (fA w); .ok (.vscnr (sF w) p t r (gS v == 1) d a)
  | 6 => do need (gC v == 0 && gT v == 0 && gR v == 0 && gS v == 0 && gI v == 0); let p ← getPfx v; let d ← getVDst (fD w); let a ← getVSrc (fA w); let b ← getVSrc (fB w); .ok (.vxlr (sF w) p d a b)
  | _ => .error .illegalInstruction

/-- Major 0x26, group VCOL: the fields of R119 to R125, in the order of R131. -/
def parseVCol (fn w v : Nat) : Except Fate Instr :=
  match fn with
  | 0 => do need (fB w == 0 && gC v == 0 && gT v == 0 && gR v == 0 && gS v == 0); let p ← getPfx v; need (decide (gI v < 16)); let d ← getVDst (fD w); let a ← getVSrc (fA w); .ok (.vrotc (sF w) p d a (Fin.ofNat 16 (gI v)))
  | 1 => do need (fB w == 0 && gC v == 0 && gT v == 0 && gR v == 0 && gS v == 0); let p ← getPfx v; need (decide (gI v < 16)); let d ← getVDst (fD w); let a ← getVSrc (fA w); .ok (.vbcc (sF w) p d a (Fin.ofNat 16 (gI v)))
  | 2 => do need (fB w == 0 && gC v == 0 && gI v == 0); let p ← getPfx v; let t ← getI (NumType.ofCode (gT v)); need (t.isWD || t.isFxa); let r ← getI (Rnd.ofCode (gR v)); let d ← getVDst (fD w); let a ← getVSrc (fA w); .ok (.vsumc (sF w) p t r (gS v == 1) d a)
  | 3 => do need (fB w == 0 && gC v == 0 && gR v == 0 && gS v == 0 && gI v == 0); let p ← getPfx v; let t ← getI (NumType.ofCode (gT v)); need (t.isWD); let d ← getVDst (fD w); let a ← getVSrc (fA w); .ok (.vmaxc (sF w) p t d a)
  | 4 => do need (fB w == 0 && gC v == 0 && gR v == 0 && gS v == 0 && gI v == 0); let p ← getPfx v; let t ← getI (NumType.ofCode (gT v)); need (t.isWD); let d ← getVDst (fD w); let a ← getVSrc (fA w); .ok (.vminc (sF w) p t d a)
  | 5 => do need (fB w == 0 && gC v == 0 && gI v == 0); let p ← getPfx v; let t ← getI (NumType.ofCode (gT v)); need (t.isWD); let r ← getI (Rnd.ofCode (gR v)); let d ← getVDst (fD w); let a ← getVSrc (fA w); .ok (.vscnc (sF w) p t r (gS v == 1) d a)
  | 6 => do need (gC v == 0 && gT v == 0 && gR v == 0 && gS v == 0 && gI v == 0); let p ← getPfx v; let d ← getVDst (fD w); let a ← getVSrc (fA w); let b ← getVSrc (fB w); .ok (.vxlc (sF w) p d a b)
  | _ => .error .illegalInstruction

/-- Major 0x27, group VCONV: the fields of R119 to R125, in the order of R131. -/
def parseVConv (fn w v : Nat) : Except Fate Instr :=
  match fn with
  | 0 => do need (gC v == 0); let p ← getPfx v; let t ← getI (NumType.ofCode (gT v)); need (t.any); let r ← getI (Rnd.ofCode (gR v)); let f ← getI (NumType.ofCode (gI v)); need (cvtOk t f && (cvtFxa t f || fB w == 0)); let d ← getVDst (fD w); let a ← getVSrc (fA w); let b ← getCvtB t f (fB w); .ok (.vcvt (sF w) p t r (gS v == 1) d a b f)
  | 1 => do need (fB w == 0); let p ← getPfx v; let t ← getI (NumType.ofCode (gT v)); need (t.isQT); let r ← getI (Rnd.ofCode (gR v)); let k ← getI (Blk.ofCode (gI v)); let d ← getVDst (fD w); let a ← getVSrc (fA w); let c ← getV (gC v); needR (d != .v c); .ok (.vqnt (sF w) p t r (gS v == 1) d a c k)
  | 2 => do need (gC v == 0 && gI v == 0); let p ← getPfx v; let t ← getI (NumType.ofCode (gT v)); need (t.isQT); let r ← getI (Rnd.ofCode (gR v)); let d ← getVDst (fD w); let a ← getVSrc (fA w); let b ← getVSrc (fB w); .ok (.vdqn (sF w) p t r (gS v == 1) d a b)
  | 3 => do need (fB w == 0 && gC v == 0 && gR v == 0 && gS v == 0); let p ← getPfx v; let t ← getI (NumType.ofCode (gT v)); need (t.isNP); need (decide (gI v < 32 / t.width)); let d ← getVDst (fD w); let a ← getVSrc (fA w); .ok (.vpack (sF w) p t d a (Fin.ofNat 16 (gI v)))
  | 4 => do need (fB w == 0 && gC v == 0 && gR v == 0 && gS v == 0); let p ← getPfx v; let t ← getI (NumType.ofCode (gT v)); need (t.isXT); need (decide (gI v < 32 / t.width)); let d ← getVDst (fD w); let a ← getVSrc (fA w); .ok (.vunpk (sF w) p t d a (Fin.ofNat 16 (gI v)))
  | 5 => do need (gC v == 0 && gI v == 0); let p ← getPfx v; let t ← getI (NumType.ofCode (gT v)); need (t.isFL); let r ← getI (Rnd.ofCode (gR v)); let d ← getVDst (fD w); let a ← getVSrc (fA w); let b ← getVSrc (fB w); .ok (.vscale (sF w) p t r (gS v == 1) d a b)
  | _ => .error .illegalInstruction

/-- Major 0x28, group VOPT: the fields of R119 to R125, in the order of R131. -/
def parseVOpt (fn w v : Nat) : Except Fate Instr :=
  match fn with
  | 0 => do need (fD w == 0 && fA w == 0 && fB w == 0 && gC v == 0 && gT v == 0 && gR v == 0 && gS v == 0 && gI v == 0); let p ← getPfx v; .ok (.vadam (sF w) p)
  | 1 => do need (fD w == 0 && fA w == 0 && fB w == 0 && gC v == 0 && gT v == 0 && gR v == 0 && gS v == 0 && gI v == 0); let p ← getPfx v; .ok (.vsgdm (sF w) p)
  | 2 => do need (fB w == 0 && gC v == 0 && gT v == 0 && gR v == 0 && gS v == 0 && gI v == 0); let p ← getPfx v; let d ← getVDst (fD w); let a ← getVSrc (fA w); .ok (.vnormsq (sF w) p d a)
  | _ => .error .illegalInstruction

/-- Major 0x29, group PRED: the fields of R119 to R125, in the order of R131. -/
def parsePred (fn w v : Nat) : Except Fate Instr :=
  match fn with
  | 0 => do need (gC v == 0 && gT v == 0 && gR v == 0 && gS v == 0 && gI v == 0); let p ← getPfx v; let d ← getPd (fD w); let a ← getPs (fA w); let b ← getPs (fB w); .ok (.pand (sF w) p d a b)
  | 1 => do need (gC v == 0 && gT v == 0 && gR v == 0 && gS v == 0 && gI v == 0); let p ← getPfx v; let d ← getPd (fD w); let a ← getPs (fA w); let b ← getPs (fB w); .ok (.por (sF w) p d a b)
  | 2 => do need (gC v == 0 && gT v == 0 && gR v == 0 && gS v == 0 && gI v == 0); let p ← getPfx v; let d ← getPd (fD w); let a ← getPs (fA w); let b ← getPs (fB w); .ok (.pxor (sF w) p d a b)
  | 3 => do need (fB w == 0 && gC v == 0 && gT v == 0 && gR v == 0 && gS v == 0 && gI v == 0); let p ← getPfx v; let d ← getPd (fD w); let a ← getPs (fA w); .ok (.pnot (sF w) p d a)
  | 4 => do need (fA w == 0 && fB w == 0 && gC v == 0 && gT v == 0 && gR v == 0 && gS v == 0); let p ← getPfx v; need (decide (bits (gI v) 11 7 ≤ 16) && decide (bits (gI v) 6 0 ≤ 64)); let d ← getPd (fD w); .ok (.pset (sF w) p d (BitVec.ofNat 5 (bits (gI v) 11 7)) (BitVec.ofNat 7 (bits (gI v) 6 0)))
  | 5 => do need (fB w == 0 && gC v == 0 && gT v == 0 && gR v == 0 && gS v == 0 && gI v == 0); let p ← getPfx v; let d ← getVDst (fD w); let a ← getPs (fA w); .ok (.pcnt (sF w) p d a)
  | _ => .error .illegalInstruction

/-- Major 0x2A, group CFLOW: the fields of R119 to R125, in the order of R131. -/
def parseCFlow (fn w v : Nat) : Except Fate Instr :=
  match fn with
  | 0 => do need (fA w == 0 && fB w == 0 && gC v == 0 && gP v == 0 && gPN v == 0 && gT v == 0 && gR v == 0 && gS v == 0); let d ← getLc (fD w); .ok (.cloop (sF w) d (BitVec.ofNat 12 (gI v)))
  | 1 => do need (fD w == 0 && fB w == 0 && gC v == 0 && gP v == 0 && gPN v == 0 && gT v == 0 && gR v == 0 && gS v == 0); let a ← getPs (fA w); .ok (.cbrany (sF w) a (BitVec.ofNat 12 (gI v)))
  | 2 => do need (fD w == 0 && fB w == 0 && gC v == 0 && gP v == 0 && gPN v == 0 && gT v == 0 && gR v == 0 && gS v == 0); let a ← getPs (fA w); .ok (.cbrall (sF w) a (BitVec.ofNat 12 (gI v)))
  | 3 => do need (fD w == 0 && fA w == 0 && fB w == 0 && gP v == 0 && gPN v == 0 && gT v == 0 && gR v == 0 && gS v == 0); .ok (.cj (sF w) (BitVec.ofNat 18 (gC v * 4096 + gI v)))
  | 4 => do need (fA w == 0 && fB w == 0 && gP v == 0 && gPN v == 0 && gT v == 0 && gR v == 0 && gS v == 0); let d ← getLc (fD w); .ok (.clcset (sF w) d (BitVec.ofNat 18 (gC v * 4096 + gI v)))
  | 5 => do need (fD w == 0 && fA w == 0 && fB w == 0 && gC v == 0 && gP v == 0 && gPN v == 0 && gT v == 0 && gR v == 0 && gS v == 0); need (decide (1 ≤ gI v) && decide (gI v ≤ 8)); .ok (.cstage (sF w) (Fin.ofNat 9 (gI v)))
  | _ => .error .illegalInstruction

/-- Major 0x2B, group MSET: the fields of R119 to R125, in the order of R131. -/
def parseMSet (fn w v : Nat) : Except Fate Instr :=
  match fn with
  | 0 => do need (fA w == 0 && fB w == 0 && gC v == 0 && gP v == 0 && gPN v == 0 && gT v == 0 && gR v == 0 && gS v == 0); need (decide (bits (gI v) 7 6 < 3) && decide (gI v < 256) && decide (bits (gI v) 5 0 ≠ 0)); let d ← getLc (fD w); .ok (.mshape (sF w) d (Fin.ofNat 3 (bits (gI v) 7 6)) (Fin.ofNat 64 (bits (gI v) 5 0)))
  | 1 => do need (fA w == 0 && fB w == 0 && gC v == 0 && gP v == 0 && gPN v == 0 && gT v == 0 && gR v == 0 && gS v == 0); let d ← getSel (fD w); .ok (.mtile (sF w) d (BitVec.ofNat 12 (gI v)))
  | 2 => do need (fA w == 0 && gC v == 0 && gP v == 0 && gPN v == 0 && gT v == 0 && gR v == 0 && gS v == 0); need (decide (fB w < 2)); let d ← getTile (fD w); .ok (.asetx (sF w) d (fB w == 1) (BitVec.ofNat 12 (gI v)))
  | 3 => do need (fA w == 0 && fB w == 0 && gC v == 0 && gP v == 0 && gPN v == 0 && gT v == 0 && gR v == 0 && gS v == 0); need (decide (gI v < 64)); let d ← getTile (fD w); .ok (.azero (sF w) d (BitVec.ofNat 6 (gI v)))
  | 4 => do need (fD w == 0 && fA w == 0 && fB w == 0 && gC v == 0 && gP v == 0 && gPN v == 0 && gT v == 0 && gR v == 0 && gS v == 0); need (decide (1 ≤ gI v) && decide (gI v ≤ 32)); .ok (.lotreq (sF w) (Fin.ofNat 33 (gI v)))
  | 5 => do need (fD w == 0 && fA w == 0 && fB w == 0 && gC v == 0 && gP v == 0 && gPN v == 0 && gT v == 0 && gR v == 0 && gS v == 0); need (decide (1 ≤ gI v) && decide (gI v ≤ 32)); .ok (.lotrel (sF w) (Fin.ofNat 33 (gI v)))
  | _ => .error .illegalInstruction

/-- Major 0x2C, group MMA: the fields of R119 to R125, in the order of R131. -/
def parseMma (fn w v : Nat) : Except Fate Instr :=
  match fn with
  | 0 => do need (gC v == 0 && gP v == 0 && gPN v == 0 && gT v == 0 && gR v == 0 && gS v == 0); let d ← getTile (fD w); let a ← getSel (fA w); let b ← getSel (fB w); .ok (.mma (sF w) d a b (BitVec.ofNat 12 (gI v)))
  | 1 => do need (gC v == 0 && gP v == 0 && gPN v == 0 && gT v == 0 && gR v == 0 && gS v == 0); let d ← getTile (fD w); let a ← getSel (fA w); let b ← getSel (fB w); .ok (.mmaa (sF w) d a b (BitVec.ofNat 12 (gI v)))
  | 2 => do need (gC v == 0 && gP v == 0 && gPN v == 0 && gT v == 0 && gR v == 0 && gS v == 0); let d ← getTile (fD w); let a ← getSel (fA w); let b ← getSel (fB w); .ok (.mmas (sF w) d a b (BitVec.ofNat 12 (gI v)))
  | 3 => do need (fA w == 0 && fB w == 0 && gC v == 0 && gP v == 0 && gPN v == 0 && gT v == 0 && gR v == 0 && gS v == 0 && gI v == 0); let d ← getLc (fD w); .ok (.mcommit (sF w) d)
  | 4 => do need (fD w == 0 && fB w == 0 && gC v == 0 && gP v == 0 && gPN v == 0 && gT v == 0 && gR v == 0 && gS v == 0 && gI v == 0); let a ← getLc (fA w); .ok (.mwait (sF w) a)
  | 5 => do need (fB w == 0 && gC v == 0 && gP v == 0 && gPN v == 0 && gT v == 0 && gR v == 0 && gS v == 0 && gI v == 0); let d ← getPd (fD w); let a ← getLc (fA w); .ok (.mpoll (sF w) d a)
  | _ => .error .illegalInstruction

/-- Major 0x2D, group ACCOP: the fields of R119 to R125, in the order of R131. -/
def parseAccOp (fn w v : Nat) : Except Fate Instr :=
  match fn with
  | 0 => do need (fA w == 0 && fB w == 0 && gC v == 0 && gP v == 0 && gPN v == 0 && gT v == 0 && gR v == 0 && gS v == 0); need (decide (gI v < 64)); let d ← getTile (fD w); .ok (.anorm (sF w) d (Fin.ofNat 64 (gI v)))
  | 1 => do need (fB w == 0 && gC v == 0 && gI v == 0); let p ← getPfx v; let t ← getI (NumType.ofCode (gT v)); need (t.isFL); let r ← getI (Rnd.ofCode (gR v)); let d ← getVDst (fD w); let a ← getTile (fA w); .ok (.acvt (sF w) p t r (gS v == 1) d a)
  | 2 => do need (fB w == 0 && gC v == 0 && gP v == 0 && gPN v == 0 && gT v == 0 && gR v == 0 && gS v == 0 && gI v == 0); let d ← getTile (fD w); let a ← getTile (fA w); .ok (.aadd (sF w) d a)
  | 3 => do need (gC v == 0 && gP v == 0 && gPN v == 0 && gT v == 0 && gR v == 0 && gS v == 0 && gI v == 0); let d ← getTile (fD w); let a ← getVSrc (fA w); let b ← getVSrc (fB w); .ok (.ald (sF w) d a b)
  | 4 => do need (fB w == 0 && gC v == 0 && gT v == 0 && gR v == 0 && gS v == 0); let p ← getPfx v; need (decide (gI v < 2)); let d ← getVDst (fD w); let a ← getTile (fA w); .ok (.ast (sF w) p d a (gI v == 1))
  | 5 => do need (fB w == 0 && gC v == 0 && gP v == 0 && gPN v == 0 && gT v == 0 && gR v == 0 && gS v == 0 && gI v == 0); let d ← getVDst (fD w); let a ← getTile (fA w); .ok (.ahdr (sF w) d a)
  | 6 => do need (fB w == 0 && gC v == 0 && gP v == 0 && gPN v == 0 && gT v == 0 && gR v == 0 && gS v == 0 && gI v == 0); let d ← getTile (fD w); let a ← getTile (fA w); .ok (.amov (sF w) d a)
  | _ => .error .illegalInstruction

/-- Major 0x2E, group GEMV: the fields of R119 to R125, in the order of R131. -/
def parseGemv (fn w v : Nat) : Except Fate Instr :=
  match fn with
  | 0 => do need (fA w == 0 && fB w == 0 && gC v == 0 && gP v == 0 && gPN v == 0 && gT v == 0 && gR v == 0 && gS v == 0); let d ← getLc (fD w); .ok (.gemvgo (sF w) d (BitVec.ofNat 12 (gI v)))
  | 1 => do need (fD w == 0 && fB w == 0 && gC v == 0 && gP v == 0 && gPN v == 0 && gT v == 0 && gR v == 0 && gS v == 0 && gI v == 0); let a ← getLc (fA w); .ok (.gemvwait (sF w) a)
  | _ => .error .illegalInstruction

/-- The parser of a major opcode. -/
def parse (me : Seq) (op fn w v : Nat) : Except Fate Instr :=
  match op with
  | 0x00 => parseSys me fn w
  | 0x01 => parseAlu me fn w
  | 0x02 => parseMulDiv me fn w
  | 0x03 => parseAddi me w
  | 0x04 => parseAndi me w
  | 0x05 => parseOri me w
  | 0x06 => parseXori me w
  | 0x07 => parseShifti me fn w
  | 0x08 => parseSlti me w
  | 0x09 => parseSltni me w
  | 0x0A => parseLui me w
  | 0x0B => parseLsh me w
  | 0x0C => parseBr me fn w
  | 0x0D => parseJ w
  | 0x0E => parseJal me w
  | 0x0F => parseJreg me fn w
  | 0x10 => parseLoop w
  | 0x11 => parseLcset w
  | 0x12 => parseLds me w
  | 0x13 => parseSts me w
  | 0x14 => parseToken me fn w
  | 0x15 => parseWork me fn w
  | 0x16 => parseAg me fn w
  | 0x17 => parsePortMem me fn w
  | 0x18 => parseCache me fn w
  | 0x19 => parseCopy me fn w
  | 0x1A => parseMeas me fn w
  | 0x1B => parseOrder me fn w
  | 0x1C => parsePhaser me fn w
  | 0x1D => parseSsMon me fn w
  | 0x1E => parseAccAt me fn w
  | 0x1F => parsePlane me fn w
  | 0x20 => parseVArith fn w v
  | 0x21 => parseVSpec fn w v
  | 0x22 => parseVLogic fn w v
  | 0x23 => parseVCmp fn w v
  | 0x24 => parseVMove fn w v
  | 0x25 => parseVRow fn w v
  | 0x26 => parseVCol fn w v
  | 0x27 => parseVConv fn w v
  | 0x28 => parseVOpt fn w v
  | 0x29 => parsePred fn w v
  | 0x2A => parseCFlow fn w v
  | 0x2B => parseMSet fn w v
  | 0x2C => parseMma fn w v
  | 0x2D => parseAccOp fn w v
  | 0x2E => parseGemv fn w v
  | _ => .error .illegalInstruction

/-- The decoder of R131, its checks in the order given there. `v` is word 1, which only the C-seq has. -/
def decode (me : Seq) (w v : Nat) : Except Fate Instr :=
  let op := bits w 27 22
  if 0x2F ≤ op then .error .illegalInstruction
  else if me == .c && decide (op < 0x20) && v != 0 then .error .illegalInstruction
  else if me != .c && decide (0x20 ≤ op) then .error .wrongSequencer
  else if !decide (selector op w < selectorCount op) then .error .illegalInstruction
  else if !allowed op (selector op w) me then .error .wrongSequencer
  else parse me op (selector op w) w v

/-- A first word: S, the major opcode and the payload (R118). -/
def word (s : Stall) (op payload : Nat) : Nat := s.val * 2 ^ 28 + op * 2 ^ 22 + payload

/-- The payload of the R format (R119). -/
def r0 (d a b f : Nat) : Nat := d * 2 ^ 16 + a * 2 ^ 10 + b * 2 ^ 4 + f

/-- Word 1 of a C-seq instruction (R121). -/
def word1 (c p pn ty rnd sat imm : Nat) : Nat :=
  c * 2 ^ 26 + p * 2 ^ 22 + pn * 2 ^ 21 + ty * 2 ^ 16 + rnd * 2 ^ 13 + sat * 2 ^ 12 + imm

/-- A pitch word (R355). -/
def pword (op d a b k imm : Nat) : Nat := op * 2 ^ 26 + d * 2 ^ 22 + a * 2 ^ 18 + b * 2 ^ 14 + k * 2 ^ 12 + imm

/-- A command descriptor (R90) as its eight 64-bit words: OP and TAG, then the operands, then zeros. -/
def descriptor (op : Nat) (tag : BitVec 16) (ops : List Word) : List Nat :=
  (op + tag.toNat * 2 ^ 16) :: (ops.map (·.toNat) ++ List.replicate (7 - ops.length) 0)

/-- The words of an instruction: one or two 32-bit words of Turkar, one pitch word, or the eight 64-bit words of a
command descriptor. Events have none. -/
def encode : Instr → List Nat
  | .nop w => [word w 0 (r0 0 0 0 0)]
  | .trap w code => [word w 0 (r0 0 0 code.toNat 1)]
  | .rft w => [word w 0 (r0 0 0 0 2)]
  | .brk w => [word w 0 (r0 0 0 0 3)]
  | .tend w => [word w 0 (r0 0 0 0 4)]
  | .srd w d r => [word w 0 (r0 d.code 0 r.code 5)]
  | .swr w a r => [word w 0 (r0 0 a.code r.code 6)]
  | .imgcut w d => [word w 0 (r0 d.code 0 0 7)]
  | .add w d a b => [word w 1 (r0 d.code a.code b.code 0)]
  | .sub w d a b => [word w 1 (r0 d.code a.code b.code 1)]
  | .and w d a b => [word w 1 (r0 d.code a.code b.code 2)]
  | .or w d a b => [word w 1 (r0 d.code a.code b.code 3)]
  | .xor w d a b => [word w 1 (r0 d.code a.code b.code 4)]
  | .shl w d a b => [word w 1 (r0 d.code a.code b.code 5)]
  | .shr w d a b => [word w 1 (r0 d.code a.code b.code 6)]
  | .sra w d a b => [word w 1 (r0 d.code a.code b.code 7)]
  | .min w d a b => [word w 1 (r0 d.code a.code b.code 8)]
  | .max w d a b => [word w 1 (r0 d.code a.code b.code 9)]
  | .minn w d a b => [word w 1 (r0 d.code a.code b.code 10)]
  | .maxn w d a b => [word w 1 (r0 d.code a.code b.code 11)]
  | .slt w d a b => [word w 1 (r0 d.code a.code b.code 12)]
  | .sltn w d a b => [word w 1 (r0 d.code a.code b.code 13)]
  | .seq w d a b => [word w 1 (r0 d.code a.code b.code 14)]
  | .sne w d a b => [word w 1 (r0 d.code a.code b.code 15)]
  | .mul w d a b => [word w 2 (r0 d.code a.code b.code 0)]
  | .mulh w d a b => [word w 2 (r0 d.code a.code b.code 1)]
  | .mulhn w d a b => [word w 2 (r0 d.code a.code b.code 2)]
  | .div w d a b => [word w 2 (r0 d.code a.code b.code 3)]
  | .divn w d a b => [word w 2 (r0 d.code a.code b.code 4)]
  | .rem w d a b => [word w 2 (r0 d.code a.code b.code 5)]
  | .remn w d a b => [word w 2 (r0 d.code a.code b.code 6)]
  | .clz w d a => [word w 2 (r0 d.code a.code 0 7)]
  | .ctz w d a => [word w 2 (r0 d.code a.code 0 8)]
  | .popc w d a => [word w 2 (r0 d.code a.code 0 9)]
  | .brev w d a => [word w 2 (r0 d.code a.code 0 10)]
  | .lea2 w d a b => [word w 2 (r0 d.code a.code b.code 11)]
  | .lea4 w d a b => [word w 2 (r0 d.code a.code b.code 12)]
  | .lea8 w d a b => [word w 2 (r0 d.code a.code b.code 13)]
  | .addi w d a m => [word w 3 (d.code * 2 ^ 16 + a.code * 2 ^ 10 + m.toNat)]
  | .andi w d a m => [word w 4 (d.code * 2 ^ 16 + a.code * 2 ^ 10 + m.toNat)]
  | .ori w d a m => [word w 5 (d.code * 2 ^ 16 + a.code * 2 ^ 10 + m.toNat)]
  | .xori w d a m => [word w 6 (d.code * 2 ^ 16 + a.code * 2 ^ 10 + m.toNat)]
  | .shli w d a n => [word w 7 (d.code * 2 ^ 16 + a.code * 2 ^ 10 + (0 + n.toNat))]
  | .shri w d a n => [word w 7 (d.code * 2 ^ 16 + a.code * 2 ^ 10 + (256 + n.toNat))]
  | .srai w d a n => [word w 7 (d.code * 2 ^ 16 + a.code * 2 ^ 10 + (512 + n.toNat))]
  | .slti w d a m => [word w 8 (d.code * 2 ^ 16 + a.code * 2 ^ 10 + m.toNat)]
  | .sltni w d a m => [word w 9 (d.code * 2 ^ 16 + a.code * 2 ^ 10 + m.toNat)]
  | .lui w d m => [word w 10 (d.code * 2 ^ 16 + m.toNat)]
  | .lsh w d m => [word w 11 (d.code * 2 ^ 16 + m.toNat)]
  | .beq w a b o => [word w 12 (0 * 2 ^ 19 + a.brCode * 2 ^ 14 + b.brCode * 2 ^ 9 + o.toNat)]
  | .bne w a b o => [word w 12 (1 * 2 ^ 19 + a.brCode * 2 ^ 14 + b.brCode * 2 ^ 9 + o.toNat)]
  | .blt w a b o => [word w 12 (2 * 2 ^ 19 + a.brCode * 2 ^ 14 + b.brCode * 2 ^ 9 + o.toNat)]
  | .bge w a b o => [word w 12 (3 * 2 ^ 19 + a.brCode * 2 ^ 14 + b.brCode * 2 ^ 9 + o.toNat)]
  | .bltn w a b o => [word w 12 (4 * 2 ^ 19 + a.brCode * 2 ^ 14 + b.brCode * 2 ^ 9 + o.toNat)]
  | .bgen w a b o => [word w 12 (5 * 2 ^ 19 + a.brCode * 2 ^ 14 + b.brCode * 2 ^ 9 + o.toNat)]
  | .j w o => [word w 13 (o.toNat)]
  | .jal w d m => [word w 14 (d.code * 2 ^ 16 + m.toNat)]
  | .jr w a => [word w 15 (r0 0 a.code 0 0)]
  | .jalr w d a => [word w 15 (r0 d.code a.code 0 1)]
  | .loop w l o => [word w 16 (l.val * 2 ^ 20 + o.toNat)]
  | .lcset w d m => [word w 17 ((48 + d.val) * 2 ^ 16 + m.toNat)]
  | .lds w d a v m => [word w 18 (d.code * 2 ^ 16 + a.code * 2 ^ 10 + v.val * 2 ^ 8 + m.toNat)]
  | .sts w d a v m => [word w 19 (d.code * 2 ^ 16 + a.code * 2 ^ 10 + v.val * 2 ^ 8 + m.toNat)]
  | .tgive w q => [word w 20 (r0 0 0 q.code 0)]
  | .ttake w q => [word w 20 (r0 0 0 q.code 1)]
  | .tcnt w d e q => [word w 20 (r0 d.code e.toNat q.code 2)]
  | .lpatch w d a b => [word w 21 (r0 d.code a.code b.code 0)]
  | .larm w d a => [word w 21 (r0 d.code a.code 0 1)]
  | .lstat w d a => [word w 21 (r0 d.code a.code 0 2)]
  | .wqpush w d a b => [word w 21 (r0 d.code a.code b.code 3)]
  | .wqpop w d a => [word w 21 (r0 d.code a.code 0 4)]
  | .wqlen w d a => [word w 21 (r0 d.code a.code 0 5)]
  | .hops w d a b => [word w 21 (r0 d.code a.code b.code 6)]
  | .vdid w d => [word w 21 (r0 d.code 0 0 7)]
  | .widf w d x => [word w 21 (r0 d.code 0 x.val 8)]
  | .tile w d => [word w 21 (r0 d.code 0 0 9)]
  | .agbase w a g => [word w 22 (r0 0 a.code (0 * 8 + g.val) 0)]
  | .aglev w d a l g => [word w 22 (r0 d.code a.code (l.val * 8 + g.val) 1)]
  | .agpat w a l g => [word w 22 (r0 0 a.code (l.val * 8 + g.val) 2)]
  | .aggo w g => [word w 22 (r0 0 0 (0 * 8 + g.val) 3)]
  | .agstop w g => [word w 22 (r0 0 0 (0 * 8 + g.val) 4)]
  | .agwait w g => [word w 22 (r0 0 0 (0 * 8 + g.val) 5)]
  | .agstat w d g => [word w 22 (r0 d.code 0 (0 * 8 + g.val) 6)]
  | .ldq w p a m => [word w 23 ((32 + p.val) * 2 ^ 16 + a.code * 2 ^ 10 + 0 * 2 ^ 8 + m.toNat)]
  | .ldqb w p a m => [word w 23 ((32 + p.val) * 2 ^ 16 + a.code * 2 ^ 10 + 1 * 2 ^ 8 + m.toNat)]
  | .stq w p a m => [word w 23 ((36 + p.val) * 2 ^ 16 + a.code * 2 ^ 10 + 2 * 2 ^ 8 + m.toNat)]
  | .stqm w p a m => [word w 23 ((36 + p.val) * 2 ^ 16 + a.code * 2 ^ 10 + 3 * 2 ^ 8 + m.toNat)]
  | .pref w a b => [word w 24 (r0 0 a.code b.code 0)]
  | .cwb w a b => [word w 24 (r0 0 a.code b.code 1)]
  | .cinv w a b => [word w 24 (r0 0 a.code b.code 2)]
  | .cwbi w a b => [word w 24 (r0 0 a.code b.code 3)]
  | .czero w a b => [word w 24 (r0 0 a.code b.code 4)]
  | .cego w d a => [word w 25 (r0 d.code a.code 0 0)]
  | .cewait w a => [word w 25 (r0 0 a.code 0 1)]
  | .cepoll w d a => [word w 25 (r0 d.code a.code 0 2)]
  | .rcfence w => [word w 25 (r0 0 0 0 3)]
  | .tsrld w d a x => [word w 25 (r0 d.code a.code x.val 4)]
  | .mdld w d a b => [word w 25 (r0 d.code a.code b.code 5)]
  | .hist w d a => [word w 26 (r0 d.code a.code 0 0)]
  | .histrd w d n z => [word w 26 (r0 d.code 0 (z.toNat * 32 + n.val) 1)]
  | .gvget w d a => [word w 26 (r0 d.code a.code 0 2)]
  | .gvrep w d a b => [word w 26 (r0 d.code a.code b.code 3)]
  | .gvstep w d => [word w 26 (r0 d.code 0 0 4)]
  | .fence w p q v b c => [word w 27 (p.toNat * 2 ^ 16 + q.toNat * 2 ^ 10 + v.toNat * 2 ^ 8 + b.toNat * 2 ^ 7 + c.val * 2 ^ 4)]
  | .mark w q => [word w 27 (r0 0 0 q.code 1)]
  | .phjoin w d a m => [word w 28 (r0 d.code a.code m.val 0)]
  | .phdrop w a => [word w 28 (r0 0 a.code 0 1)]
  | .phsig w a => [word w 28 (r0 0 a.code 0 2)]
  | .phwait w d a => [word w 28 (r0 d.code a.code 0 3)]
  | .phsw w d a => [word w 28 (r0 d.code a.code 0 4)]
  | .phqry w d a => [word w 28 (r0 d.code a.code 0 5)]
  | .ssarr w d a => [word w 29 (r0 d.code a.code 0 0)]
  | .sswait w d a => [word w 29 (r0 d.code a.code 0 1)]
  | .ssqry w d a => [word w 29 (r0 d.code a.code 0 2)]
  | .monarm w a => [word w 29 (r0 0 a.code 0 3)]
  | .monwait w d => [word w 29 (r0 d.code 0 0 4)]
  | .monclr w => [word w 29 (r0 0 0 0 5)]
  | .accadd w a b => [word w 30 (r0 0 a.code b.code 0)]
  | .accaddf w d a b => [word w 30 (r0 d.code a.code b.code 1)]
  | .accswp w d a b => [word w 30 (r0 d.code a.code b.code 2)]
  | .accget w d a => [word w 30 (r0 d.code a.code 0 3)]
  | .accset w a b => [word w 30 (r0 0 a.code b.code 4)]
  | .bid w a b => [word w 31 (r0 0 a.code b.code 0)]
  | .bidw w d a => [word w 31 (r0 d.code a.code 0 1)]
  | .ares w d a => [word w 31 (r0 d.code a.code 0 2)]
  | .trigarm w d a b => [word w 31 (r0 d.code a.code b.code 3)]
  | .trigdis w d a => [word w 31 (r0 d.code a.code 0 4)]
  | .rcvcnt w d a b => [word w 31 (r0 d.code a.code b.code 5)]
  | .cwalk w d a => [word w 31 (r0 d.code a.code 0 6)]
  | .cwait w a => [word w 31 (r0 0 a.code 0 7)]
  | .vadd w p t r u d a b => [word w 32 (r0 d.code a.code b.code 0), word1 0 p.p.val p.pn.toNat t.code r.code u.toNat 0]
  | .vsub w p t r u d a b => [word w 32 (r0 d.code a.code b.code 1), word1 0 p.p.val p.pn.toNat t.code r.code u.toNat 0]
  | .vmul w p t r u d a b => [word w 32 (r0 d.code a.code b.code 2), word1 0 p.p.val p.pn.toNat t.code r.code u.toNat 0]
  | .vfma w p t r u d a b c => [word w 32 (r0 d.code a.code b.code 3), word1 c.code p.p.val p.pn.toNat t.code r.code u.toNat 0]
  | .vfms w p t r u d a b c => [word w 32 (r0 d.code a.code b.code 4), word1 c.code p.p.val p.pn.toNat t.code r.code u.toNat 0]
  | .vfnma w p t r u d a b c => [word w 32 (r0 d.code a.code b.code 5), word1 c.code p.p.val p.pn.toNat t.code r.code u.toNat 0]
  | .vmin w p t r u d a b => [word w 32 (r0 d.code a.code b.code 6), word1 0 p.p.val p.pn.toNat t.code r.code u.toNat 0]
  | .vmax w p t r u d a b => [word w 32 (r0 d.code a.code b.code 7), word1 0 p.p.val p.pn.toNat t.code r.code u.toNat 0]
  | .vabs w p t r u d a => [word w 32 (r0 d.code a.code 0 8), word1 0 p.p.val p.pn.toNat t.code r.code u.toNat 0]
  | .vneg w p t r u d a => [word w 32 (r0 d.code a.code 0 9), word1 0 p.p.val p.pn.toNat t.code r.code u.toNat 0]
  | .vclmp w p t r u d a b c => [word w 32 (r0 d.code a.code b.code 10), word1 c.code p.p.val p.pn.toNat t.code r.code u.toNat 0]
  | .vrnd w p t r u d a => [word w 32 (r0 d.code a.code 0 11), word1 0 p.p.val p.pn.toNat t.code r.code u.toNat 0]
  | .vrcp w p t r u d a => [word w 33 (r0 d.code a.code 0 0), word1 0 p.p.val p.pn.toNat t.code r.code u.toNat 0]
  | .vrsq w p t r u d a => [word w 33 (r0 d.code a.code 0 1), word1 0 p.p.val p.pn.toNat t.code r.code u.toNat 0]
  | .vsqrt w p t r u d a => [word w 33 (r0 d.code a.code 0 2), word1 0 p.p.val p.pn.toNat t.code r.code u.toNat 0]
  | .vexp2 w p t r u d a => [word w 33 (r0 d.code a.code 0 3), word1 0 p.p.val p.pn.toNat t.code r.code u.toNat 0]
  | .vlog2 w p t r u d a => [word w 33 (r0 d.code a.code 0 4), word1 0 p.p.val p.pn.toNat t.code r.code u.toNat 0]
  | .vtanh w p t r u d a => [word w 33 (r0 d.code a.code 0 5), word1 0 p.p.val p.pn.toNat t.code r.code u.toNat 0]
  | .vsigm w p t r u d a => [word w 33 (r0 d.code a.code 0 6), word1 0 p.p.val p.pn.toNat t.code r.code u.toNat 0]
  | .vand w p d a b => [word w 34 (r0 d.code a.code b.code 0), word1 0 p.p.val p.pn.toNat 0 0 0 0]
  | .vor w p d a b => [word w 34 (r0 d.code a.code b.code 1), word1 0 p.p.val p.pn.toNat 0 0 0 0]
  | .vxor w p d a b => [word w 34 (r0 d.code a.code b.code 2), word1 0 p.p.val p.pn.toNat 0 0 0 0]
  | .vnot w p d a => [word w 34 (r0 d.code a.code 0 3), word1 0 p.p.val p.pn.toNat 0 0 0 0]
  | .vshl w p t d a m => [word w 34 (r0 d.code a.code m.bField 4), word1 0 p.p.val p.pn.toNat t.code 0 0 m.immField]
  | .vshr w p t d a m => [word w 34 (r0 d.code a.code m.bField 5), word1 0 p.p.val p.pn.toNat t.code 0 0 m.immField]
  | .vsra w p t d a m => [word w 34 (r0 d.code a.code m.bField 6), word1 0 p.p.val p.pn.toNat t.code 0 0 m.immField]
  | .vpopc w p t d a => [word w 34 (r0 d.code a.code 0 7), word1 0 p.p.val p.pn.toNat t.code 0 0 0]
  | .vclz w p t d a => [word w 34 (r0 d.code a.code 0 8), word1 0 p.p.val p.pn.toNat t.code 0 0 0]
  | .vcmpeq w p t d a b => [word w 35 (r0 d.val a.code b.code 0), word1 0 p.p.val p.pn.toNat t.code 0 0 0]
  | .vcmpne w p t d a b => [word w 35 (r0 d.val a.code b.code 1), word1 0 p.p.val p.pn.toNat t.code 0 0 0]
  | .vcmplt w p t d a b => [word w 35 (r0 d.val a.code b.code 2), word1 0 p.p.val p.pn.toNat t.code 0 0 0]
  | .vcmple w p t d a b => [word w 35 (r0 d.val a.code b.code 3), word1 0 p.p.val p.pn.toNat t.code 0 0 0]
  | .vcmpgt w p t d a b => [word w 35 (r0 d.val a.code b.code 4), word1 0 p.p.val p.pn.toNat t.code 0 0 0]
  | .vcmpge w p t d a b => [word w 35 (r0 d.val a.code b.code 5), word1 0 p.p.val p.pn.toNat t.code 0 0 0]
  | .vclass w p d a m => [word w 35 (r0 d.val a.code 0 6), word1 0 p.p.val p.pn.toNat 0 0 0 m.toNat]
  | .vmov w p d a => [word w 36 (r0 d.code a.code 0 0), word1 0 p.p.val p.pn.toNat 0 0 0 0]
  | .vsel w p d a b => [word w 36 (r0 d.code a.code b.code 1), word1 0 p.p.val p.pn.toNat 0 0 0 0]
  | .vsplat w p d a y x => [word w 36 (r0 d.code a.code 0 2), word1 0 p.p.val p.pn.toNat 0 0 0 (y.val * 64 + x.val)]
  | .vmovi w p t d k => [word w 36 (r0 d.code 0 0 3), word1 (k.toNat / 4096) p.p.val p.pn.toNat t.code 0 0 (k.toNat % 4096)]
  | .vextr w p t d a e => [word w 36 (r0 d.code a.code 0 4), word1 0 p.p.val p.pn.toNat t.code 0 0 e.val]
  | .vrotr w p d a k => [word w 37 (r0 d.code a.code 0 0), word1 0 p.p.val p.pn.toNat 0 0 0 k.val]
  | .vbcr w p d a k => [word w 37 (r0 d.code a.code 0 1), word1 0 p.p.val p.pn.toNat 0 0 0 k.val]
  | .vsumr w p t r u d a => [word w 37 (r0 d.code a.code 0 2), word1 0 p.p.val p.pn.toNat t.code r.code u.toNat 0]
  | .vmaxr w p t d a => [word w 37 (r0 d.code a.code 0 3), word1 0 p.p.val p.pn.toNat t.code 0 0 0]
  | .vminr w p t d a => [word w 37 (r0 d.code a.code 0 4), word1 0 p.p.val p.pn.toNat t.code 0 0 0]
  | .vscnr w p t r u d a => [word w 37 (r0 d.code a.code 0 5), word1 0 p.p.val p.pn.toNat t.code r.code u.toNat 0]
  | .vxlr w p d a b => [word w 37 (r0 d.code a.code b.code 6), word1 0 p.p.val p.pn.toNat 0 0 0 0]
  | .vrotc w p d a k => [word w 38 (r0 d.code a.code 0 0), word1 0 p.p.val p.pn.toNat 0 0 0 k.val]
  | .vbcc w p d a k => [word w 38 (r0 d.code a.code 0 1), word1 0 p.p.val p.pn.toNat 0 0 0 k.val]
  | .vsumc w p t r u d a => [word w 38 (r0 d.code a.code 0 2), word1 0 p.p.val p.pn.toNat t.code r.code u.toNat 0]
  | .vmaxc w p t d a => [word w 38 (r0 d.code a.code 0 3), word1 0 p.p.val p.pn.toNat t.code 0 0 0]
  | .vminc w p t d a => [word w 38 (r0 d.code a.code 0 4), word1 0 p.p.val p.pn.toNat t.code 0 0 0]
  | .vscnc w p t r u d a => [word w 38 (r0 d.code a.code 0 5), word1 0 p.p.val p.pn.toNat t.code r.code u.toNat 0]
  | .vxlc w p d a b => [word w 38 (r0 d.code a.code b.code 6), word1 0 p.p.val p.pn.toNat 0 0 0 0]
  | .vcvt w p t r u d a b f => [word w 39 (r0 d.code a.code (cvtB b) 0), word1 0 p.p.val p.pn.toNat t.code r.code u.toNat f.code]
  | .vqnt w p t r u d a c k => [word w 39 (r0 d.code a.code 0 1), word1 c.val p.p.val p.pn.toNat t.code r.code u.toNat k.code]
  | .vdqn w p t r u d a b => [word w 39 (r0 d.code a.code b.code 2), word1 0 p.p.val p.pn.toNat t.code r.code u.toNat 0]
  | .vpack w p t d a e => [word w 39 (r0 d.code a.code 0 3), word1 0 p.p.val p.pn.toNat t.code 0 0 e.val]
  | .vunpk w p t d a e => [word w 39 (r0 d.code a.code 0 4), word1 0 p.p.val p.pn.toNat t.code 0 0 e.val]
  | .vscale w p t r u d a b => [word w 39 (r0 d.code a.code b.code 5), word1 0 p.p.val p.pn.toNat t.code r.code u.toNat 0]
  | .vadam w p => [word w 40 (r0 0 0 0 0), word1 0 p.p.val p.pn.toNat 0 0 0 0]
  | .vsgdm w p => [word w 40 (r0 0 0 0 1), word1 0 p.p.val p.pn.toNat 0 0 0 0]
  | .vnormsq w p d a => [word w 40 (r0 d.code a.code 0 2), word1 0 p.p.val p.pn.toNat 0 0 0 0]
  | .pand w p d a b => [word w 41 (r0 d.val a.val b.val 0), word1 0 p.p.val p.pn.toNat 0 0 0 0]
  | .por w p d a b => [word w 41 (r0 d.val a.val b.val 1), word1 0 p.p.val p.pn.toNat 0 0 0 0]
  | .pxor w p d a b => [word w 41 (r0 d.val a.val b.val 2), word1 0 p.p.val p.pn.toNat 0 0 0 0]
  | .pnot w p d a => [word w 41 (r0 d.val a.val 0 3), word1 0 p.p.val p.pn.toNat 0 0 0 0]
  | .pset w p d y x => [word w 41 (r0 d.val 0 0 4), word1 0 p.p.val p.pn.toNat 0 0 0 (y.toNat * 128 + x.toNat)]
  | .pcnt w p d a => [word w 41 (r0 d.code a.val 0 5), word1 0 p.p.val p.pn.toNat 0 0 0 0]
  | .cloop w d o => [word w 42 (r0 (48 + d.val) 0 0 0), word1 0 0 0 0 0 0 o.toNat]
  | .cbrany w a o => [word w 42 (r0 0 a.val 0 1), word1 0 0 0 0 0 0 o.toNat]
  | .cbrall w a o => [word w 42 (r0 0 a.val 0 2), word1 0 0 0 0 0 0 o.toNat]
  | .cj w o => [word w 42 (r0 0 0 0 3), word1 (o.toNat / 4096) 0 0 0 0 0 (o.toNat % 4096)]
  | .clcset w d m => [word w 42 (r0 (48 + d.val) 0 0 4), word1 (m.toNat / 4096) 0 0 0 0 0 (m.toNat % 4096)]
  | .cstage w n => [word w 42 (r0 0 0 0 5), word1 0 0 0 0 0 0 n.val]
  | .mshape w d m n => [word w 43 (r0 (48 + d.val) 0 0 0), word1 0 0 0 0 0 0 (m.val * 64 + n.val)]
  | .mtile w d o => [word w 43 (r0 d.val 0 0 1), word1 0 0 0 0 0 0 o.toNat]
  | .asetx w d e x => [word w 43 (r0 d.val 0 e.toNat 2), word1 0 0 0 0 0 0 x.toNat]
  | .azero w d n => [word w 43 (r0 d.val 0 0 3), word1 0 0 0 0 0 0 n.toNat]
  | .lotreq w n => [word w 43 (r0 0 0 0 4), word1 0 0 0 0 0 0 n.val]
  | .lotrel w n => [word w 43 (r0 0 0 0 5), word1 0 0 0 0 0 0 n.val]
  | .mma w d a b n => [word w 44 (r0 d.val a.val b.val 0), word1 0 0 0 0 0 0 n.toNat]
  | .mmaa w d a b n => [word w 44 (r0 d.val a.val b.val 1), word1 0 0 0 0 0 0 n.toNat]
  | .mmas w d a b n => [word w 44 (r0 d.val a.val b.val 2), word1 0 0 0 0 0 0 n.toNat]
  | .mcommit w d => [word w 44 (r0 (48 + d.val) 0 0 3), word1 0 0 0 0 0 0 0]
  | .mwait w a => [word w 44 (r0 0 (48 + a.val) 0 4), word1 0 0 0 0 0 0 0]
  | .mpoll w d a => [word w 44 (r0 d.val (48 + a.val) 0 5), word1 0 0 0 0 0 0 0]
  | .anorm w d n => [word w 45 (r0 d.val 0 0 0), word1 0 0 0 0 0 0 n.val]
  | .acvt w p t r u d a => [word w 45 (r0 d.code a.val 0 1), word1 0 p.p.val p.pn.toNat t.code r.code u.toNat 0]
  | .aadd w d a => [word w 45 (r0 d.val a.val 0 2), word1 0 0 0 0 0 0 0]
  | .ald w d a b => [word w 45 (r0 d.val a.code b.code 3), word1 0 0 0 0 0 0 0]
  | .ast w p d a h => [word w 45 (r0 d.code a.val 0 4), word1 0 p.p.val p.pn.toNat 0 0 0 h.toNat]
  | .ahdr w d a => [word w 45 (r0 d.code a.val 0 5), word1 0 0 0 0 0 0 0]
  | .amov w d a => [word w 45 (r0 d.val a.val 0 6), word1 0 0 0 0 0 0 0]
  | .gemvgo w d o => [word w 46 (r0 (48 + d.val) 0 0 0), word1 0 0 0 0 0 0 o.toNat]
  | .gemvwait w a => [word w 46 (r0 0 (48 + a.val) 0 1), word1 0 0 0 0 0 0 0]
  | .pnop => [pword 0x00 0 0 0 0 0]
  | .pldp d k o => [pword 0x01 d.val 0 0 k.val o.toNat]
  | .pstp d k o => [pword 0x02 d.val 0 0 k.val o.toNat]
  | .phdr d k c => [pword 0x03 d.val 0 0 k.val c.val]
  | .pldf d k h => [pword 0x04 d.val 0 0 k.val h.toNat]
  | .pstf d k h => [pword 0x05 d.val 0 0 k.val h.toNat]
  | .pldfx d a k h => [pword 0x06 d.val a.val 0 k.val h.toNat]
  | .pstfx d a k h => [pword 0x07 d.val a.val 0 k.val h.toNat]
  | .padd d a b k => [pword 0x10 d.val a.val b.val k.val 0]
  | .psub d a b k => [pword 0x11 d.val a.val b.val k.val 0]
  | .pmul d a b k => [pword 0x12 d.val a.val b.val k.val 0]
  | .pvand d a b k => [pword 0x13 d.val a.val b.val k.val 0]
  | .pvor d a b k => [pword 0x14 d.val a.val b.val k.val 0]
  | .pvxor d a b k => [pword 0x15 d.val a.val b.val k.val 0]
  | .pshl d a b k => [pword 0x16 d.val a.val b.val k.val 0]
  | .pshr d a b k => [pword 0x17 d.val a.val b.val k.val 0]
  | .psra d a b k => [pword 0x18 d.val a.val b.val k.val 0]
  | .pmin d a b k => [pword 0x19 d.val a.val b.val k.val 0]
  | .pmax d a b k => [pword 0x1A d.val a.val b.val k.val 0]
  | .pmaxn d a b k => [pword 0x1B d.val a.val b.val k.val 0]
  | .pfxa d a b k => [pword 0x1D d.val a.val b.val k.val 0]
  | .paddi d a k m => [pword 0x1E d.val a.val 0 k.val m.toNat]
  | .pmovi d k m => [pword 0x1F d.val (m.toNat / 65536) (m.toNat / 4096 % 16) k.val (m.toNat % 4096)]
  | .pceq d a b k => [pword 0x20 d.val a.val b.val k.val 0]
  | .pclt d a b k => [pword 0x21 d.val a.val b.val k.val 0]
  | .pcltn d a b k => [pword 0x22 d.val a.val b.val k.val 0]
  | .pmask d k m => [pword 0x23 d.val 0 (m.toNat / 4096) k.val (m.toNat % 4096)]
  | .psel d a b k => [pword 0x24 d.val a.val b.val k.val 0]
  | .pbcl d a k n => [pword 0x25 d.val a.val 0 k.val n.val]
  | .pbany a o => [pword 0x28 0 a.val 0 0 o.toNat]
  | .pj o => [pword 0x29 0 0 0 0 o.toNat]
  | .prepn n l => [pword 0x2A 0 0 0 0 (n.val * 64 + l.val)]
  | .pfwd => [pword 0x30 0 0 0 0 0]
  | .pdrop => [pword 0x31 0 0 0 0 0]
  | .penq a q => [pword 0x32 0 a.val 0 0 q.val]
  | .pemit n => [pword 0x33 0 0 0 0 n.val]
  | .recBind tag first count ctx => descriptor 0x0001 tag [first, count, ctx]
  | .recFree tag first count => descriptor 0x0002 tag [first, count]
  | .recWrite tag idx word count addr => descriptor 0x0003 tag [idx, word, count, addr]
  | .recArm tag idx => descriptor 0x0004 tag [idx]
  | .graphArm tag count addr => descriptor 0x0005 tag [count, addr]
  | .recCancel tag idx => descriptor 0x0006 tag [idx]
  | .wqConfig tag queue ctx k fixed => descriptor 0x0010 tag [queue, ctx, k, fixed]
  | .wqPush tag queue v => descriptor 0x0011 tag [queue, v]
  | .ctxCreate tag ctx asid root job => descriptor 0x0020 tag [ctx, asid, root, job]
  | .ctxDestroy tag ctx => descriptor 0x0021 tag [ctx]
  | .allow tag ctx mask => descriptor 0x0022 tag [ctx, mask]
  | .stripe tag ctx d => descriptor 0x0023 tag [ctx, d]
  | .image tag ctx addr size haddr hsize interval => descriptor 0x0024 tag [ctx, addr, size, haddr, hsize, interval]
  | .bind tag kind idx ctx => descriptor 0x0025 tag [kind, idx, ctx]
  | .tlbInval tag addr len => descriptor 0x0026 tag [addr, len]
  | .pageMove tag addr stack => descriptor 0x0027 tag [addr, stack]
  | .evq tag ctx addr k => descriptor 0x0028 tag [ctx, addr, k]
  | .memWrite tag va len haddr => descriptor 0x0029 tag [va, len, haddr]
  | .memRead tag va len haddr => descriptor 0x002A tag [va, len, haddr]
  | .physWrite tag pa len haddr => descriptor 0x002B tag [pa, len, haddr]
  | .physRead tag pa len haddr => descriptor 0x002C tag [pa, len, haddr]
  | .psrWrite tag layer role lo hi => descriptor 0x0030 tag [layer, role, lo, hi]
  | .classTarget tag cls target => descriptor 0x0031 tag [cls, target]
  | .opPoint tag mask point => descriptor 0x0032 tag [mask, point]
  | .flowWrite tag port flow lo hi addr => descriptor 0x0040 tag [port, flow, lo, hi, addr]
  | .classify tag port entry job src flow => descriptor 0x0041 tag [port, entry, job, src, flow]
  | .kernelLoad tag port pp off addr len => descriptor 0x0042 tag [port, pp, off, addr, len]
  | .taskResume tag lr wid => descriptor 0x0050 tag [lr, wid]
  | .launchStats tag lr addr => descriptor 0x0051 tag [lr, addr]
  | .configRead tag addr => descriptor 0x0060 tag [addr]
  | .errRead tag addr clear => descriptor 0x0061 tag [addr, clear]
  | .attest tag nonce addr => descriptor 0x0070 tag [nonce, addr]
  | .unsupportedCommand tag op => descriptor op.toNat tag []
  | .doorbell _ _ => []
  | .ringEnable _ _ => []
  | .ringDisable _ _ => []
  | .registerWrite _ _ => []
  | .pldmSensorRead _ => []
  | .stallCountExpiry _ _ => []
  | .resultLand _ _ => []
  | .interlockedResult _ _ => []
  | .tokenWaitComplete _ _ => []
  | .portWaitComplete _ _ => []
  | .agOperandAccept _ _ => []
  | .agOperandComplete _ _ => []
  | .engineStart _ _ => []
  | .copyChunk _ => []
  | .histRetire _ => []
  | .gemvRetire _ => []
  | .matrixChunk _ => []
  | .lotGrant _ _ => []
  | .wqpopServed _ => []
  | .monitorWake _ _ => []
  | .spuriousMonitorWake _ => []
  | .fenceComplete _ _ => []
  | .markPairComplete _ _ _ => []
  | .stallTimeout _ _ => []
  | .walkTransferSend _ => []
  | .transferLand _ => []
  | .pageWalkComplete _ _ _ => []
  | .pageMigrationComplete _ _ => []
  | .taskRetire _ => []
  | .retirement => []
  | .completionPushLand _ => []
  | .taskPlacement _ => []
  | .cutComplete _ => []
  | .resume _ => []
  | .imageIntervalExpiry _ => []
  | .boundaryEvaluation _ => []
  | .auctionCall _ => []
  | .auctionRoundEnd _ _ _ => []
  | .wireTestComplete _ _ => []
  | .heartbeatTick => []
  | .linkWakeDone _ => []
  | .linkWakeTimeout _ => []
  | .flitCrcError _ _ => []
  | .correctableError _ => []
  | .uncorrectableError _ _ => []
  | .machineCheck _ => []
  | .parityError _ _ => []
  | .scrub _ => []
  | .channelFailure _ => []
  | .evqSlotFreed _ _ => []
  | .packetArrival _ _ => []
  | .boot _ _ _ => []
  | .linkTrainTimeout _ => []
  | .powerCapExceeded => []
  | .junctionOver95 _ _ => []
  | .junctionCritical _ => []
  | .coolantFlowLost => []
  | .thermalCleared _ => []
  | .shutdownTimer => []
  | .operatingPointHaltEnd _ => []
  | .vectorUnitOccupancyEnd _ _ _ => []
  | .laneRepairComplete _ => []
  | .linkSleep _ => []

/-- A pitch instruction by itself: the kernel of R355 holds these. (Compiled Lean cannot build a constructor of `Instr`
numbered above 244, so what a pitch and a ring read has a type of its own, and `toInstr` names its row.) -/
inductive PitchInstr where
  | pnop
  | pldp (d : Fin 16) (k : Fin 4) (o : BitVec 12)
  | pstp (d : Fin 16) (k : Fin 4) (o : BitVec 12)
  | phdr (d : Fin 16) (k c : Fin 4)
  | pldf (d : Fin 16) (k : Fin 4) (h : Bool)
  | pstf (d : Fin 16) (k : Fin 4) (h : Bool)
  | pldfx (d a : Fin 16) (k : Fin 4) (h : Bool)
  | pstfx (d a : Fin 16) (k : Fin 4) (h : Bool)
  | padd (d a b : Fin 16) (k : Fin 4)
  | psub (d a b : Fin 16) (k : Fin 4)
  | pmul (d a b : Fin 16) (k : Fin 4)
  | pvand (d a b : Fin 16) (k : Fin 4)
  | pvor (d a b : Fin 16) (k : Fin 4)
  | pvxor (d a b : Fin 16) (k : Fin 4)
  | pshl (d a b : Fin 16) (k : Fin 4)
  | pshr (d a b : Fin 16) (k : Fin 4)
  | psra (d a b : Fin 16) (k : Fin 4)
  | pmin (d a b : Fin 16) (k : Fin 4)
  | pmax (d a b : Fin 16) (k : Fin 4)
  | pmaxn (d a b : Fin 16) (k : Fin 4)
  | pfxa (d a b : Fin 16) (k : Fin 4)
  | paddi (d a : Fin 16) (k : Fin 4) (m : BitVec 12)
  | pmovi (d : Fin 16) (k : Fin 4) (m : BitVec 20)
  | pceq (d : Fin 4) (a b : Fin 16) (k : Fin 4)
  | pclt (d : Fin 4) (a b : Fin 16) (k : Fin 4)
  | pcltn (d : Fin 4) (a b : Fin 16) (k : Fin 4)
  | pmask (d k : Fin 4) (m : BitVec 16)
  | psel (d a b : Fin 16) (k : Fin 4)
  | pbcl (d a : Fin 16) (k : Fin 4) (n : Fin 16)
  | pbany (a : Fin 4) (o : BitVec 12)
  | pj (o : BitVec 12)
  | prepn (n l : Fin 64)
  | pfwd
  | pdrop
  | penq (a : Fin 16) (q : Fin 256)
  | pemit (n : Fin 64)
  deriving DecidableEq, Repr

/-- The row of the opcode table a pitch instruction is. -/
noncomputable def PitchInstr.toInstr : PitchInstr → Instr
  | .pnop => .pnop
  | .pldp d k o => .pldp d k o
  | .pstp d k o => .pstp d k o
  | .phdr d k c => .phdr d k c
  | .pldf d k h => .pldf d k h
  | .pstf d k h => .pstf d k h
  | .pldfx d a k h => .pldfx d a k h
  | .pstfx d a k h => .pstfx d a k h
  | .padd d a b k => .padd d a b k
  | .psub d a b k => .psub d a b k
  | .pmul d a b k => .pmul d a b k
  | .pvand d a b k => .pvand d a b k
  | .pvor d a b k => .pvor d a b k
  | .pvxor d a b k => .pvxor d a b k
  | .pshl d a b k => .pshl d a b k
  | .pshr d a b k => .pshr d a b k
  | .psra d a b k => .psra d a b k
  | .pmin d a b k => .pmin d a b k
  | .pmax d a b k => .pmax d a b k
  | .pmaxn d a b k => .pmaxn d a b k
  | .pfxa d a b k => .pfxa d a b k
  | .paddi d a k m => .paddi d a k m
  | .pmovi d k m => .pmovi d k m
  | .pceq d a b k => .pceq d a b k
  | .pclt d a b k => .pclt d a b k
  | .pcltn d a b k => .pcltn d a b k
  | .pmask d k m => .pmask d k m
  | .psel d a b k => .psel d a b k
  | .pbcl d a k n => .pbcl d a k n
  | .pbany a o => .pbany a o
  | .pj o => .pj o
  | .prepn n l => .prepn n l
  | .pfwd => .pfwd
  | .pdrop => .pdrop
  | .penq a q => .penq a q
  | .pemit n => .pemit n

/-- A command of the Herilo Command Set by itself: what a ring slot holds (R90, R404). -/
inductive Command where
  | recBind (tag : BitVec 16) (first count ctx : Word)
  | recFree (tag : BitVec 16) (first count : Word)
  | recWrite (tag : BitVec 16) (idx word count addr : Word)
  | recArm (tag : BitVec 16) (idx : Word)
  | graphArm (tag : BitVec 16) (count addr : Word)
  | recCancel (tag : BitVec 16) (idx : Word)
  | wqConfig (tag : BitVec 16) (queue ctx k fixed : Word)
  | wqPush (tag : BitVec 16) (queue v : Word)
  | ctxCreate (tag : BitVec 16) (ctx asid root job : Word)
  | ctxDestroy (tag : BitVec 16) (ctx : Word)
  | allow (tag : BitVec 16) (ctx mask : Word)
  | stripe (tag : BitVec 16) (ctx d : Word)
  | image (tag : BitVec 16) (ctx addr size haddr hsize interval : Word)
  | bind (tag : BitVec 16) (kind idx ctx : Word)
  | tlbInval (tag : BitVec 16) (addr len : Word)
  | pageMove (tag : BitVec 16) (addr stack : Word)
  | evq (tag : BitVec 16) (ctx addr k : Word)
  | memWrite (tag : BitVec 16) (va len haddr : Word)
  | memRead (tag : BitVec 16) (va len haddr : Word)
  | physWrite (tag : BitVec 16) (pa len haddr : Word)
  | physRead (tag : BitVec 16) (pa len haddr : Word)
  | psrWrite (tag : BitVec 16) (layer role lo hi : Word)
  | classTarget (tag : BitVec 16) (cls target : Word)
  | opPoint (tag : BitVec 16) (mask point : Word)
  | flowWrite (tag : BitVec 16) (port flow lo hi addr : Word)
  | classify (tag : BitVec 16) (port entry job src flow : Word)
  | kernelLoad (tag : BitVec 16) (port pp off addr len : Word)
  | taskResume (tag : BitVec 16) (lr wid : Word)
  | launchStats (tag : BitVec 16) (lr addr : Word)
  | configRead (tag : BitVec 16) (addr : Word)
  | errRead (tag : BitVec 16) (addr clear : Word)
  | attest (tag : BitVec 16) (nonce addr : Word)
  | unsupportedCommand (tag op : BitVec 16)
  deriving DecidableEq, Repr

/-- The row of the opcode table a command is. -/
noncomputable def Command.toInstr : Command → Instr
  | .recBind tag first count ctx => .recBind tag first count ctx
  | .recFree tag first count => .recFree tag first count
  | .recWrite tag idx word count addr => .recWrite tag idx word count addr
  | .recArm tag idx => .recArm tag idx
  | .graphArm tag count addr => .graphArm tag count addr
  | .recCancel tag idx => .recCancel tag idx
  | .wqConfig tag queue ctx k fixed => .wqConfig tag queue ctx k fixed
  | .wqPush tag queue v => .wqPush tag queue v
  | .ctxCreate tag ctx asid root job => .ctxCreate tag ctx asid root job
  | .ctxDestroy tag ctx => .ctxDestroy tag ctx
  | .allow tag ctx mask => .allow tag ctx mask
  | .stripe tag ctx d => .stripe tag ctx d
  | .image tag ctx addr size haddr hsize interval => .image tag ctx addr size haddr hsize interval
  | .bind tag kind idx ctx => .bind tag kind idx ctx
  | .tlbInval tag addr len => .tlbInval tag addr len
  | .pageMove tag addr stack => .pageMove tag addr stack
  | .evq tag ctx addr k => .evq tag ctx addr k
  | .memWrite tag va len haddr => .memWrite tag va len haddr
  | .memRead tag va len haddr => .memRead tag va len haddr
  | .physWrite tag pa len haddr => .physWrite tag pa len haddr
  | .physRead tag pa len haddr => .physRead tag pa len haddr
  | .psrWrite tag layer role lo hi => .psrWrite tag layer role lo hi
  | .classTarget tag cls target => .classTarget tag cls target
  | .opPoint tag mask point => .opPoint tag mask point
  | .flowWrite tag port flow lo hi addr => .flowWrite tag port flow lo hi addr
  | .classify tag port entry job src flow => .classify tag port entry job src flow
  | .kernelLoad tag port pp off addr len => .kernelLoad tag port pp off addr len
  | .taskResume tag lr wid => .taskResume tag lr wid
  | .launchStats tag lr addr => .launchStats tag lr addr
  | .configRead tag addr => .configRead tag addr
  | .errRead tag addr clear => .errRead tag addr clear
  | .attest tag nonce addr => .attest tag nonce addr
  | .unsupportedCommand tag op => .unsupportedCommand tag op

/-- The D field of a pitch word (R355). -/
def pD (w : Nat) : Nat := bits w 25 22
/-- The A field of a pitch word (R355). -/
def pA (w : Nat) : Nat := bits w 21 18
/-- The B field of a pitch word (R355). -/
def pB (w : Nat) : Nat := bits w 17 14
/-- The K field of a pitch word (R355). -/
def pK (w : Nat) : Nat := bits w 13 12
/-- The IMM12 field of a pitch word (R355). -/
def pI (w : Nat) : Nat := bits w 11 0

/-- The pitch decoder: R355 and R356. Reserved codes and nonzero unused fields are refused. -/
def readPitch (w : Nat) : Option PitchInstr :=
  match bits w 31 26 with
  | 0x00 => if pD w = 0 ∧ pA w = 0 ∧ pB w = 0 ∧ pK w = 0 ∧ pI w = 0 then some (.pnop) else none
  | 0x01 => if pA w = 0 ∧ pB w = 0 then some (.pldp (Fin.ofNat 16 (pD w)) (Fin.ofNat 4 (pK w)) (BitVec.ofNat 12 (pI w))) else none
  | 0x02 => if pA w = 0 ∧ pB w = 0 then some (.pstp (Fin.ofNat 16 (pD w)) (Fin.ofNat 4 (pK w)) (BitVec.ofNat 12 (pI w))) else none
  | 0x03 => if pI w < 4 ∧ pA w = 0 ∧ pB w = 0 then some (.phdr (Fin.ofNat 16 (pD w)) (Fin.ofNat 4 (pK w)) (Fin.ofNat 4 (pI w))) else none
  | 0x04 => if pI w < 2 ∧ pA w = 0 ∧ pB w = 0 then some (.pldf (Fin.ofNat 16 (pD w)) (Fin.ofNat 4 (pK w)) (pI w == 1)) else none
  | 0x05 => if pI w < 2 ∧ pA w = 0 ∧ pB w = 0 then some (.pstf (Fin.ofNat 16 (pD w)) (Fin.ofNat 4 (pK w)) (pI w == 1)) else none
  | 0x06 => if pI w < 2 ∧ pB w = 0 then some (.pldfx (Fin.ofNat 16 (pD w)) (Fin.ofNat 16 (pA w)) (Fin.ofNat 4 (pK w)) (pI w == 1)) else none
  | 0x07 => if pI w < 2 ∧ pB w = 0 then some (.pstfx (Fin.ofNat 16 (pD w)) (Fin.ofNat 16 (pA w)) (Fin.ofNat 4 (pK w)) (pI w == 1)) else none
  | 0x10 => if pI w = 0 then some (.padd (Fin.ofNat 16 (pD w)) (Fin.ofNat 16 (pA w)) (Fin.ofNat 16 (pB w)) (Fin.ofNat 4 (pK w))) else none
  | 0x11 => if pI w = 0 then some (.psub (Fin.ofNat 16 (pD w)) (Fin.ofNat 16 (pA w)) (Fin.ofNat 16 (pB w)) (Fin.ofNat 4 (pK w))) else none
  | 0x12 => if pI w = 0 then some (.pmul (Fin.ofNat 16 (pD w)) (Fin.ofNat 16 (pA w)) (Fin.ofNat 16 (pB w)) (Fin.ofNat 4 (pK w))) else none
  | 0x13 => if pI w = 0 then some (.pvand (Fin.ofNat 16 (pD w)) (Fin.ofNat 16 (pA w)) (Fin.ofNat 16 (pB w)) (Fin.ofNat 4 (pK w))) else none
  | 0x14 => if pI w = 0 then some (.pvor (Fin.ofNat 16 (pD w)) (Fin.ofNat 16 (pA w)) (Fin.ofNat 16 (pB w)) (Fin.ofNat 4 (pK w))) else none
  | 0x15 => if pI w = 0 then some (.pvxor (Fin.ofNat 16 (pD w)) (Fin.ofNat 16 (pA w)) (Fin.ofNat 16 (pB w)) (Fin.ofNat 4 (pK w))) else none
  | 0x16 => if pI w = 0 then some (.pshl (Fin.ofNat 16 (pD w)) (Fin.ofNat 16 (pA w)) (Fin.ofNat 16 (pB w)) (Fin.ofNat 4 (pK w))) else none
  | 0x17 => if pI w = 0 then some (.pshr (Fin.ofNat 16 (pD w)) (Fin.ofNat 16 (pA w)) (Fin.ofNat 16 (pB w)) (Fin.ofNat 4 (pK w))) else none
  | 0x18 => if pI w = 0 then some (.psra (Fin.ofNat 16 (pD w)) (Fin.ofNat 16 (pA w)) (Fin.ofNat 16 (pB w)) (Fin.ofNat 4 (pK w))) else none
  | 0x19 => if pI w = 0 then some (.pmin (Fin.ofNat 16 (pD w)) (Fin.ofNat 16 (pA w)) (Fin.ofNat 16 (pB w)) (Fin.ofNat 4 (pK w))) else none
  | 0x1A => if pI w = 0 then some (.pmax (Fin.ofNat 16 (pD w)) (Fin.ofNat 16 (pA w)) (Fin.ofNat 16 (pB w)) (Fin.ofNat 4 (pK w))) else none
  | 0x1B => if pI w = 0 then some (.pmaxn (Fin.ofNat 16 (pD w)) (Fin.ofNat 16 (pA w)) (Fin.ofNat 16 (pB w)) (Fin.ofNat 4 (pK w))) else none
  | 0x1D => if pI w = 0 then some (.pfxa (Fin.ofNat 16 (pD w)) (Fin.ofNat 16 (pA w)) (Fin.ofNat 16 (pB w)) (Fin.ofNat 4 (pK w))) else none
  | 0x1E => if pB w = 0 then some (.paddi (Fin.ofNat 16 (pD w)) (Fin.ofNat 16 (pA w)) (Fin.ofNat 4 (pK w)) (BitVec.ofNat 12 (pI w))) else none
  | 0x1F => some (.pmovi (Fin.ofNat 16 (pD w)) (Fin.ofNat 4 (pK w)) (BitVec.ofNat 20 (pA w * 65536 + pB w * 4096 + pI w)))
  | 0x20 => if pD w < 4 ∧ pI w = 0 then some (.pceq (Fin.ofNat 4 (pD w)) (Fin.ofNat 16 (pA w)) (Fin.ofNat 16 (pB w)) (Fin.ofNat 4 (pK w))) else none
  | 0x21 => if pD w < 4 ∧ pI w = 0 then some (.pclt (Fin.ofNat 4 (pD w)) (Fin.ofNat 16 (pA w)) (Fin.ofNat 16 (pB w)) (Fin.ofNat 4 (pK w))) else none
  | 0x22 => if pD w < 4 ∧ pI w = 0 then some (.pcltn (Fin.ofNat 4 (pD w)) (Fin.ofNat 16 (pA w)) (Fin.ofNat 16 (pB w)) (Fin.ofNat 4 (pK w))) else none
  | 0x23 => if pD w < 4 ∧ pA w = 0 then some (.pmask (Fin.ofNat 4 (pD w)) (Fin.ofNat 4 (pK w)) (BitVec.ofNat 16 (pB w * 4096 + pI w))) else none
  | 0x24 => if pI w = 0 then some (.psel (Fin.ofNat 16 (pD w)) (Fin.ofNat 16 (pA w)) (Fin.ofNat 16 (pB w)) (Fin.ofNat 4 (pK w))) else none
  | 0x25 => if pI w < 16 ∧ pB w = 0 then some (.pbcl (Fin.ofNat 16 (pD w)) (Fin.ofNat 16 (pA w)) (Fin.ofNat 4 (pK w)) (Fin.ofNat 16 (pI w))) else none
  | 0x28 => if pA w < 4 ∧ pD w = 0 ∧ pB w = 0 ∧ pK w = 0 ∧ pI w ≠ 0 then some (.pbany (Fin.ofNat 4 (pA w)) (BitVec.ofNat 12 (pI w))) else none
  | 0x29 => if pD w = 0 ∧ pA w = 0 ∧ pB w = 0 ∧ pK w = 0 ∧ pI w ≠ 0 then some (.pj (BitVec.ofNat 12 (pI w))) else none
  | 0x2A => if bits w 5 0 ≠ 0 ∧ pD w = 0 ∧ pA w = 0 ∧ pB w = 0 ∧ pK w = 0 then some (.prepn (Fin.ofNat 64 (bits w 11 6)) (Fin.ofNat 64 (bits w 5 0))) else none
  | 0x30 => if pD w = 0 ∧ pA w = 0 ∧ pB w = 0 ∧ pK w = 0 ∧ pI w = 0 then some (.pfwd) else none
  | 0x31 => if pD w = 0 ∧ pA w = 0 ∧ pB w = 0 ∧ pK w = 0 ∧ pI w = 0 then some (.pdrop) else none
  | 0x32 => if pI w < 256 ∧ pD w = 0 ∧ pB w = 0 ∧ pK w = 0 then some (.penq (Fin.ofNat 16 (pA w)) (Fin.ofNat 256 (pI w))) else none
  | 0x33 => if pI w < 64 ∧ pD w = 0 ∧ pA w = 0 ∧ pB w = 0 ∧ pK w = 0 then some (.pemit (Fin.ofNat 64 (pI w))) else none
  | _ => none

/-- A command descriptor of eight 64-bit words (R90, R404). An OP that no table defines is the command that completes
with status Unsupported (R403). Bits 63 to 32 of the first word, and the operand words a command does not use, are ignored:
the spec gives them no effect (DESIGN CHOICE, assumption 69). -/
def readDescriptor (d : List Nat) : Command :=
  let tag := BitVec.ofNat 16 (bits (d.getD 0 0) 31 16)
  let o (n : Nat) : Word := BitVec.ofNat 64 (d.getD n 0)
  match bits (d.getD 0 0) 15 0 with
  | 0x0001 => .recBind tag (o 1) (o 2) (o 3)
  | 0x0002 => .recFree tag (o 1) (o 2)
  | 0x0003 => .recWrite tag (o 1) (o 2) (o 3) (o 4)
  | 0x0004 => .recArm tag (o 1)
  | 0x0005 => .graphArm tag (o 1) (o 2)
  | 0x0006 => .recCancel tag (o 1)
  | 0x0010 => .wqConfig tag (o 1) (o 2) (o 3) (o 4)
  | 0x0011 => .wqPush tag (o 1) (o 2)
  | 0x0020 => .ctxCreate tag (o 1) (o 2) (o 3) (o 4)
  | 0x0021 => .ctxDestroy tag (o 1)
  | 0x0022 => .allow tag (o 1) (o 2)
  | 0x0023 => .stripe tag (o 1) (o 2)
  | 0x0024 => .image tag (o 1) (o 2) (o 3) (o 4) (o 5) (o 6)
  | 0x0025 => .bind tag (o 1) (o 2) (o 3)
  | 0x0026 => .tlbInval tag (o 1) (o 2)
  | 0x0027 => .pageMove tag (o 1) (o 2)
  | 0x0028 => .evq tag (o 1) (o 2) (o 3)
  | 0x0029 => .memWrite tag (o 1) (o 2) (o 3)
  | 0x002A => .memRead tag (o 1) (o 2) (o 3)
  | 0x002B => .physWrite tag (o 1) (o 2) (o 3)
  | 0x002C => .physRead tag (o 1) (o 2) (o 3)
  | 0x0030 => .psrWrite tag (o 1) (o 2) (o 3) (o 4)
  | 0x0031 => .classTarget tag (o 1) (o 2)
  | 0x0032 => .opPoint tag (o 1) (o 2)
  | 0x0040 => .flowWrite tag (o 1) (o 2) (o 3) (o 4) (o 5)
  | 0x0041 => .classify tag (o 1) (o 2) (o 3) (o 4) (o 5)
  | 0x0042 => .kernelLoad tag (o 1) (o 2) (o 3) (o 4) (o 5)
  | 0x0050 => .taskResume tag (o 1) (o 2)
  | 0x0051 => .launchStats tag (o 1) (o 2)
  | 0x0060 => .configRead tag (o 1)
  | 0x0061 => .errRead tag (o 1) (o 2)
  | 0x0070 => .attest tag (o 1) (o 2)
  | op => .unsupportedCommand tag (BitVec.ofNat 16 op)

/-- The pitch decoder, as a row of the opcode table. -/
noncomputable def decodePitch (w : Nat) : Option Instr := (readPitch w).map PitchInstr.toInstr

/-- The descriptor decoder, as a row of the opcode table. -/
noncomputable def decodeDescriptor (d : List Nat) : Instr := (readDescriptor d).toInstr

/-- The first sequencer, in the order K, L, W, on which a word is a legal instruction. -/
def legalSeq (w : Nat) : Option (Seq × Instr) :=
  match decode .k w 0 with
  | .ok x => some (.k, x)
  | .error _ =>
    match decode .l w 0 with
    | .ok x => some (.l, x)
    | .error _ =>
      match decode .w w 0 with
      | .ok x => some (.w, x)
      | .error _ => none

/-- Whether a word that both decoders may know is taken as a pitch word (assumption 2): its bits 31 to 28, where the table's
Turkar rows have a stall count of 0, are not 0. -/
def pitchFirst (w : Nat) : Bool := bits w 31 28 != 0 && (readPitch w).isSome

/-- The instruction read from a word of the opcode table (assumption 2). A 32-bit word that `pitchFirst` takes is a pitch word;
another is tried on the sequencers K, L and W, then as a pitch word, then as a C-seq pair whose second word is 0; a 64-bit one is a
C-seq pair. -/
noncomputable def decodeTableWord (nbits w : Nat) : Option Instr :=
  if nbits = 32 then
    match if pitchFirst (w % 2 ^ 32) then none else legalSeq (w % 2 ^ 32) with
    | some (_, x) => some x
    | none =>
      match readPitch (w % 2 ^ 32) with
      | some i => some i.toInstr
      | none => (decode .c (w % 2 ^ 32) 0).toOption
  else if nbits = 64 then (decode .c (w % 2 ^ 32) (w / 2 ^ 32 % 2 ^ 32)).toOption
  else none

end Sys2Proof
end

