-- ==== Sys2Proof/Config.lean ====
section
/-! DEFINITION. What an implementation fixes and the spec leaves open: free values, as constants with no body, and the
turns by which one deterministic machine shows agents that run beside one another. -/

namespace Sys2Proof

/-- One turn of the machine: which agent moves next. A list of turns is the model's form of everything from outside and
of every interleaving. -/
inductive Turn where
  /-- One issue-clock cycle of a sequencer of a task (R147). -/
  | issue (t : Nat) (q : Seq)
  /-- One instruction of a pitch processor, 2 × port + processor (R354). -/
  | pitch (p : Nat)
  /-- One descriptor of a command ring (R90, R402). -/
  | ring (n : Nat)
  /-- One event of the package: any row of the opcode table that no agent fetches. -/
  | event (i : Instr)
  /-- The host writes its own memory at a PCIe address. -/
  | hostMem (addr : Nat) (bytes : List Byte)
  /-- One piece of command-processor work left over from an earlier step. -/
  | cp
  /-- One cycle of a core for a task: a turn of each of its sequencers, in the order of their codes (R369). -/
  | cycle (t : Nat)
  /-- The firmware of the command processor sets the service mode of a core (R104). -/
  | service (die core mode : Nat)
  deriving DecidableEq, Repr, Inhabited

namespace Config

/-- The turn taken when the agenda is empty: open, read with a counter of State. -/
opaque freeTurn : Nat → Turn

/-- The 64 bytes of measurement `n`, 1 or 2, that boot records (R406, R409): the images' content is not in the spec. -/
opaque measurement : Nat → Nat → Byte

/-- Byte `n` of the Ed448 signature over a byte string with the package's identity key (R410). -/
opaque signature : List Byte → Nat → Byte

/-- VER of R408. -/
opaque firmwareVersion : BitVec 16

/-- A bid of auction number 60, "as firmware chooses" (R105), for an election and a die. -/
opaque electionBid : Nat → Nat → BitVec 32

/-- Core cycles for which a held write waits on a GEMV operation (R221, R240): the duration has no published figure. -/
opaque freeCycles : Nat → Nat

/-- Choices the spec leaves to firmware or timing, drawn with a counter of State. -/
opaque freeChoice : Nat → Nat

/-- Vector registers of a core. DESIGN CHOICE (assumption 9): the spec gives no total, only demands up to 128; with four
slots, 512 never limits a placement. -/
def coreVregs : Nat := 512

end Config

end Sys2Proof
end

