-- ==== Sys2Proof/Machine/Assoc.lean ====
section
/-! DEFINITION. Sparse data by key: a list of (key, value) pairs in one canonical form, keys strictly rising and no
entry that holds the default. Every indexed part of the state is held this way, so equal contents are equal data. -/

namespace Sys2Proof

/-- A sparse map from numbers. -/
abbrev Assoc (α : Type) := List (Nat × α)

/-- The entry of a key, if one is listed. -/
def Assoc.find {α : Type} (m : Assoc α) (k : Nat) : Option α :=
  match m with
  | [] => none
  | (j, v) :: r => if j == k then some v else if k < j then none else Assoc.find r k

/-- The value at a key; `d` where none is listed. -/
def Assoc.get {α : Type} (d : α) (m : Assoc α) (k : Nat) : α := (Assoc.find m k).getD d

/-- Whether a key is listed. -/
def Assoc.has {α : Type} (m : Assoc α) (k : Nat) : Bool := (Assoc.find m k).isSome

/-- List a value at a key, in place of any earlier entry. -/
def Assoc.put {α : Type} (m : Assoc α) (k : Nat) (v : α) : Assoc α :=
  match m with
  | [] => [(k, v)]
  | (j, w) :: r => if k < j then (k, v) :: (j, w) :: r else if j == k then (k, v) :: r else (j, w) :: Assoc.put r k v

/-- Remove a key. -/
def Assoc.erase {α : Type} (m : Assoc α) (k : Nat) : Assoc α :=
  match m with
  | [] => []
  | (j, w) :: r => if k < j then (j, w) :: r else if j == k then r else (j, w) :: Assoc.erase r k

/-- Store a value at a key; storing the default `d` removes the entry. -/
def Assoc.set {α : Type} [DecidableEq α] (d : α) (m : Assoc α) (k : Nat) (v : α) : Assoc α :=
  if v = d then Assoc.erase m k else Assoc.put m k v

/-- Change the value at a listed key. -/
def Assoc.modify {α : Type} (m : Assoc α) (k : Nat) (f : α → α) : Assoc α :=
  match Assoc.find m k with
  | some v => Assoc.put m k (f v)
  | none => m

/-- Remove every key from `lo` up to, not including, `hi`. -/
def Assoc.clearRange {α : Type} (m : Assoc α) (lo hi : Nat) : Assoc α := m.filter fun e => !(lo ≤ e.1 && e.1 < hi)

/-- The `n` values from key `lo` on, as a plain list. -/
def Assoc.dense {α : Type} (d : α) (m : Assoc α) (lo n : Nat) : List α :=
  match n with
  | 0 => []
  | n + 1 =>
    match m.dropWhile (fun e => e.1 < lo) with
    | [] => d :: Assoc.dense d [] (lo + 1) n
    | (j, v) :: r => if j == lo then v :: Assoc.dense d r (lo + 1) n else d :: Assoc.dense d ((j, v) :: r) (lo + 1) n

/-- A plain list as a sparse map from key `lo` on. -/
def Assoc.ofList {α : Type} [DecidableEq α] (d : α) (l : List α) (lo : Nat) : Assoc α :=
  match l with
  | [] => []
  | v :: r => if v = d then Assoc.ofList d r (lo + 1) else (lo, v) :: Assoc.ofList d r (lo + 1)

/-- Replace the values from key `lo` on by those of a list. -/
def Assoc.splice {α : Type} [DecidableEq α] (d : α) (m : Assoc α) (lo : Nat) (l : List α) : Assoc α :=
  m.takeWhile (fun e => e.1 < lo) ++ Assoc.ofList d l lo ++ m.dropWhile (fun e => e.1 < lo + l.length)

/-- The canonical form: keys strictly rising and no entry equal to the default. -/
def Assoc.wf {α : Type} [DecidableEq α] (d : α) (m : Assoc α) : Bool :=
  match m with
  | [] => true
  | (_, v) :: [] => v != d
  | (j, v) :: (k, w) :: r => v != d && decide (j < k) && Assoc.wf d ((k, w) :: r)

end Sys2Proof
end

