-- ==== Sys2Proof/Machine/State.lean ====
section
/-! DEFINITION. The state of an HX9 package, everything the spec names, as plain data; the reasons a step can stop; and
the state right after power-on. -/

namespace Sys2Proof.Machine

/-- The reasons a step stops. -/
inductive Fault where
  /-- Raised by the meaning of a Turkar instruction, a pitch instruction or a command when `State.cur` names no task's
  sequencer, no pitch processor that is running a kernel, or no ring: each belongs to its agent (R113, R354, R402). `step`
  never runs one so.
  Safe: the machine stops where the spec describes no machine. -/
  | noIssuer
  deriving DecidableEq, Repr

/-- The reasons an instruction has no meaning. -/
inductive Refusal where
  /-- Raised by an arm of `exec` for an instruction the model gives no meaning. Safe: nothing can be proved of its
  effect. -/
  | notModelled (mnemonic : String)
  deriving DecidableEq, Repr

/-! ### Vector data, ports and late writes -/

/-- The contents of one vector register: lane (r, c) at key 64r + c (R171); unlisted lanes are 0. -/
abbrev VReg := Assoc (BitVec 32)

/-- One bit per lane, bit 64r + c (R173). -/
abbrev Mask := BitVec 1024

/-- A port entry: 4 KiB of lanes and the activity mask of the push (R266). -/
structure Operand where
  data : VReg
  mask : Mask
  deriving DecidableEq, Repr

/-- A store-port entry: reserved at issue, filled when its result lands (R174). -/
structure SqEntry where
  id : Nat
  op : Option Operand
  deriving DecidableEq, Repr

/-- What a fixed-latency write changes when it lands (R149, R172, R173). -/
inductive Late where
  | sreg (code : Nat) (v : Word)
  | vreg (phys : Nat) (mask : Mask) (data : VReg)
  | preg (n : Nat) (mask bits : Mask)
  | sq (port id : Nat) (op : Operand)
  deriving DecidableEq, Repr

/-- A pending fixed-latency write and the issue-clock cycle it lands at. -/
structure LateWrite where
  land : Nat
  what : Late
  deriving DecidableEq, Repr

/-- A pending interlocked result (R150): its destination, and its value once the access is performed. `uid` names the
held access or hub request that will give it; `handler` notes that an instruction of a trap handler made it (R394), and `land`
is the issue-clock cycle of one that lands at a stated time (R277). -/
structure Ilk where
  code : Nat
  val : Option Word
  uid : Nat
  handler : Bool
  land : Option Nat
  deriving DecidableEq, Repr

/-- What a sequencer waits for (R330, R332); a pop names the codes of the ports that lack an operand, a push that of its port
(R125). -/
inductive Wait where
  | pop (ports : List Nat)
  | push (port : Nat)
  | ttake | phaser | superstep | monitor | mwait | cewait | gemvwait | lotreq | ag | mcommit | bidw
  | tgive | wqpop | gvstep | tend | rft | interlock | fence | bidFull
  deriving DecidableEq, Repr

/-- Where an access of a task goes. -/
inductive Place where
  | spad (off : Nat)
  | acc (off : Nat)
  | md (off : Nat)
  | cluster (off : Nat)
  | stripe (off : Nat)
  | phys (pa : Nat) (streaming : Bool)
  deriving DecidableEq, Repr

/-- An access of the K-seq or W-seq that has issued and is not yet performed (R165, R295, R327), with the
place its address named at issue. -/
inductive HeldAccess where
  | load (addr : Word) (width : Nat) (at_ : Place)
  | store (addr : Word) (width : Nat) (v : Word) (at_ : Place)
  | peer (fn : Nat) (ref b : Word)
  deriving DecidableEq, Repr

/-- A held access with the barriers it waits behind. -/
structure Held where
  uid : Nat
  acc : HeldAccess
  after : List Nat
  deriving DecidableEq, Repr

/-- A request of a K-seq to the hub that is on its way there (R154, R168, R169). -/
inductive HubReq where
  | patch (lr word : Nat) (v : Word)
  | arm (lr : Nat)
  | stat (lr : Nat)
  | push (queue : Nat) (v : Word)
  | len (queue : Nat)
  deriving DecidableEq, Repr

/-- A hub request with its name, the code of its result's register, and what its arrival follows (R79, R296). -/
structure HubOp where
  uid : Nat
  req : HubReq
  after : List Nat
  deriving DecidableEq, Repr

/-- What holds later accesses of a sequencer: a pending fence (R295) or mark (R293), or a fork that has not taken its
copies yet (R285, R297), with the accesses it waits for and the classes it holds, bit 0 ld, bit 1 st, bit 2 eng, bit 3 xl,
bit 4 code. `partner` is the code of a mark's partner, `k` its number in that pair, and `fork` the operation of a fork. -/
structure Barrier where
  id : Nat
  preds : List Nat
  holds : BitVec 5
  wb : Bool
  inv : Bool
  scope : Nat
  partner : Option Nat
  k : Nat
  fork : Option Nat
  deriving DecidableEq, Repr

/-- One sequencer of a task (R113, R116, R147). `atIssue` keeps the registers as a blocking instruction read them when it
issued, and `words` its words, while it waits (R130, R149, R151). `markWaits` holds, for each mark behind which accesses
wait, the cycle after the one the wait began in, counted on the clock that runs now, and `markHung` the marks whose wait has its
record (R330). `zero` is the range of a `czero` that stands held at its bank (R221, R286), with its stall count. -/
structure SeqState where
  pc : Word
  clk : Nat
  stall : Nat
  regs : Assoc Word
  late : List LateWrite
  ilk : List Ilk
  wait : Option Wait
  waited : Nat
  hung : Bool
  atIssue : Option (Assoc Word)
  words : Option Word
  forks : BitVec 32
  held : List Held
  peers : List Held
  barriers : List Barrier
  marks : Assoc Nat
  markWaits : Assoc Int
  markHung : List Nat
  zero : Option (Nat × Nat × Stall)
  deriving DecidableEq, Repr

/-- A sequencer that starts at an address, with every register 0 (R114). -/
def SeqState.start (pc : Word) : SeqState :=
  { pc := pc, clk := 0, stall := 0, regs := [], late := [], ilk := [], wait := none, waited := 0, hung := false,
    atIssue := none, words := none, forks := 0, held := [], peers := [], barriers := [], marks := [], markWaits := [],
    markHung := [], zero := none }

/-! ### Generators, engines and the matrix unit of a task -/

/-- One field of an address generator's bit-field pattern (R257). -/
structure AgField where
  off : Nat
  wid : Nat
  sgn : Bool
  deriving DecidableEq, Repr

/-- A parameter set of an address generator (R257). -/
structure AgParams where
  base : Word
  bound : Assoc Nat
  stride : Assoc Int
  chunk : Nat
  unp : Bool
  per : Nat
  nf : Nat
  fields : Assoc AgField
  masked : Bool
  deriving DecidableEq, Repr

/-- The shadow set at task start (R260). Unlisted bounds are 1, strides 0, fields zero. -/
def AgParams.start : AgParams :=
  { base := 0, bound := [], stride := [], chunk := 12, unp := false, per := 0, nf := 0, fields := [], masked := false }

/-- A queued walk: its set, its name as an access, the barriers it waits behind, and the fences that hold its page walks. -/
structure AgSet where
  par : AgParams
  uid : Nat
  after : List Nat
  xl : List Nat
  deriving DecidableEq, Repr

/-- The reason a generator is halted (R258, R264): cause, address, and the CSPACE and cause a trap record carries. -/
structure AgHalt where
  cause : Nat
  addr : Word
  deriving DecidableEq, Repr

/-- One address generator of a task. `ops` counts operands of the active or last walk; `busy` is an accepted operand,
`begun` the places of its sectors as it was accepted, and `held` notes that its write, or that of a stopped walk's last period, has
been found held on a reservation (R221); `carry` and `cbits` are the lanes of a store walk's incomplete period and the bits of its
incomplete byte (R257). -/
structure Gen where
  shadow : AgParams
  active : Option AgSet
  pos : Nat
  busy : Bool
  queued : Option AgSet
  halt : Option AgHalt
  raised : Bool
  stopping : Bool
  held : Bool
  ops : BitVec 32
  carry : List (BitVec 32)
  cbits : Nat
  begun : List Place
  deriving DecidableEq, Repr

/-- A generator at task start. -/
def Gen.start : Gen :=
  { shadow := AgParams.start, active := none, pos := 0, busy := false, queued := none, halt := none, raised := false,
    stopping := false, held := false, ops := 0, carry := [], cbits := 0, begun := [] }

/-- The fault of an engine operation: engine cause (CSPACE 4), address and FCHK (R271). -/
structure EngFault where
  cause : Nat
  addr : Word
  fchk : Nat
  deriving DecidableEq, Repr

/-- What an engine operation does, with the copies it took at its fork; `pending` until it has taken them, with the offset
of its command block (R285, R297). -/
inductive EngJob where
  | pending (off : Nat)
  | copy (src srcL dst dstL : List Word) (trans sat : Bool) (rnd : Nat)
  | mdld (src : Word) (dst len : Nat)
  | hist (tsr tlr : List Word) (hbase : Int)
  | gemv (tsr tlr : List Word) (xoff yoff : Nat) (xexp : Int) (xtype : Nat) (yf32 : Bool) (rnd : Nat) (sat : Bool)
  | walk (wrec route : List Word) (routed : Bool)
  | none
  deriving DecidableEq, Repr

/-- A chunk of a copy: its bytes, by virtual address, its lossy rescales, and whether it is the last. -/
structure Chunk where
  bytes : List (Nat × List Byte)
  lossy : Nat
  last : Bool
  deriving DecidableEq, Repr

/-- An engine operation that has not retired. `block` is its command block's scratchpad offset, where STATUS lands; `xl` holds the
fences that hold its page walks, `kept` a chunk that stands held, `held` notes
that a write of it has been found held (R221), and `reserve` is what a pending GEMV operation reserves (R240). -/
structure EngOp where
  uid : Nat
  engine : Engine
  seq : Nat
  num : BitVec 32
  block : Option Nat
  waitMask : Word
  signal : Word
  job : EngJob
  started : Bool
  pos : Nat
  lossy : Nat
  fault : Option EngFault
  armed : Option (Nat × Nat)
  sent : List Nat
  after : List Nat
  xl : List Nat
  kept : Option Chunk
  held : Bool
  reserve : List (Nat × Nat)
  deriving DecidableEq, Repr

/-- A fault of a retired operation, waiting for a join (R371). Class 12, 13, 14 or 15, or 11 for a batch. -/
structure Unreported where
  engine : Option Engine
  seq : Nat
  num : BitVec 32
  cls : Nat
  fault : EngFault
  deriving DecidableEq, Repr

/-- An operand descriptor of R217, checked. -/
structure Desc where
  moff : Nat
  sparse : Bool
  tag0 : Nat
  soff : Nat
  eoff : Nat
  pitch : Nat
  klen : Nat
  rows : Nat
  side : Bool
  blk : Nat
  ty : NumType
  deriving DecidableEq, Repr

/-- An operand selector: its descriptor and K cursor (R218). -/
structure Selector where
  desc : Desc
  cur : Nat
  deriving DecidableEq, Repr

/-- A product that has issued (R229): tiles from `t0`, the selectors as they stood, the depth in chunks, and the chunks
done. `m`, `n` and `k0` are the task's shape. -/
structure MatOp where
  uid : Nat
  t0 : Nat
  a : Selector
  b : Selector
  depth : Nat
  sparse : Bool
  m : Nat
  n : Nat
  k0 : Nat
  done : Nat
  skew : Bool
  poison : Bool
  after : List Nat
  deriving DecidableEq, Repr

/-- A synchronous product in progress (R229), with the stall count of its `mma`. It is detached when a stop has let the
`mma` go: the product runs on, and the C-seq's next instruction waits for it. -/
structure SyncMma where
  op : MatOp
  stall : Nat
  detached : Bool
  deriving DecidableEq, Repr

/-- A batch of products (R219). `num` is none while it is open. -/
structure Batch where
  num : Option (BitVec 32)
  ops : List MatOp
  planned : Nat
  deriving DecidableEq, Repr

/-- An accumulator tile (R204): 1,024 mantissa words, exponent word and guard word. -/
structure Tile where
  m : Assoc Word
  x : Int
  ote : Bool
  nan : Bool
  psn : Bool
  ovf : Bool
  osgn : Bool
  head : Nat
  deriving DecidableEq, Repr

/-- A tile as it is when a task is placed (R204). -/
def Tile.start : Tile :=
  { m := [], x := 0, ote := false, nan := false, psn := false, ovf := false, osgn := false, head := 2 ^ 62 - 1 }

/-! ### Tasks -/

/-- One phaser membership (R320). The phaser's key is its handle, with the die above it for a die phaser.
`sent` notes that the signal of the `phsig` or `phsw` that is waiting has been counted. -/
structure Member where
  key : Nat
  mode : Nat
  sph : BitVec 32
  wph : BitVec 32
  sent : Bool
  deriving DecidableEq, Repr

/-- How far a bid has come (R108, R112, R333). -/
inductive BidState where
  | posted | entered | result (key : BitVec 43) (own : Bool)
  deriving DecidableEq, Repr

/-- An entry of a task's bid table. `bid` is the value that bids, `next` a later one posted behind a round in progress,
and `after` the fences its post follows (R296). -/
structure Bid where
  num : Nat
  bid : BitVec 32
  st : BidState
  next : Option (BitVec 32)
  after : List Nat
  deriving DecidableEq, Repr

/-- The monitor of a task (R328): the sector it is armed on, and the first wake's reason since it was last consumed. -/
structure Monitor where
  sector : Option Loc
  reason : Nat
  spurious : Nat
  deriving DecidableEq, Repr

/-- The fields of a task-type entry a task keeps (R91): the copy the dispatcher took. -/
structure TaskType where
  kent : Word
  lent : Word
  went : Word
  cent : Word
  trapv : Word
  chk : Bool
  slip : Nat
  vreg : Nat
  spd : Nat
  accd : Nat
  mdd : Nat
  clsd : Nat
  mmax : Nat
  nmax : Nat
  lots : Assoc Nat
  fwid : Nat
  grole : Nat
  glayer : Nat
  plmode : Nat
  plbase : Word
  plstr : Assoc Int
  deriving DecidableEq, Repr

/-- Why a task is being cut (R385); an `imgcut` keeps its destination register, `replay` the array whose parity failed (R374), and
`cancel` is the end of the task (R90). -/
inductive Cut where
  | preempt | withdraw | interval | halt | cancel
  | image (code : Nat)
  | replay (arr : Nat)
  deriving DecidableEq, Repr

/-- Whether a task runs: it issues, its `tend` waits (R156), it is being cut, it has left its core with an image, or
`brk` has halted it (R385, R395). -/
inductive Life where
  | running | ending | cut | halted
  | cutting (why : Cut)
  deriving DecidableEq, Repr

/-- The K-seq state that handler mode sets aside (R152, R368). -/
structure HandlerSave where
  clk : Nat
  stall : Nat
  late : List LateWrite
  deriving DecidableEq, Repr

/-- A machine check waiting for a K-seq instruction boundary (R375). -/
structure PendingCheck where
  array : Nat
  cspace : Nat
  cause : Nat
  addr : Word
  deriving DecidableEq, Repr

/-- One task: what R116, R386 and the unit chapters give it. `tokens` holds, per queue, its tokens oldest first, each with the
scratchpad writes that must have reached their bank before the take it feeds completes (R286). `left` holds the handles of the die
phasers that a move to another die has dropped (R321), `holding` notes that HOLDCNT has counted the writes held since a reservation
last ended (R221), `hubq` holds the K-seq's hub requests on their way, and `ending` notes that its `tend` has begun. -/
structure Task where
  lr : Nat
  arming : Word
  wid : Word
  ctx : Nat
  vdie : Nat
  die : Nat
  core : Nat
  slot : Nat
  prio : Nat
  life : Life
  tt : TaskType
  kq : SeqState
  lq : SeqState
  wq : SeqState
  cq : SeqState
  v : Assoc VReg
  p : Assoc Mask
  rofs : Nat
  sdepth : Nat
  tokens : Assoc (List (List Nat))
  loadPorts : Assoc (List Operand)
  storePorts : Assoc (List SqEntry)
  gens : Assoc Gen
  spad : Assoc Byte
  md : Assoc Byte
  tiles : Assoc Tile
  tileReady : Assoc Nat
  selectors : Assoc Selector
  selReady : Assoc Nat
  shape : Word
  lots : Nat
  demand : Nat
  leaving : Nat
  openBatch : Batch
  batches : List Batch
  batchCtr : BitVec 32
  batchJoined : BitVec 32
  sync : Option SyncMma
  gemvCtr : BitVec 32
  gemvJoined : BitVec 32
  walkCtr : BitVec 32
  eng : List EngOp
  faults : List Unreported
  recs : List (Word × List Word)
  hist : Assoc (BitVec 32)
  rcv : Assoc (BitVec 32 × BitVec 32)
  members : List Member
  left : List Nat
  ssArrived : Assoc (BitVec 32)
  bids : List Bid
  mon : Monitor
  srnd : BitVec 32
  holdcnt : Word
  holding : Bool
  evt : Word
  sto : BitVec 32
  opr : Assoc (BitVec 32)
  imgseq : Word
  trec : Word
  tpck : Word
  tpcl : Word
  tpcw : Word
  tpcc : Word
  taddr : Word
  tinfo : Word
  tword : Word
  handler : Option HandlerSave
  checks : List PendingCheck
  gvDone : Option Word
  hubq : List HubOp
  ending : Bool
  popped : Option (Nat × Nat × Word)
  fixedPop : Bool
  deriving DecidableEq, Repr

/-! ### The hub -/

/-- The states of a launch record (R74). -/
inductive RecState where
  | free | idle | armed | running | done | failed
  deriving DecidableEq, Repr

/-- What the dispatcher's read of a task-type entry gave (R92, R376): its 16 words, an address that does not translate, or the array
code of a poisoned sector. -/
inductive TypeRead where
  | untranslated
  | poisoned (code : Nat)
  | words (ws : List Word)
  deriving DecidableEq, Repr

/-- A launch record (R73, R74): words 0 to 27, and what the CP keeps; `held`, `cuts` and `traps` are the statistics of R401.
`ready` is the order in which it became ready; every task below index `next` has been placed, and those of `placed`. `entry` is the
copy of its task-type entry, `granted` its virtual dies, and `onDies` the physical dies it holds (R92 to R94). -/
structure LaunchRec where
  ctx : Option Nat
  words : Assoc Word
  state : RecState
  err : Nat
  epoch : BitVec 32
  retired : Nat
  itcnt : BitVec 32
  dies : Nat
  armcnt : Word
  ready : Option Nat
  granted : List Nat
  onDies : List Nat
  entry : Option TypeRead
  tt : Option TaskType
  next : Nat
  placed : List Nat
  pushHeld : Bool
  held : Nat
  cuts : Nat
  traps : Nat
  deriving DecidableEq, Repr

/-- A Free record. -/
def LaunchRec.free : LaunchRec :=
  { ctx := none, words := [], state := .free, err := 0, epoch := 0, retired := 0, itcnt := 0, dies := 0, armcnt := 0,
    ready := none, granted := [], onDies := [], entry := none, tt := none, next := 0, placed := [], pushHeld := false, held := 0, cuts := 0, traps := 0 }

/-- A context (R93, R249, R336, R383, R387). `evq` holds the ring address and k; `vdies` is the table of R15. -/
structure Ctx where
  asid : Nat
  root : Nat
  job : Nat
  allow : BitVec 8
  vdies : Assoc Nat
  stripe : Nat
  image : Option (Nat × Nat × Nat × Nat)
  interval : Nat
  evq : Option (Nat × Nat)
  produced : Word
  lost : Nat
  deriving DecidableEq, Repr

/-- A waiting `wqpop`: its task, its destination's code and its stall count. -/
structure Popper where
  task : Nat
  code : Nat
  stall : Nat
  deriving DecidableEq, Repr

/-- A hardware work queue (R88, R89): entries oldest first, and the poppers waiting, in arrival order. `taken` counts the
entries that have left it, so that a poison mark names one entry. -/
structure WorkQueue where
  ctx : Nat
  k : Nat
  fixed : Bool
  taken : Nat
  entries : List Word
  waiters : List Popper
  deriving DecidableEq, Repr

/-- A phaser (R320, R322). `waiting` holds the tasks of blocked signals in arrival order. -/
structure Phaser where
  ctx : Option Nat
  phase : BitVec 32
  nsig : Nat
  sigd : Nat
  drops : Nat
  proxies : Nat
  waiting : List Nat
  deriving DecidableEq, Repr

/-- An unbound phaser. -/
def Phaser.unbound : Phaser :=
  { ctx := none, phase := 0, nsig := 0, sigd := 0, drops := 0, proxies := 0, waiting := [] }

/-- A superstep barrier (R323). -/
structure Superstep where
  ctx : Option Nat
  lr : Option Nat
  step : BitVec 32
  arrived : List Nat
  retired : Nat
  cur : Nat
  next : Nat
  deriving DecidableEq, Repr

/-- An unbound barrier. -/
def Superstep.unbound : Superstep :=
  { ctx := none, lr := none, step := 0, arrived := [], retired := 0, cur := 0, next := 0 }

/-- An entrant of an auction round: its key, and its task when it is a task's bid. -/
structure Entrant where
  key : BitVec 43
  task : Option Nat
  deriving DecidableEq, Repr

/-- A lane of the auction plane (R105 to R110). `round` is the number and entrants of the round in progress. -/
structure Lane where
  number : Nat
  key : BitVec 43
  round : Option (Nat × List Entrant)
  swept : Option Nat
  rerun : Bool
  voids : Nat
  run : Nat
  testing : Bool
  retiredWires : Nat
  deriving DecidableEq, Repr

/-- A lane at power-on. -/
def Lane.start : Lane :=
  { number := 0, key := 0, round := none, swept := none, rerun := false, voids := 0, run := 0, testing := false,
    retiredWires := 0 }

/-- An entry of a PSR's history (R63). -/
structure HistEntry where
  epoch : BitVec 32
  gen : BitVec 32
  fmt : Nat
  blk : Nat
  width : Nat
  deriving DecidableEq, Repr

/-- A precision state record with its history (R60, R63) and the writes of RSCL, newest first (R64). -/
structure Psr where
  rscl : Nat
  hbase : Int
  cls : Nat
  clip : Nat
  h : Nat
  qcnt : Nat
  wmin : Nat
  wcap : Nat
  wcur : Nat
  gen : BitVec 32
  map16 : Nat
  map8 : Nat
  map4 : Nat
  map2 : Nat
  history : List HistEntry
  rscls : List (BitVec 32 × Nat)
  deriving DecidableEq, Repr

/-- The reset values of R60, with the history of R63. -/
def Psr.start : Psr :=
  { rscl := 0x7F, hbase := -16, cls := 0, clip := 64, h := 2, qcnt := 0, wmin := 1, wcap := 3, wcur := 2, gen := 0,
    map16 := 0x81, map8 := 0xA6, map4 := 0xA5, map2 := 0x0C,
    history := [{ epoch := 0, gen := 0, fmt := 6, blk := 1, width := 2 }], rscls := [] }

/-- The step's evidence a die holds for one PSR (R66). -/
structure Evidence where
  n : BitVec 32
  qn : BitVec 32
  qc : BitVec 32
  reports : Nat
  deriving DecidableEq, Repr

/-- A boundary evaluation that is due (R68): the task of its completing `gvstep`, if it has one, and the evidence of the step
it ends (R66, R362). -/
structure DueEval where
  task : Option Nat
  evidence : Assoc Evidence
  deriving DecidableEq, Repr

/-- A governor class (R68): target, arrivals, the boundary evaluations that are due, the one in progress among them, a target
written meanwhile, and the number of evaluations that have ended. -/
structure GovClass where
  target : Nat
  arrivals : Nat
  due : List DueEval
  newTarget : Option Nat
  ended : Nat
  deriving DecidableEq, Repr

/-- A governor class at power-on. -/
def GovClass.start : GovClass := { target := 1, arrivals := 0, due := [], newTarget := none, ended := 0 }

/-- The boundary evaluation in progress (R69, R94): its class, the PSR whose rounds of number 62 run with the winning bids of
those that have ended, the winning bids of each PSR that some die bid for, and, once the decisions are made, the launches
whose die change is not settled. -/
structure Evaluation where
  cls : Nat
  psr : Option Nat
  wins : List Nat
  agreed : Assoc (List Nat)
  changes : Option (List Nat)
  deriving DecidableEq, Repr

/-- A waiting request of a lot arbiter (R101), with the stall count of its `lotreq`. -/
structure LotReq where
  task : Nat
  n : Nat
  prio : Nat
  stall : Stall
  deriving DecidableEq, Repr

/-- A sector of an L1 line (R253). A streaming sector holds its own bytes; a coherent one is current in memory. -/
structure L1Sector where
  valid : Bool
  dirty : Bool
  streaming : Bool
  data : Assoc Byte
  deriving DecidableEq, Repr

/-- A line of an L1 (R253, R254): its physical line number and the ASID that last dirtied it. -/
structure L1Line where
  line : Nat
  asid : Nat
  s0 : L1Sector
  s1 : L1Sector
  deriving DecidableEq, Repr

/-- A cached translation (R251): ASID, virtual page base, page size, physical base and the leaf's low bits and MTYPE. -/
structure TlbEntry where
  asid : Nat
  vbase : Nat
  size : Nat
  pbase : Nat
  perm : Nat
  mtype : Nat
  deriving DecidableEq, Repr

/-- A transfer, or a packet of one, on its way to its destination task (R340, R342). `sender` is the task, operation and
transfer index of a walk of this package, `pkg` the destination's package, `sse` the barrier and the step its bytes count
toward (R324), `part` the sending package, number and length of the transfer a packet is a part of (R361), `rod` the sending
package and the walk of one that came under ROD (R344). -/
structure Xfer where
  id : Nat
  pkg : Nat
  sender : Option (Nat × Nat × Nat)
  job : Nat
  lrec : Nat
  wid : Word
  addr : Word
  op : Nat
  rcnt : Nat
  bytes : List Byte
  sse : Option (Nat × BitVec 32)
  part : Option (Nat × Nat × Nat)
  rod : Option (Nat × Nat)
  deriving DecidableEq, Repr

/-- The landed packets of a transfer from another package that is not whole yet (R343): its sending package and number, the
bytes that have landed, and the words in each tile. -/
structure RxPart where
  src : Nat
  xid : Nat
  got : Nat
  words : Assoc Nat
  deriving DecidableEq, Repr

/-- Data that has left for another package: a packet of a walk (R340) or of `pemit` (R356). A walk on the default route
names no port and no flow (R347). -/
structure Egress where
  pkg : Nat
  port : Option Nat
  rod : Bool
  flow : Option Nat
  hdr : Option XferHdr
  bytes : List Byte
  deriving DecidableEq, Repr

/-- A flow entry of a port (R353): control word and 128 bytes of state. -/
structure Flow where
  ctl : BitVec 128
  state : Assoc Byte
  deriving DecidableEq, Repr

/-- A store of a kernel to half `half` of a flow's state, which takes effect at its terminal: lanes and their mask (R354). -/
structure FlowStore where
  flow : Nat
  half : Nat
  mask : BitVec 16
  data : List (BitVec 32)
  deriving DecidableEq, Repr

/-- A kernel in progress on a pitch processor (R354): registers, masks, window, and the effects that wait for its
terminal. -/
structure PitchRun where
  pkt : Packet
  flow : Nat
  seq : BitVec 32
  pc : Nat
  q : Assoc (BitVec 32)
  k : Assoc (BitVec 16)
  window : List Byte
  budget : Nat
  rep : Option (Nat × Nat × Nat)
  stores : List FlowStore
  pushes : List (Nat × Word)
  emits : List (List Byte)
  deriving DecidableEq, Repr

/-- A pitch processor: its kernel store, the packets that wait, and its run. -/
structure Pitch where
  store : Assoc (BitVec 32)
  queue : List (Nat × Packet)
  run : Option PitchRun
  deriving DecidableEq, Repr

/-- A pitch processor at power-on. -/
def Pitch.start : Pitch := { store := [], queue := [], run := none }

/-- A command ring (R402). `live` keeps RBASE, CBASE and RCTL as they were read when the ring was enabled; `busy` notes that the
descriptor at HEAD has begun and not completed, `stopping` that the ring stops when it has. `psrWait` is the number of evaluations
of its class that had ended when a PSR_WRITE in progress found one due (R62). -/
structure Ring where
  rbase : Word
  cbase : Word
  rctl : Word
  tail : Word
  head : Word
  badTail : Bool
  enabled : Bool
  stopping : Bool
  live : Word × Word × Word
  busy : Bool
  psrWait : Option Nat
  deriving DecidableEq, Repr

/-- A ring at reset (R402). -/
def Ring.start : Ring :=
  { rbase := 0, cbase := 0, rctl := 0, tail := 0, head := 0, badTail := false, enabled := false, stopping := false,
    live := (0, 0, 0), busy := false, psrWait := none }

/-- One spoke die (R10 to R13, R378, R379, R411): its logical cores lost, spares left, operating points, and its link, with
the spare lanes of each direction and the snoops the hub holds while the link sleeps (a core of the package and a physical
address). -/
structure Die where
  working : Bool
  leftOut : Bool
  lostCores : List Nat
  spares : Nat
  hostPoint : Nat
  point : Nat
  hot : Bool
  capped : Bool
  critical : Bool
  halted : Bool
  linkAsleep : Bool
  snoops : List (Nat × Nat)
  crc : Assoc Nat
  lanesLost : Nat
  laneSparesIn : Nat
  laneSparesOut : Nat
  repairing : Bool
  absent : Nat
  channels : Nat
  spareChannels : Nat
  lostBytes : Nat
  deriving DecidableEq, Repr

/-- A die at power-on: nothing is trained yet, and every core and channel stands. -/
def Die.start : Die :=
  { working := false, leftOut := false, lostCores := [], spares := 2, hostPoint := 0, point := 0, hot := false,
    capped := false, critical := false, halted := false, linkAsleep := false, snoops := [], crc := [], lanesLost := 0, laneSparesIn := 8, laneSparesOut := 8, repairing := false, absent := 0,
    channels := 32, spareChannels := 2, lostBytes := 0 }

/-- A core (R104, R154, R175, R374): the vector unit and the accumulator port its task slots share, each with the tasks
whose C-seq instruction is held for it, longest ready first; the operand requests that wait for the generator front, a task
and a generator each, oldest first (R245); replays counted per array; and its service mode. -/
structure CoreState where
  vecBusy : Bool
  vecQ : List Nat
  accBusy : Bool
  accQ : List Nat
  agQ : List (Nat × Nat)
  parity : Assoc Nat
  mode : Nat
  deriving DecidableEq, Repr

/-- A core at power-on: Normal service mode (R104). -/
def CoreState.start : CoreState :=
  { vecBusy := false, vecQ := [], accBusy := false, accQ := [], agQ := [], parity := [], mode := 0 }

/-- Work the command processor has still to do, in order (R81, R82): a record that became ready, a counter decrement
made for a record, a completion action, and the end of a record's completion. -/
inductive CpWork where
  | ready (lr : Nat)
  | decrement (counter lr : Nat)
  | fire (lr : Nat)
  | finish (lr : Nat)
  deriving DecidableEq, Repr

/-- A retirement on its way to the CP (R399): launch record, arming, HOLDCNT. -/
structure Retirement where
  lr : Nat
  arming : Word
  hold : Nat
  deriving DecidableEq, Repr

/-- Who moves in the present step. -/
inductive Agent where
  | seq (t : Nat) (q : Seq)
  | pitch (p : Nat)
  | ring (n : Nat)
  | outside
  deriving DecidableEq, Repr

/-- A task's image (R386, R387): where it lies (a stack, or 8 for host memory), the task as it was saved, and the poison marks of
its own storage, which follow its data (R373). -/
structure SavedTask where
  place : Nat
  task : Task
  marks : List (Loc × Nat)
  deriving DecidableEq, Repr

/-- The whole package. `bootDies` notes that some die worked at step 5 of boot (R407), and `noWalks` is set inside the step of an
engine whose page walks a fence holds (R295), and clear between steps. `images` holds each task's latest image. `cur`, `curWord` (the words of the instruction being issued), `agenda`, `fresh`, `turns` and `uid` are the
model's own: who moves, what comes next, and the counters that name free values and accesses. `elections` names the elections of a recovery leader that are due (R380). -/
structure State where
  cur : Agent
  curWord : Word
  agenda : List Turn
  turns : Nat
  fresh : Nat
  uid : Nat
  noWalks : Bool
  -- memory
  mem : List Host.Cell
  hostMem : List Host.Cell
  cluster : Assoc (Assoc Byte)
  stripes : Assoc (Assoc Byte)
  poison : List (Loc × Nat)
  l1 : Assoc (List L1Line)
  coreTlb : Assoc (List TlbEntry)
  dieTlb : Assoc (List TlbEntry)
  -- tasks and cores
  tasks : Assoc Task
  nextTask : Nat
  images : Assoc SavedTask
  cores : Assoc CoreState
  lotq : Assoc (List LotReq)
  dies : Assoc Die
  -- the command processor and the hub
  recs : Assoc LaunchRec
  counters : Assoc (BitVec 16)
  readyCtr : Nat
  cpq : List CpWork
  retirements : List Retirement
  ctxs : Assoc Ctx
  queues : Assoc WorkQueue
  phasers : Assoc Phaser
  barriers : Assoc Superstep
  auctions : Assoc Nat
  lanes : Assoc Lane
  heartbeatDue : Bool
  epoch : BitVec 32
  psrs : Assoc Psr
  evidence : Assoc Evidence
  roleHist : Assoc (Assoc (BitVec 32))
  classes : Assoc GovClass
  evaluation : Option Evaluation
  elections : List Nat
  -- collectives and ports
  xfers : List Xfer
  nextXfer : Nat
  parts : List RxPart
  egress : List Egress
  delivered : List (Nat × Packet)
  domain : Nat
  pkgIndex : Nat
  switches : Assoc Nat
  jobPkgs : Assoc (List Nat)
  ports : BitVec 16
  dropped : Assoc Nat
  flows : Assoc Flow
  classifier : Assoc (Nat × Nat × Nat)
  pitches : Assoc Pitch
  -- the package's edges
  rings : Assoc Ring
  boot : Nat
  bootFail : Bool
  bootDies : Bool
  therm : Nat
  coolantLost : Bool
  poweredDown : Bool
  corrected : Assoc Word
  measure3 : List Byte
  measure4 : List Byte
  config : List Byte
  sensorRead : Nat
  deriving DecidableEq, Repr

/-- The package at power-on, before boot (R402, R406, R407): nothing bound, nothing placed, no memory listed. -/
def State.reset : State :=
  { cur := .outside, curWord := 0, agenda := [], turns := 0, fresh := 0, uid := 0, noWalks := false,
    mem := [], hostMem := [], cluster := [], stripes := [], poison := [], l1 := [], coreTlb := [],
    dieTlb := [], tasks := [], nextTask := 0, images := [], cores := [], lotq := [], dies := [], recs := [],
    counters := [], readyCtr := 0, cpq := [], retirements := [], ctxs := [], queues := [], phasers := [],
    barriers := [], auctions := [], lanes := [], heartbeatDue := false, epoch := 0, psrs := [], evidence := [], roleHist := [],
    classes := [], evaluation := none, elections := [], xfers := [],
    nextXfer := 0, parts := [], egress := [], delivered := [], domain := 1, pkgIndex := 0, switches := [], jobPkgs := [],
    ports := BitVec.allOnes 16, dropped := [], flows := [], classifier := [], pitches := [], rings := [], boot := 0,
    bootFail := false, bootDies := false, therm := 0, coolantLost := false, poweredDown := false, corrected := [],
    measure3 := [], measure4 := [], config := [], sensorRead := 0 }

end Sys2Proof.Machine
end

