-- ==== Sys2Proof/Machine/Memory.lean ====
section
/-! DEFINITION. Memory levels as programs see them (R242 to R257): bytes, the address map, page tables, TLBs, the L1
caches, poison marks and monitors. -/

namespace Sys2Proof.Machine

/-- Memory by address, in the canonical form of `Assoc`. -/
abbrev Memory := List Host.Cell

/-- What a byte that nothing has written reads as. DESIGN CHOICE (assumption 3): the spec gives HBM5 and host memory no
power-on contents. Windows read as zero at placement (R244, R246, R247). -/
def unlistedByte : Byte := 0

/-- The canonical form of a memory. -/
def Memory.wf (m : Memory) : Bool := Assoc.wf unlistedByte m

/-- `n` bytes from address `a` on. -/
def readBytes (m : Assoc Byte) (a n : Nat) : List Byte := Assoc.dense unlistedByte m a n

/-- Store bytes from address `a` on. -/
def writeBytes (m : Assoc Byte) (a : Nat) (bs : List Byte) : Assoc Byte := Assoc.splice unlistedByte m a bs

/-- The value of bytes in little-endian order (R2). -/
def leNat (bs : List Byte) : Nat := bs.foldr (fun b n => b.toNat + 256 * n) 0

/-- The low `n` bytes of a value in little-endian order (R2). -/
def toBytes (n v : Nat) : List Byte :=
  match n with
  | 0 => []
  | n + 1 => BitVec.ofNat 8 v :: toBytes n (v / 256)

/-- Bytes as 64-bit words in little-endian order. -/
def wordsOf (bs : List Byte) (n : Nat) : List Word :=
  (List.range n).map fun k => BitVec.ofNat 64 (leNat ((bs.drop (8 * k)).take 8))

/-- The bit field [hi:lo] of a record held as 64-bit words. -/
def field (ws : List Word) (hi lo : Nat) : Nat :=
  bits (ws.foldr (fun w n => w.toNat + 2 ^ 64 * n) 0) hi lo

/-! ### Physical memory (R248) -/

/-- Whether a physical address is host memory. -/
def isHostPa (pa : Nat) : Bool := bitAt pa 51

/-- Bytes of one stack: 96 GiB. -/
def stackBytes : Nat := 96 * 2 ^ 30

/-- The stack of an HBM5 address (R248). -/
def stackOf (pa : Nat) : Nat := bits pa 39 37

/-- Whether a physical address lies in the HBM5 map, working or not. -/
def inHbm (pa : Nat) : Bool := pa < 2 ^ 40 && decide (bits pa 36 0 < stackBytes)

/-- The record of a die. -/
def State.die (s : State) (d : Nat) : Die := Assoc.get Die.start s.dies d

/-- Whether a spoke die works (R15, R18). -/
def State.dieWorks (s : State) (d : Nat) : Bool := d < 8 && (s.die d).working

/-- Whether an address is memory: host memory, or HBM5 on a stack in service, below what lost channels leave (R19). -/
def State.paOk (s : State) (pa : Nat) : Bool :=
  isHostPa pa || (inHbm pa && s.dieWorks (stackOf pa) &&
    decide (bits pa 36 0 < stackBytes - (s.die (stackOf pa)).lostBytes))

/-- Bytes of physical memory, as they stand outside every cache. -/
def State.physRead (s : State) (pa n : Nat) : List Byte :=
  if isHostPa pa then readBytes s.hostMem (pa % 2 ^ 51) n else readBytes s.mem pa n

/-- Store bytes of physical memory. -/
def State.physWrite (s : State) (pa : Nat) (bs : List Byte) : State :=
  if isHostPa pa then { s with hostMem := writeBytes s.hostMem (pa % 2 ^ 51) bs }
  else { s with mem := writeBytes s.mem pa bs }

/-! ### Poison marks (R373) -/

/-- The array code of a poisoned sector, if it is marked. -/
def State.poisonAt (s : State) (l : Loc) : Option Nat := (s.poison.find? fun e => e.1 == l).map (·.2)

/-- Mark a sector. -/
def State.setPoison (s : State) (l : Loc) (code : Nat) : State :=
  { s with poison := (l, code) :: s.poison.filter fun e => e.1 != l }

/-- Clear a sector's mark. -/
def State.clearPoison (s : State) (l : Loc) : State := { s with poison := s.poison.filter fun e => e.1 != l }

/-! ### Translation (R249 to R252) -/

/-- The levels of a page walk: level, lowest VA bit indexed, index bits. -/
def walkLevels : List (Nat × Nat × Nat) := [(4, 48, 12), (3, 39, 9), (2, 30, 9), (1, 21, 9), (0, 16, 5)]

/-- The alignment of the table of a level, in bits: 4 KiB, and 256 bytes for level 0 (R249). -/
def tableAlign (level : Nat) : Nat := if level == 0 then 8 else 12

/-- The malformed-entry conditions of R250 for an entry met at a level. -/
def malformed (level shift e : Nat) : Bool :=
  let leaf := bitAt e 1
  let mtype := bits e 61 60
  let pa := bits e 51 8 * 256
  bits e 63 62 != 0 || bits e 59 52 != 0 || bits e 7 5 != 0 || 2 ≤ mtype ||
  (if leaf then 3 ≤ level || pa % 2 ^ shift != 0 || (isHostPa pa && mtype == 0)
   else level == 0 || bits e 4 2 != 0 || mtype != 0 || pa % 2 ^ tableAlign (level - 1) != 0)

/-- A page walk from a table on (R249, R250). The error is the translation cause of R366: 1 invalid, 2 malformed,
4 No memory, 5 Poisoned table. -/
def pageWalk (s : State) (asid table va : Nat) : List (Nat × Nat × Nat) → Except Nat TlbEntry
  | [] => .error 2
  | (level, shift, n) :: rest =>
    let ea := table + 8 * bits va (shift + n - 1) shift
    if isHostPa ea || !inHbm ea then .error 2
    else if !s.paOk ea then .error 4
    else if (s.poisonAt (.hbm (ea / 64 * 64))).isSome then .error 5
    else
      let e := leNat (s.physRead ea 8)
      if !bitAt e 0 then .error 1
      else if malformed level shift e then .error 2
      else if bitAt e 1 then
        .ok { asid := asid, vbase := va / 2 ^ shift * 2 ^ shift, size := 2 ^ shift, pbase := bits e 51 8 * 256,
              perm := bits e 4 2, mtype := bits e 61 60 }
      else pageWalk s asid (bits e 51 8 * 256) va rest

/-- Whether a cached translation serves an address of an ASID (R251). -/
def TlbEntry.hit (e : TlbEntry) (asid va : Nat) : Bool := e.asid == asid && e.vbase ≤ va && decide (va < e.vbase + e.size)

/-- The cached translation of a page, in the core's TLB and then the die's, and the core number of the TLB it stands in,
32 for the die's (R251). -/
def State.tlbLook (s : State) (die core asid va : Nat) : Option (TlbEntry × Nat) :=
  match (Assoc.get [] s.coreTlb (32 * die + core)).find? fun e => e.hit asid va with
  | some e => some (e, core)
  | none => ((Assoc.get [] s.dieTlb die).find? fun e => e.hit asid va).map fun e => (e, 32)

/-- The cached translation of a page (R251). -/
def State.tlbFind (s : State) (die core asid va : Nat) : Option TlbEntry := (s.tlbLook die core asid va).map (·.1)

/-- The translation code of a read of a poisoned TLB entry: 16 and the array code. It is no cause of R366: the reader takes
the machine check of R375. -/
def poisonedEntry (code : Nat) : Nat := 16 + code

/-- The translation code of a page walk that a fence holds: it is no cause of R366, and the access waits. -/
def heldWalk : Nat := 15

/-- What an access needs of its page: R, W or X of R250, or nothing (R267). -/
inductive Need where
  | read | write | exec | nothing
  deriving DecidableEq, Repr

/-- The bit of [4:2] a need tests. -/
def Need.ok (perm : Nat) : Need → Bool
  | .read => bitAt perm 0
  | .write => bitAt perm 1
  | .exec => bitAt perm 2
  | .nothing => true

/-- Translation of an address in a context, seen from a core (R249 to R251): the physical address and whether its memory
is streaming, or the cause of R366. A fault is cached nowhere. -/
def State.translate (s : State) (die core ctx va : Nat) (need : Need) : Except Nat (Nat × Bool) :=
  match Assoc.find s.ctxs ctx with
  | none => .error 1
  | some c =>
    let entry : Except Nat TlbEntry := match s.tlbLook die core c.asid va with
      | some (e, k) =>
        match s.poisonAt (.tlb die k e.asid e.vbase) with
        | some code => .error (poisonedEntry code)
        | none => .ok e
      | none => if s.noWalks then .error heldWalk else pageWalk s c.asid c.root va walkLevels
    match entry with
    | .error k => .error k
    | .ok e =>
      if !need.ok e.perm then .error 3
      else
        let pa := e.pbase + (va - e.vbase)
        if s.paOk pa then .ok (pa, e.mtype == 1) else .error 4

/-- An entry at the head of a TLB of `n` entries, the most recent first; the poison mark of an entry goes with it. -/
def tlbAdd (l : List TlbEntry) (e : TlbEntry) (n : Nat) : List TlbEntry := (e :: l.filter (· != e)).take n

/-- Keep a translation in a core's TLB, of 256 entries (R251). -/
def State.keepCore (s : State) (die core : Nat) (e : TlbEntry) : State :=
  let k := 32 * die + core
  ({ s with coreTlb := Assoc.set [] s.coreTlb k (tlbAdd (Assoc.get [] s.coreTlb k) e 256) } : State).clearPoison
    (.tlb die core e.asid e.vbase)

/-- Keep a translation in a die's TLB, of 16,384 entries (R251). -/
def State.keepDie (s : State) (die : Nat) (e : TlbEntry) : State :=
  ({ s with dieTlb := Assoc.set [] s.dieTlb die (tlbAdd (Assoc.get [] s.dieTlb die) e 16384) } : State).clearPoison
    (.tlb die 32 e.asid e.vbase)

/-- The result of the walk that an access of a core started on a miss is kept in the TLBs of the die and the core; a fault
is cached in neither (R251). -/
def State.keepWalk (s : State) (die core ctx va : Nat) : State :=
  match Assoc.find s.ctxs ctx with
  | none => s
  | some c =>
    if (s.tlbFind die core c.asid va).isSome then s
    else match pageWalk s c.asid c.root va walkLevels with
      | .ok e => (s.keepDie die e).keepCore die core e
      | .error _ => s

/-! ### The address map (R242 to R247) -/

/-- Why an access is refused: the address fate, the alignment fate, or a translation cause. -/
inductive Refuse where
  | address | alignment
  | translation (cause : Nat)
  deriving DecidableEq, Repr

/-- The region of R242 an address lies in: 0 translated, 1 to 3 the windows, 4 none. -/
def regionOf (va : Nat) : Nat :=
  let hi := va / 2 ^ 48
  if hi < 0xFF0 then 0 else if hi == 0xFF0 then 1 else if hi == 0xFF1 then 2 else if hi == 0xFF2 then 3 else 4

/-- The part of the core-local window an offset lies in (R243), with the offset inside it. -/
def coreLocal (tt : TaskType) (off : Nat) : Except Refuse Place :=
  if off < 0x100000 then (if off < 32768 * tt.spd then .ok (.spad off) else .error .address)
  else if off < 0x140000 then
    (if off - 0x100000 < 8192 * tt.accd then .ok (.acc (off - 0x100000)) else .error .address)
  else if off < 0x148000 then (if off - 0x140000 < 4096 * tt.mdd then .ok (.md (off - 0x140000)) else .error .address)
  else .error .address

/-- The place an address names for a task, or why it is refused (R242 to R252). -/
def State.resolve (s : State) (t : Task) (va : Nat) (need : Need) : Except Refuse Place :=
  match regionOf va with
  | 0 =>
    match s.translate t.die t.core t.ctx va need with
    | .ok (pa, st) => .ok (.phys pa st)
    | .error c => .error (.translation c)
  | 1 => coreLocal t.tt (va % 2 ^ 48)
  | 2 => if va % 2 ^ 48 < t.tt.clsd * 2 ^ 20 then .ok (.cluster (va % 2 ^ 48)) else .error .address
  | 3 =>
    let d := match Assoc.find s.ctxs t.ctx with
      | some c => c.stripe
      | none => 0
    if va % 2 ^ 48 < d * 2 ^ 20 then .ok (.stripe (va % 2 ^ 48)) else .error .address
  | _ => .error .address

/-- The physical address behind a virtual one of a context, for the hub. -/
def State.hubPa (s : State) (ctx va : Nat) (need : Need) : Option Nat :=
  if regionOf va != 0 then none
  else match s.translate 8 0 ctx va need with
    | .ok (pa, _) => some pa
    | .error _ => none

/-- The key of a launch's allocation in the cluster of a core (R246). -/
def clusterKey (die core lr : Nat) : Nat := (8 * die + core / 4) * 4096 + lr

/-- The key of a context's striped allocation on a die (R247). -/
def stripeKey (die ctx : Nat) : Nat := die * 65536 + ctx

/-- The 64-byte sector a place lies in, as a location (R373); host memory has none. -/
def sectorOf (tid : Nat) (t : Task) : Place → Option Loc
  | .spad o => some (.scratch tid (o / 64 * 64))
  | .acc o => some (.acc tid (o / 64 * 8))
  | .md o => some (.md tid (o / 64 * 64))
  | .cluster o => some (.cluster t.die (t.core / 4) t.lr (o / 64 * 64))
  | .stripe o => some (.stripe t.die t.ctx (o / 64 * 64))
  | .phys pa _ => if isHostPa pa then none else some (.hbm (pa / 64 * 64))

/-! ### Monitors (R328, R329) -/

/-- Record a wake in a monitor armed on a sector, unless an earlier reason is still there. -/
def Monitor.wake (m : Monitor) (l : Loc) (reason : Nat) : Monitor :=
  if m.sector == some l && m.reason == 0 then { m with reason := reason } else m

/-- A write to a sector wakes every monitor armed on it (R329 event 1). -/
def State.wrote (s : State) (l : Loc) : State :=
  { s with tasks := s.tasks.map fun e => (e.1, { e.2 with mon := e.2.mon.wake l 1 }) }

/-- Eviction or invalidation of a line in a core's L1 wakes that core's monitors (R329 event 2). -/
def State.evicted (s : State) (ck : Nat) (l : Loc) : State :=
  { s with tasks := s.tasks.map fun e =>
      if 32 * e.2.die + e.2.core == ck then (e.1, { e.2 with mon := e.2.mon.wake l 2 }) else e }

/-! ### The L1 caches (R253 to R256) -/

/-- An invalid sector. -/
def L1Sector.empty : L1Sector := { valid := false, dirty := false, streaming := false, data := [] }

/-- The sector of a line an address names. -/
def L1Line.sector (l : L1Line) (pa : Nat) : L1Sector := if pa / 64 % 2 == 0 then l.s0 else l.s1

/-- Replace the sector of a line an address names. -/
def L1Line.setSector (l : L1Line) (pa : Nat) (x : L1Sector) : L1Line :=
  if pa / 64 % 2 == 0 then { l with s0 := x } else { l with s1 := x }

/-- A poison mark of a core's own copy of a sector, as a location. -/
def l1Loc (ck pa : Nat) : Loc := .l1 (ck / 32) (ck % 32) (pa / 64 * 64)

/-- Write one sector of a core's line back, when it is a dirty streaming sector; a coherent one is current in memory. The
poison mark of the copy goes with its data (R373). -/
def State.writeBackSector (s : State) (ck line half : Nat) (x : L1Sector) : State :=
  if x.valid && x.dirty && x.streaming then
    let pa := 128 * line + 64 * half
    let s := s.physWrite pa (readBytes x.data 0 64)
    match s.poisonAt (l1Loc ck pa) with
    | some c => s.setPoison (.hbm pa) c
    | none => s.clearPoison (.hbm pa)
  else s

/-- Write back both sectors of a core's line. -/
def State.writeBackLine (s : State) (ck : Nat) (l : L1Line) : State :=
  (s.writeBackSector ck l.line 0 l.s0).writeBackSector ck l.line 1 l.s1

/-- The lines of a core's L1, most recently used first. -/
def State.lines (s : State) (ck : Nat) : List L1Line := Assoc.get [] s.l1 ck

/-- Replace the lines of a core's L1. -/
def State.setLines (s : State) (ck : Nat) (ls : List L1Line) : State := { s with l1 := Assoc.set [] s.l1 ck ls }

/-- The line of a core's L1 that holds an address. -/
def State.lineOf (s : State) (ck pa : Nat) : Option L1Line := (s.lines ck).find? fun l => l.line == pa / 128

/-- Drop one line from a core's L1, after its write-back. -/
def State.evictLine (s : State) (ck : Nat) (l : L1Line) : State :=
  let s := (s.writeBackLine ck l).setLines ck ((s.lines ck).filter fun x => x.line != l.line)
  let s := (s.clearPoison (l1Loc ck (128 * l.line))).clearPoison (l1Loc ck (128 * l.line + 64))
  (s.evicted ck (.hbm (128 * l.line))).evicted ck (.hbm (128 * l.line + 64))

/-- Room for a line: when all 12 ways of its set hold lines, the least recently used one leaves (R253). -/
def State.makeRoom (s : State) (ck pa : Nat) : State :=
  let set := (s.lines ck).filter fun l => l.line % 256 == pa / 128 % 256
  match set.getLast? with
  | some l => if 12 ≤ set.length then s.evictLine ck l else s
  | none => s

/-- Invalidate one sector of a core's L1 without writing it back: a line that keeps its other sector keeps its place among the
least recently used ones (R253). -/
def State.dropSector (s : State) (ck pa : Nat) : State :=
  match s.lineOf ck pa with
  | none => s
  | some l =>
    if !(l.sector pa).valid then s
    else
      let l' := l.setSector pa L1Sector.empty
      let ls := (s.lines ck).map fun x => if x.line == l.line then l' else x
      let s := s.setLines ck (ls.filter fun x => x.line != l.line || x.s0.valid || x.s1.valid)
      (s.clearPoison (l1Loc ck pa)).evicted ck (.hbm (pa / 64 * 64))

/-- Write back and invalidate one sector of a core's L1. -/
def State.flushSector (s : State) (ck pa : Nat) : State :=
  match s.lineOf ck pa with
  | none => s
  | some l => (s.writeBackSector ck (pa / 128) (pa / 64 % 2) (l.sector pa)).dropSector ck pa

/-- Write back one sector of a core's L1 and keep it clean. -/
def State.cleanSector (s : State) (ck pa : Nat) : State :=
  match s.lineOf ck pa with
  | none => s
  | some l =>
    let x := l.sector pa
    let s := s.writeBackSector ck (pa / 128) (pa / 64 % 2) x
    s.setLines ck ((s.lines ck).map fun y => if y.line == l.line then y.setSector pa { x with dirty := false } else y)

/-- Whether the hub holds a snoop for a die: it then wakes the die's link (R379). -/
def Die.snoopDue (x : Die) : Bool := !x.snoops.isEmpty

/-- A snoop of a core's sector. The hub holds one for a die whose link sleeps, until the link wakes (R379). -/
def State.snoopCore (s : State) (ck pa : Nat) : State :=
  let x := s.die (ck / 32)
  if x.linkAsleep then
    { s with dies := Assoc.put s.dies (ck / 32) { x with snoops := x.snoops ++ [(ck, pa)] } }
  else s.dropSector ck pa

/-- A link is awake: the snoops and recalls the hub held for its die are done (R259, R379). -/
def State.wakeLink (s : State) (d : Nat) : State :=
  let x := s.die d
  x.snoops.foldl (fun s e => s.flushSector e.1 e.2)
    { s with dies := Assoc.put s.dies d { x with linkAsleep := false, snoops := [] } }

/-- Invalidate a sector in every L1 but one: the directory grants a line to one writer (R255). It does not track a sector that an
L1 holds as streaming memory, which stays (R256). -/
def State.snoop (s : State) (pa : Nat) (keep : Option Nat) : State :=
  (s.l1.map (·.1)).foldl (fun s ck =>
    if keep == some ck then s
    else match s.lineOf ck pa with
      | some l => if (l.sector pa).valid && !(l.sector pa).streaming then s.snoopCore ck pa else s
      | none => s) s

/-- A sector that a core's L1 holds under the other memory type leaves it first: a dirty streaming one is written back
(DESIGN CHOICE, assumption 53: the spec gives two types to no sector). -/
def State.retype (s : State) (ck pa : Nat) (streaming : Bool) : State :=
  match s.lineOf ck pa with
  | none => s
  | some l =>
    let x := l.sector pa
    if x.valid && x.streaming != streaming then
      let s := s.writeBackSector ck (pa / 128) (pa / 64 % 2) x
      (s.setLines ck ((s.lines ck).map fun y => if y.line == l.line then y.setSector pa L1Sector.empty else y)).clearPoison
        (l1Loc ck pa)
    else s

/-- Bring a sector into a core's L1 and move its line to the front (R253). `fill` is false for a store of a whole
sector. A poison mark of the memory comes with the data (R373). -/
def State.allocate (s : State) (ck asid pa : Nat) (streaming fill : Bool) : State :=
  let s := s.retype ck pa streaming
  let s := match s.lineOf ck pa with
    | some _ => s
    | none =>
      let s := s.makeRoom ck pa
      s.setLines ck ({ line := pa / 128, asid := asid, s0 := L1Sector.empty, s1 := L1Sector.empty } :: s.lines ck)
  match s.lineOf ck pa with
  | none => s
  | some l =>
    let x := l.sector pa
    let filled := !x.valid && streaming && fill
    let x := if x.valid then x else
      { valid := true, dirty := false, streaming := streaming,
        data := if filled then writeBytes [] 0 (s.physRead (pa / 64 * 64) 64) else [] }
    let s := s.setLines ck (l.setSector pa x :: (s.lines ck).filter fun y => y.line != l.line)
    match if filled then s.poisonAt (.hbm (pa / 64 * 64)) else none with
    | some c => s.setPoison (l1Loc ck pa) c
    | none => s

/-- Make a sector dirty for an ASID: another context's dirty sectors of the line are written back first (R254). -/
def State.dirtySector (s : State) (ck asid pa : Nat) (f : L1Sector → L1Sector) : State :=
  match s.lineOf ck pa with
  | none => s
  | some l =>
    let foreign := l.asid != asid && (l.s0.dirty || l.s1.dirty)
    let s := if foreign then s.writeBackLine ck l else s
    let l := if foreign then { l with s0 := { l.s0 with dirty := false }, s1 := { l.s1 with dirty := false } } else l
    let l := { l with asid := asid }
    let l := l.setSector pa { f (l.sector pa) with dirty := true }
    s.setLines ck (l :: (s.lines ck).filter fun y => y.line != l.line)

/-- Read within one sector of HBM5 through a core's L1. -/
def State.cachedRead (s : State) (ck asid pa n : Nat) (streaming : Bool) : List Byte × State :=
  let s := s.allocate ck asid pa streaming true
  if streaming then
    match s.lineOf ck pa with
    | some l => (readBytes (l.sector pa).data (pa % 64) n, s)
    | none => (s.physRead pa n, s)
  else (s.physRead pa n, s)

/-- A coherent store to part of a sector whose copy is poisoned: the mark goes with the data, which is current in memory
(R373, R377). -/
def State.carryMark (s : State) (ck pa : Nat) : State :=
  match s.poisonAt (l1Loc ck pa) with
  | some c => s.setPoison (.hbm (pa / 64 * 64)) c
  | none => s

/-- Store within one sector of HBM5 through a core's L1. -/
def State.cachedWrite (s : State) (ck asid pa : Nat) (bs : List Byte) (streaming : Bool) : State :=
  let s := if streaming then s else s.snoop pa (some ck)
  let s := s.allocate ck asid pa streaming (decide (bs.length < 64))
  let s := s.dirtySector ck asid pa fun x => if streaming then { x with data := writeBytes x.data (pa % 64) bs } else x
  let s := if streaming then s else s.physWrite pa bs
  let s := if bs.length == 64 then (if streaming then s else s.clearPoison (.hbm (pa / 64 * 64))).clearPoison (l1Loc ck pa)
    else if streaming then s else s.carryMark ck pa
  s.wrote (.hbm (pa / 64 * 64))

/-- Store within one sector of physical memory past every L1: engines, landings and the host (R255, R256, R405). -/
def State.uncachedWrite (s : State) (pa : Nat) (bs : List Byte) (streaming : Bool) : State :=
  let s := if streaming || isHostPa pa then s else s.snoop pa none
  let s := s.physWrite pa bs
  if isHostPa pa then s
  else
    let s := if bs.length == 64 then s.clearPoison (.hbm (pa / 64 * 64)) else s
    s.wrote (.hbm (pa / 64 * 64))

/-! ### Access to a place -/

/-- Update a task. -/
def State.setTask (s : State) (tid : Nat) (t : Task) : State := { s with tasks := Assoc.put s.tasks tid t }

/-- Change a listed task. -/
def State.modTask (s : State) (tid : Nat) (f : Task → Task) : State :=
  { s with tasks := Assoc.modify s.tasks tid f }

/-- The tile of a task. -/
def Task.tile (t : Task) (n : Nat) : Tile := Assoc.get Tile.start t.tiles n

/-- Replace a tile of a task. -/
def Task.setTile (t : Task) (n : Nat) (x : Tile) : Task := { t with tiles := Assoc.set Tile.start t.tiles n x }

/-- The mantissa words of a task's tiles as bytes, at an offset of the accumulator region (R204, R243). -/
def Task.accRead (t : Task) (off n : Nat) : List Byte :=
  (List.range n).map fun k =>
    let o := off + k
    BitVec.ofNat 8 ((Assoc.get 0 (t.tile (o / 8192)).m (o % 8192 / 8)).toNat / 2 ^ (8 * (o % 8)))

/-- Store aligned 64-bit mantissa words. -/
def Task.accWrite (t : Task) (off : Nat) (ws : List Word) : Task :=
  match ws with
  | [] => t
  | w :: r =>
    let x := t.tile (off / 8192)
    Task.accWrite (t.setTile (off / 8192) { x with m := Assoc.set 0 x.m (off % 8192 / 8) w }) (off + 8) r

/-- The ASID of a task's context. -/
def State.asidOf (s : State) (ctx : Nat) : Nat :=
  match Assoc.find s.ctxs ctx with
  | some c => c.asid
  | none => 0

/-- Read bytes of one sector at a place; `cached` for accesses that pass through the L1 (R253). -/
def State.readPlace (s : State) (t : Task) (pl : Place) (n : Nat) (cached : Bool) : List Byte × State :=
  match pl with
  | .spad o => (readBytes t.spad o n, s)
  | .acc o => (t.accRead o n, s)
  | .md o => (readBytes t.md o n, s)
  | .cluster o => (readBytes (Assoc.get [] s.cluster (clusterKey t.die t.core t.lr)) o n, s)
  | .stripe o => (readBytes (Assoc.get [] s.stripes (stripeKey t.die t.ctx)) o n, s)
  | .phys pa st =>
    if cached && !isHostPa pa then s.cachedRead (32 * t.die + t.core) (s.asidOf t.ctx) pa n st else (s.physRead pa n, s)

/-- Store bytes of one sector at a place of a task. -/
def State.writePlace (s : State) (tid : Nat) (pl : Place) (bs : List Byte) (cached : Bool) : State :=
  match Assoc.find s.tasks tid with
  | none => s
  | some t =>
    match pl with
    | .phys pa st =>
      if cached && !isHostPa pa then s.cachedWrite (32 * t.die + t.core) (s.asidOf t.ctx) pa bs st
      else s.uncachedWrite pa bs st
    | _ =>
      let s := match pl with
        | .spad o => s.setTask tid { t with spad := writeBytes t.spad o bs }
        | .acc o => s.setTask tid (t.accWrite o (wordsOf bs (bs.length / 8)))
        | .md o => s.setTask tid { t with md := writeBytes t.md o bs }
        | .cluster o =>
          let k := clusterKey t.die t.core t.lr
          { s with cluster := Assoc.set [] s.cluster k (writeBytes (Assoc.get [] s.cluster k) o bs) }
        | .stripe o =>
          let k := stripeKey t.die t.ctx
          { s with stripes := Assoc.set [] s.stripes k (writeBytes (Assoc.get [] s.stripes k) o bs) }
        | .phys _ _ => s
      match sectorOf tid t pl with
      | none => s
      | some l => (if bs.length == 64 then s.clearPoison l else s).wrote l

/-- The pieces of an access: address and length, each inside one 64-byte sector. -/
def sectors (fuel va n : Nat) : List (Nat × Nat) :=
  match fuel with
  | 0 => []
  | fuel + 1 =>
    if n == 0 then []
    else
      let k := min n (64 - va % 64)
      (va, k) :: sectors fuel (va + k) (n - k)

/-- Why a multi-sector access of a task stops, with the first failing address. -/
structure Stop where
  why : Refuse
  addr : Nat
  deriving DecidableEq, Repr

/-- Read `n` bytes at a virtual address of a task. -/
def State.readVa (s : State) (t : Task) (va n : Nat) (need : Need) (cached : Bool) :
    Except Stop (List Byte × State) :=
  (sectors (n / 64 + 2) va n).foldl (fun acc e =>
    match acc with
    | .error e => .error e
    | .ok (bs, s) =>
      match s.resolve t e.1 need with
      | .error w => .error ⟨w, e.1⟩
      | .ok pl =>
        let (b, s) := s.readPlace t pl e.2 cached
        .ok (bs ++ b, s)) (.ok ([], s))

/-- Check that every sector of a range is accessible. -/
def State.checkVa (s : State) (t : Task) (va n : Nat) (need : Need) : Except Stop Unit :=
  (sectors (n / 64 + 2) va n).foldl (fun acc e =>
    match acc with
    | .error e => .error e
    | .ok () =>
      match s.resolve t e.1 need with
      | .error w => .error ⟨w, e.1⟩
      | .ok _ => .ok ()) (.ok ())

/-- Store bytes at a virtual address of a task; every sector has been checked. -/
def State.writeVa (s : State) (tid va : Nat) (bs : List Byte) (cached : Bool) : State :=
  ((sectors (bs.length / 64 + 2) va bs.length).foldl (fun (acc : State × List Byte) e =>
    match Assoc.find acc.1.tasks tid with
    | none => acc
    | some t =>
      match acc.1.resolve t e.1 .write with
      | .error _ => (acc.1, acc.2.drop e.2)
      | .ok pl => (acc.1.writePlace tid pl (acc.2.take e.2) cached, acc.2.drop e.2)) (s, bs)).1

/-- Whether a core's L1 holds its own bytes of a sector: a valid streaming one. -/
def State.ownBytes (s : State) (ck pa : Nat) : Bool :=
  match s.lineOf ck pa with
  | some l => (l.sector pa).valid && (l.sector pa).streaming
  | none => false

/-- The array code a task meets when it reads a place through its L1: the mark of its core's own copy, or of the place when
the core has no bytes of its own there. -/
def State.poisonSeen (s : State) (tid : Nat) (t : Task) (pl : Place) : Option Nat :=
  match pl with
  | .phys pa st =>
    let ck := 32 * t.die + t.core
    match s.poisonAt (l1Loc ck pa) with
    | some c => some c
    | none => if st && s.ownBytes ck pa then none else (sectorOf tid t pl).bind s.poisonAt
  | _ => (sectorOf tid t pl).bind s.poisonAt

/-- The first poisoned sector of a range a task reads through its L1: array code and address. -/
def State.poisonSeenIn (s : State) (tid : Nat) (t : Task) (va n : Nat) : Option (Nat × Nat) :=
  (sectors (n / 64 + 2) va n).findSome? fun e =>
    match s.resolve t e.1 .read with
    | .error _ => none
    | .ok pl => (s.poisonSeen tid t pl).map fun c => (c, e.1)

/-- The first poisoned sector of a range read by a task: array code and address. -/
def State.poisonIn (s : State) (tid : Nat) (t : Task) (va n : Nat) (need : Need) : Option (Nat × Nat) :=
  (sectors (n / 64 + 2) va n).findSome? fun e =>
    match s.resolve t e.1 need with
    | .error _ => none
    | .ok pl => (sectorOf tid t pl).bind fun l => (s.poisonAt l).map fun c => (c, e.1)

end Sys2Proof.Machine
end

