-- ==== Sys2Proof/Machine/Seqs.lean ====
section
/-! DEFINITION. A task's sequencers: their registers (R116, R123), pending writes and their landing (R149), and stopping at
an instruction boundary (R368). -/

namespace Sys2Proof

/-- The size of a sequencer's instructions in bytes (R113). -/
def Seq.size : Seq → Nat
  | .c => 8
  | _ => 4

/-- The four sequencers, in the order of their codes. -/
def Seq.all : List Seq := [.k, .l, .w, .c]

end Sys2Proof

namespace Sys2Proof.Machine

/-! ### Sequencers and registers -/

/-- A sequencer of a task. -/
def Task.sq (t : Task) : Seq → SeqState
  | .k => t.kq | .l => t.lq | .w => t.wq | .c => t.cq

/-- Replace a sequencer of a task. -/
def Task.setSq (t : Task) (q : Seq) (x : SeqState) : Task :=
  match q with
  | .k => { t with kq := x }
  | .l => { t with lq := x }
  | .w => { t with wq := x }
  | .c => { t with cq := x }

/-- Change a sequencer of a task. -/
def Task.modSq (t : Task) (q : Seq) (f : SeqState → SeqState) : Task := t.setSq q (f (t.sq q))

/-- Change a sequencer of a listed task. -/
def State.modSq (s : State) (tid : Nat) (q : Seq) (f : SeqState → SeqState) : State := s.modTask tid (·.modSq q f)

/-- A scalar register by its code; x0 reads as 0 (R116). -/
def SeqState.regAt (x : SeqState) (code : Nat) : Word := if code = 0 then 0 else Assoc.get 0 x.regs code

/-- Write a scalar register by its code; a write to x0 is discarded (R116). -/
def SeqState.setReg (x : SeqState) (code : Nat) (v : Word) : SeqState :=
  if code = 0 then x else { x with regs := Assoc.set 0 x.regs code v }

/-! ### Landing (R149) -/

/-- The lanes of `new` where the mask is set, and of `old` elsewhere (R173). -/
def mergeLanes (mask : Mask) (old new : VReg) : VReg :=
  if mask = BitVec.allOnes 1024 then new
  else if mask = 0 then old
  else Assoc.ofList 0 ((List.range 1024).zipWith (fun k (p : BitVec 32 × BitVec 32) => if mask.getLsbD k then p.2 else p.1)
    ((Assoc.dense 0 old 0 1024).zip (Assoc.dense 0 new 0 1024))) 0

/-- The bits of `new` where the mask is set, and of `old` elsewhere. -/
def mergeBits (mask old new : Mask) : Mask := (old &&& ~~~mask) ||| (new &&& mask)

/-- A vector register by its physical number. -/
def Task.vreg (t : Task) (phys : Nat) : VReg := Assoc.get [] t.v phys

/-- A predicate register; p0 reads as all lanes true (R116). -/
def Task.preg (t : Task) (n : Nat) : Mask := if n = 0 then BitVec.allOnes 1024 else Assoc.get 0 t.p n

/-- Apply a write that lands. -/
def Task.apply (t : Task) (q : Seq) : Late → Task
  | .sreg code v => t.modSq q (·.setReg code v)
  | .vreg phys mask data => { t with v := Assoc.set [] t.v phys (mergeLanes mask (t.vreg phys) data) }
  | .preg n mask b => if n = 0 then t else { t with p := Assoc.set 0 t.p n (mergeBits mask (t.preg n) b) }
  | .sq port id op =>
    { t with storePorts := Assoc.modify t.storePorts port fun es =>
        es.map fun e => if e.id == id then { e with op := some op } else e }

/-- Put a pending write in the list, behind those that land no later (R149). -/
def insertLate (l : List LateWrite) (w : LateWrite) : List LateWrite :=
  l.takeWhile (fun x => x.land ≤ w.land) ++ w :: l.dropWhile (fun x => x.land ≤ w.land)

/-- Pend a write on a sequencer, `lat` cycles from its present issue-clock cycle. -/
def SeqState.pend (x : SeqState) (lat : Nat) (w : Late) : SeqState :=
  { x with late := insertLate x.late { land := x.clk + lat, what := w } }

/-- Whether an interlocked result lands by some cycle. -/
def Ilk.due (i : Ilk) (clk : Nat) : Bool :=
  match i.land with
  | some c => decide (c ≤ clk)
  | none => false

/-- Land the interlocked results whose stated cycle has come (R277). -/
def SeqState.landIlk (x : SeqState) : SeqState :=
  (x.ilk.filter (·.due x.clk)).foldl (fun y i => y.setReg i.code (i.val.getD 0))
    { x with ilk := x.ilk.filter fun i => !i.due x.clk }

/-- Land every write of a sequencer whose cycle has come. -/
def Task.land (t : Task) (q : Seq) : Task :=
  let x := t.sq q
  let due := x.late.takeWhile fun w => w.land ≤ x.clk
  (due.foldl (fun t w => t.apply q w.what) (t.setSq q { x with late := x.late.drop due.length })).modSq q (·.landIlk)

/-! ### Stopping (R368) -/

/-- A sequencer's wait ended without effect (R368 step 2). -/
def SeqState.stopped (x : SeqState) : SeqState :=
  { x with wait := none, waited := 0, hung := false, atIssue := none, words := none, zero := none }

/-- A `wqpop` for which the hub has removed an entry is not abandoned: it completes, its write pending (R169). -/
def Task.completePop (t : Task) : Task :=
  match t.popped with
  | some (code, stall, v) =>
    let x := t.kq
    let y := { x with pc := x.pc + 4, clk := x.clk + 1, stall := stall }
    { t with popped := none, kq := if code = 0 then y else y.pend 0 (.sreg code v) }
  | none => t

/-- A synchronous `mma` in progress is not abandoned either: its product has issued and runs on, and the C-seq's boundary is
the one after it (R223). -/
def Task.detachMma (t : Task) : Task :=
  match t.sync with
  | some m =>
    if m.detached then t
    else { t with sync := some { m with detached := true },
                  cq := { t.cq with pc := t.cq.pc + 8, clk := t.cq.clk + 1, stall := m.stall } }
  | none => t

/-- Every sequencer of a task stops at its next instruction boundary (R368 steps 1 and 2). -/
def Task.stopSeqs (t : Task) : Task :=
  let t := t.completePop.detachMma
  { t with kq := t.kq.stopped, lq := t.lq.stopped, wq := t.wq.stopped, cq := t.cq.stopped }

end Sys2Proof.Machine
end

