-- ==== Sys2Proof/Machine/Num.lean ====
section
/-! DEFINITION. Number formats and conversion: chapter "Describing numbers: formats bit by bit" (R24 to R45). Values
are held exactly, as a sign and a magnitude `m · 2 ^ e`, and narrowed only by `convert`. -/

namespace Sys2Proof

/-- An exact real value, an infinity or NaN. `fin neg 0 _` is the zero of that sign. -/
inductive Ext where
  | nan
  | inf (neg : Bool)
  | fin (neg : Bool) (m : Nat) (e : Int)
  deriving DecidableEq, Repr

/-- Zero of positive sign. -/
def Ext.zero : Ext := .fin false 0 0

/-- `m · 2 ^ k` rounded down to an integer. -/
def scaleDown (m : Nat) (k : Int) : Nat := if 0 ≤ k then m * 2 ^ k.toNat else m / 2 ^ (-k).toNat

/-- Two magnitudes brought to their lower exponent. -/
def align (m₁ : Nat) (e₁ : Int) (m₂ : Nat) (e₂ : Int) : Nat × Nat × Int :=
  let e := min e₁ e₂
  (m₁ * 2 ^ (e₁ - e).toNat, m₂ * 2 ^ (e₂ - e).toNat, e)

/-- The exponent of the leading bit of a nonzero magnitude. -/
def topExp (m : Nat) (e : Int) : Int := (Nat.log2 m : Int) + e

/-- The fraction width, bias and largest finite magnitude code of the layouts of R26. -/
def NumType.layout : NumType → Option (Nat × Int × Nat)
  | .f32 => some (23, 127, 0x7F7FFFFF)
  | .bf16 => some (7, 127, 0x7F7F)
  | .f16 => some (10, 15, 0x7BFF)
  | .e5m2 => some (2, 15, 0x7B)
  | .e4m3 => some (3, 7, 0x7E)
  | .e2m1 => some (1, 1, 0x7)
  | _ => none

/-- Whether a format of R26 has infinities. -/
def NumType.hasInf (t : NumType) : Bool := t == .f32 || t == .bf16 || t == .f16 || t == .e5m2

/-- The canonical NaN of a format: R26, 0x80 for mk8 (R29), 0xFF for e8m0 (R28), +0 for e2m1 (R42). -/
def NumType.nanCode : NumType → Nat
  | .f32 => 0x7FC00000 | .bf16 => 0x7FC0 | .f16 => 0x7E00 | .e5m2 => 0x7E | .e4m3 => 0x7F | .mk8 => 0x80
  | .e8m0 => 0xFF | _ => 0

/-- The code of an infinity, without its sign (R26). -/
def NumType.infCode : NumType → Nat
  | .f32 => 0x7F800000 | .bf16 => 0x7F80 | .f16 => 0x7C00 | .e5m2 => 0x7C | _ => 0

/-- Whether a format is signed two's complement (R31). -/
def NumType.isSInt (t : NumType) : Bool := t == .i32 || t == .i16 || t == .i8 || t == .i4 || t == .i2
/-- Whether a format is unsigned (R31). -/
def NumType.isUInt (t : NumType) : Bool := t == .n32 || t == .n16 || t == .n8 || t == .n4 || t == .n2
/-- Whether a format holds integers. -/
def NumType.isInt (t : NumType) : Bool := t.isSInt || t.isUInt

/-- The value of an integer. -/
def Ext.ofInt (x : Int) : Ext := .fin (x < 0) x.natAbs 0

/-- The length of the leading run of a 7-bit mk8 magnitude code, and whether it is of ones (R29). -/
def mk8Run (c : Nat) : Bool × Nat :=
  let one := bitAt c 6
  (one, ((List.range 7).takeWhile fun k => bitAt c (6 - k) == one).length)

/-- The magnitude of a nonzero mk8 magnitude code (R29, R30). -/
def mk8Mag (c : Nat) : Nat × Int :=
  let (one, l) := mk8Run c
  let k := 6 - l
  let exp : Int := if one then (l : Int) - 1 else -(l : Int)
  (2 ^ k + c % 2 ^ k, exp - k)

/-- The value a code stands for (R26 to R31). An fxa code is taken at exponent 0. -/
def valOf (t : NumType) (code : Nat) : Ext :=
  match t with
  | .e8m0 => if code % 256 == 255 then .nan else .fin false 1 ((code % 256 : Nat) - 127)
  | .mk8 =>
    let c := code % 128
    if c == 0 then (if bitAt code 7 then .nan else .zero) else .fin (bitAt code 7) (mk8Mag c).1 (mk8Mag c).2
  | .fxa => .ofInt (signed 64 code)
  | _ =>
    match t.layout with
    | some (f, bias, maxc) =>
      let w := t.width
      let neg := bitAt code (w - 1)
      let c := code % 2 ^ (w - 1)
      if maxc < c then (if t.hasInf && c == t.infCode then .inf neg else .nan)
      else
        let e := c / 2 ^ f
        if e == 0 then .fin neg (c % 2 ^ f) (1 - bias - f)
        else .fin neg (2 ^ f + c % 2 ^ f) ((e : Int) - bias - f)
    | none => if t.isSInt then .ofInt (signed t.width code) else .ofInt (code % 2 ^ t.width : Nat)

/-- The lower candidate of a nonzero magnitude in the IEEE-style layouts, as a code, with the part of the gap to the
next candidate that the magnitude lies above it, as a fraction (R40). -/
def candLayout (f : Nat) (bias : Int) (m : Nat) (e : Int) : Nat × Nat × Nat :=
  let ex := max (topExp m e) (1 - bias)
  let q := ex - f
  let (v, u, _) := align m e 1 q
  ((ex + bias - 1).toNat * 2 ^ f + v / u, v % u, u)

/-- The same in mk8 (R30); above 64 the next candidate is the virtual 96 (R40). -/
def candMk8 (m : Nat) (e : Int) : Nat × Nat × Nat :=
  let x := topExp m e
  if x < -6 then
    let (v, u, _) := align m e 1 (-6)
    (0, v, u)
  else if 6 ≤ x then
    let (v, u, ex) := align m e 64 0
    let d := (scaleDown 32 (-ex))
    if v < u + d then (127, v - u, d) else (128, 0, 1)
  else if 5 ≤ x then
    let (v, u, _) := align m e 32 0
    (126, v - u, u)
  else
    let k := if 0 ≤ x then (5 - x).toNat else (6 + x).toNat
    let q := x - k
    let (v, u, _) := align m e 1 q
    let base := if 0 ≤ x then (2 ^ (x.toNat + 1) - 1) * 2 ^ (6 - x.toNat) else 2 ^ k
    (base + (v / u - 2 ^ k), v % u, u)

/-- The same in e8m0 (R43). Magnitudes below 2^−127 have no lower candidate; both choices give the code 0x00. -/
def candE8m0 (m : Nat) (e : Int) : Nat × Nat × Nat :=
  let x := topExp m e
  if x < -127 then (0, 0, 1)
  else
    let (v, u, _) := align m e 1 x
    ((x + 127).toNat, v - u, u)

/-- Whether a magnitude a fraction `r / d` above its lower candidate `c` rounds to the upper one (R36, R39, R40). -/
def roundUp (rnd : Rnd) (neg : Bool) (draw c : Nat) (bVirtual : Bool) (r d : Nat) : Bool :=
  if r == 0 then false
  else match rnd with
    | .rne => decide (d < 2 * r) || (2 * r == d && (bVirtual || c % 2 == 1))
    | .rz => false
    | .rup => !neg
    | .rdn => neg
    | .rsr => decide (draw < r * 2 ^ 32 / d)

/-- `Overflow` of R41, and of R43 for e8m0. -/
def overflowCode (t : NumType) (neg sat : Bool) : Nat :=
  let s (c : Nat) := c + (if neg then 2 ^ (t.width - 1) else 0)
  match t with
  | .e8m0 => if sat then 0xFE else 0xFF
  | .mk8 => if sat then s 127 else 0x80
  | .e4m3 => if sat then s 0x7E else 0x7F
  | .e2m1 => s 7
  | _ =>
    match t.layout with
    | some (_, _, maxc) => if sat then s maxc else s t.infCode
    | none => 0

/-- Rounding to an integer (R44 step 1). -/
def roundInt (x : Ext) (rnd : Rnd) (draw : Nat) : Int :=
  match x with
  | .fin neg m e =>
    let (v, u, _) := align m e 1 0
    let q := v / u + (if roundUp rnd neg draw (v / u) false (v % u) u then 1 else 0)
    if neg then -(q : Int) else q
  | _ => 0

/-- R44 steps 2 to 4 for the range `lo` to `hi` and the width `n`. -/
def fitInt (lo hi : Int) (n : Nat) (sat : Bool) (q : Int) : Nat :=
  if lo ≤ q ∧ q ≤ hi then wrap n q
  else if sat then wrap n (if q < lo then lo else hi)
  else wrap n q

/-- Conversion into an integer of width `n` (R44). -/
def convertInt (sgn : Bool) (n : Nat) (x : Ext) (rnd : Rnd) (sat : Bool) (draw : Nat) : Nat :=
  let lo : Int := if sgn then -(2 ^ (n - 1) : Nat) else 0
  let hi : Int := if sgn then (2 ^ (n - 1) : Nat) - 1 else (2 ^ n : Nat) - 1
  match x with
  | .nan => 0
  | .inf neg => wrap n (if neg then lo else hi)
  | x => fitInt lo hi n sat (roundInt x rnd draw)

/-- `Convert` of R40 to R44: any exact value into the code of a format. For fxa the target exponent is 0; callers
scale by 2^−X first (R31). -/
def convert (t : NumType) (x : Ext) (rnd : Rnd) (sat : Bool) (draw : Nat) : Nat :=
  let fl (maxc : Nat) (cand : Nat → Int → Nat × Nat × Nat) (signed : Bool) : Nat :=
    match x with
    | .nan => t.nanCode
    | .inf neg => if t.hasInf then t.infCode + (if neg then 2 ^ (t.width - 1) else 0) else overflowCode t neg sat
    | .fin neg m e =>
      let s := if signed && neg then 2 ^ (t.width - 1) else 0
      if m == 0 then (if t == .mk8 then 0 else s)
      else
        let (c, r, d) := cand m e
        if maxc < c then overflowCode t neg sat
        else
          let q := if roundUp rnd (signed && neg) draw c (c == maxc) r d then c + 1 else c
          if maxc < q then overflowCode t neg sat
          else if q == 0 && t == .mk8 then 0
          else q + s
  match t with
  | .e8m0 => fl 254 candE8m0 false
  | .mk8 => fl 127 candMk8 true
  | .fxa => convertInt true 64 x rnd sat draw
  | _ =>
    match t.layout with
    | some (f, bias, maxc) => fl maxc (candLayout f bias) true
    | none => convertInt t.isSInt t.width x rnd sat draw

/-- `Round` of R7 to an exact value again: the value of the code `convert` gives. -/
def roundTo (t : NumType) (x : Ext) (rnd : Rnd) (sat : Bool) (draw : Nat) : Ext := valOf t (convert t x rnd sat draw)

/-- The negation of a value; NaN stays NaN. -/
def Ext.neg : Ext → Ext
  | .nan => .nan
  | .inf s => .inf (!s)
  | .fin s m e => .fin (!s) m e

/-- The magnitude of a value. -/
def Ext.abs : Ext → Ext
  | .nan => .nan
  | .inf _ => .inf false
  | .fin _ m e => .fin false m e

/-- A value times a power of two, exactly. -/
def Ext.scale (k : Int) : Ext → Ext
  | .fin s m e => .fin s m (e + k)
  | x => x

/-- Whether a value is a zero. -/
def Ext.isZero : Ext → Bool
  | .fin _ 0 _ => true
  | _ => false

/-- Whether the sign of a value is negative. -/
def Ext.isNeg : Ext → Bool
  | .nan => false
  | .inf s => s
  | .fin s _ _ => s

/-- The signed integer numerator of a finite value at exponent `e`, which is at most its own. -/
def numAt (s : Bool) (m : Nat) (e₀ e : Int) : Int :=
  let v : Int := (m * 2 ^ (e₀ - e).toNat : Nat)
  if s then -v else v

/-- Order of two values that are not NaN; the zeros are equal. `lt` of a NaN is false. -/
def Ext.lt : Ext → Ext → Bool
  | .nan, _ => false
  | _, .nan => false
  | .inf a, .inf b => a && !b
  | .inf a, .fin _ _ _ => a
  | .fin _ _ _, .inf b => !b
  | .fin s₁ m₁ e₁, .fin s₂ m₂ e₂ => decide (numAt s₁ m₁ e₁ (min e₁ e₂) < numAt s₂ m₂ e₂ (min e₁ e₂))

/-- Equality of two values: false of a NaN; the zeros are equal. -/
def Ext.eq (x y : Ext) : Bool :=
  match x, y with
  | .nan, _ => false
  | _, .nan => false
  | _, _ => !x.lt y && !y.lt x

/-- Mix of R36. -/
def mix (z : Word) : Word :=
  let z := z ^^^ (z >>> 30)
  let z := z * 0xBF58476D1CE4E5B9#64
  let z := z ^^^ (z >>> 27)
  let z := z * 0x94D049BB133111EB#64
  z ^^^ (z >>> 31)

/-- RandU32 of R36, for element `e` of lane (row, col). -/
def randU32 (wid : Word) (srnd row col e : Nat) : Nat :=
  bits (mix (mix wid ^^^ BitVec.ofNat 64 (srnd * 2 ^ 32 + (64 * row + col) * 16 + e))).toNat 63 32

/-- EngDraw of R38: `q` the sequencer code, `n` the operation's number, `k` the element. -/
def engDraw (wid : Word) (q n k : Nat) : Nat :=
  bits (mix (mix (wid ^^^ 0x9E3779B97F4A7C15#64) ^^^
    BitVec.ofNat 64 (q * 2 ^ 62 + n % 2 ^ 30 * 2 ^ 32 + k % 2 ^ 32))).toNat 63 32

end Sys2Proof
end

