-- ==== Sys2Proof/Machine/Weighmaster.lean ====
section
/-! DEFINITION. The weighmaster (R60 to R72, R362, R363): precision state records, what a launch captures, host writes
and the boundary evaluation. -/

namespace Sys2Proof.Machine

/-- The key of a (layer, role). -/
def psrKey (layer role : Nat) : Nat := 8 * layer + role

/-- The PSR of a (layer, role) (R60). -/
def State.psr (s : State) (k : Nat) : Psr := Assoc.get Psr.start s.psrs k

/-- Replace a PSR. -/
def State.setPsr (s : State) (k : Nat) (p : Psr) : State := { s with psrs := Assoc.set Psr.start s.psrs k p }

/-- The width a code of WCUR names, in bits. -/
def widthOf (c : Nat) : Nat := 2 ^ (c + 1)

/-- The format entry of a PSR for a width code. -/
def Psr.entry (p : Psr) (c : Nat) : Nat :=
  match c with
  | 0 => p.map2 | 1 => p.map4 | 2 => p.map8 | _ => p.map16

/-- EN of a format entry. -/
def entryEn (e : Nat) : Bool := bitAt e 7
/-- The block code of a format entry. -/
def entryBlk (e : Nat) : Nat := bits e 6 5
/-- The type code of a format entry. -/
def entryFmt (e : Nat) : Nat := bits e 4 0

/-- The types that take a scale (R32, R34): e4m3, e5m2, e2m1, mk8 and i8. -/
def scalable (t : NumType) : Bool := t == .e4m3 || t == .e5m2 || t == .e2m1 || t == .mk8 || t == .i8

/-- Whether a format entry is valid for a width code (R61). e8m0, which no value of R69's list covers, is not an
element format (DEDUCED, assumption 8). -/
def entryValid (e c : Nat) : Bool :=
  match NumType.ofCode (entryFmt e) with
  | some t => t.width == widthOf c && (scalable t == (entryBlk e != 0)) && t != .e8m0
  | none => false

/-- `e` is not later than `el` (R64, R412). -/
def notLater (e el : BitVec 32) : Bool := !precedes el e

/-- The history entry a launch of epoch `el` captured: newest first in the list (R64). -/
def Psr.captured (p : Psr) (el : BitVec 32) : Option HistEntry := p.history.find? fun h => notLater h.epoch el

/-- The RSCL in force at an epoch (R64). -/
def Psr.rsclAt (p : Psr) (el : BitVec 32) : Nat :=
  match p.rscls.find? fun w => notLater w.1 el with
  | some w => w.2
  | none => 0x7F

/-- Whether a launch is live: from its arming to its retirement (R65). An armed or running conditional or loop node, which captures an
epoch too, counts (DEDUCED, assumption 85). -/
def LaunchRec.live (r : LaunchRec) : Bool := r.state == .armed || r.state == .running

/-- Whether a change of a PSR would push out an entry that a live launch captures (R65). -/
def State.deferred (s : State) (p : Psr) : Bool :=
  match p.history.drop 3 with
  | [] => false
  | old :: _ => s.recs.any fun e => e.2.live && p.captured e.2.epoch == some old

/-- Make the encoding of WCUR current under a new generation and record it (R63). -/
def Psr.change (p : Psr) (epoch : BitVec 32) : Psr :=
  let e := p.entry p.wcur
  let g := p.gen + 1
  { p with gen := g,
           history := ({ epoch := epoch, gen := g, fmt := entryFmt e, blk := entryBlk e, width := p.wcur } :: p.history).take 4 }

/-- A PSR as the 128 bits of R60. -/
def Psr.toNat (p : Psr) : Nat :=
  p.rscl * 2 ^ 120 + wrap 9 p.hbase * 2 ^ 111 + p.cls * 2 ^ 107 + p.clip * 2 ^ 87 + p.h * 2 ^ 83 + p.qcnt * 2 ^ 79
    + p.wmin * 2 ^ 77 + p.wcap * 2 ^ 75 + p.wcur * 2 ^ 73 + p.gen.toNat * 2 ^ 32 + p.map16 * 2 ^ 24 + p.map8 * 2 ^ 16
    + p.map4 * 2 ^ 8 + p.map2

/-- What a host write of 128 bits asks a PSR to be: the configuration fields, RSCL and HBASE (R62). GEN and QCNT are the
weighmaster's. -/
def Psr.request (p : Psr) (v : Nat) : Psr :=
  { p with rscl := bits v 127 120, hbase := signed 9 (bits v 119 111), cls := bits v 110 107, clip := bits v 106 87,
           h := bits v 86 83, wmin := bits v 78 77, wcap := bits v 76 75, wcur := bits v 74 73,
           map16 := bits v 31 24, map8 := bits v 23 16, map4 := bits v 15 8, map2 := bits v 7 0 }

/-- The checks of R62. -/
def Psr.valid (p : Psr) : Bool :=
  entryValid p.map16 3 && entryValid p.map8 2 && entryValid p.map4 1 && entryValid p.map2 0 &&
  entryEn (p.entry p.wcur) && p.wmin ≤ p.wcur && p.wcur ≤ p.wcap && p.h != 0

/-- FMT and BLK of the current encoding (R61). -/
def Psr.encoding (p : Psr) : Nat × Nat := (entryFmt (p.entry p.wcur), entryBlk (p.entry p.wcur))

/-- The key of a die's evidence for a PSR. -/
def evKey (die k : Nat) : Nat := die * 2 ^ 20 + k

/-- Two bodies of evidence of one die for one PSR together (R66). -/
def Evidence.join (a b : Evidence) : Evidence :=
  { n := if b.n.toNat < a.n.toNat then b.n else a.n, qn := if a.qn.toNat < b.qn.toNat then b.qn else a.qn,
    qc := if a.qc.toNat < b.qc.toNat then b.qc else a.qc, reports := a.reports + b.reports }

/-- Evidence enters a table. -/
def joinEvidence (m : Assoc Evidence) (key : Nat) (e : Evidence) : Assoc Evidence :=
  Assoc.put m key (match Assoc.find m key with
    | some a => a.join e
    | none => e)

/-- A governor class (R68). -/
def State.govClass (s : State) (c : Nat) : GovClass := Assoc.get GovClass.start s.classes c

/-- Replace a governor class. -/
def State.setClass (s : State) (c : Nat) (g : GovClass) : State :=
  { s with classes := Assoc.set GovClass.start s.classes c g }

/-- Take the evidence of a PSR out of the step and out of the evaluations of its class that are due. -/
def State.takeEvidence (s : State) (k cls : Nat) : Assoc Evidence × State :=
  let mine (e : Nat × Evidence) : Bool := e.1 % 2 ^ 20 == k
  let rest (m : Assoc Evidence) : Assoc Evidence := m.filter fun e => !mine e
  let g := s.govClass cls
  ((g.due.flatMap fun d => d.evidence.filter mine) ++ s.evidence.filter mine,
   ({ s with evidence := rest s.evidence } : State).setClass cls { g with due := g.due.map fun d => { d with evidence := rest d.evidence } })

/-- The place among a class's due evaluations of the one that will visit a PSR next: the first, or the second when the first has gone past
the PSR. -/
def State.nextVisit (s : State) (k cls : Nat) : Nat :=
  if s.evaluation.any fun v => v.cls == cls && !(v.psr.any fun x => decide (x < k)) then 1 else 0

/-- A PSR passes to another governor class: the reports the dies hold for it go with it, into the step of the evaluation that will visit
it, which clears them (R362). -/
def State.reclass (s : State) (k old new : Nat) : State :=
  if old == new then s
  else
    let (es, s) := s.takeEvidence k old
    let g := s.govClass new
    match g.due.drop (s.nextVisit k new) with
    | [] => { s with evidence := es.foldl (fun m e => joinEvidence m e.1 e.2) s.evidence }
    | d :: ds =>
      let d := { d with evidence := es.foldl (fun m e => joinEvidence m e.1 e.2) d.evidence }
      s.setClass new { g with due := g.due.take (s.nextVisit k new) ++ d :: ds }

/-- Apply a host PSR_WRITE now: the new state and its status, 0 Done, 8 Busy, 13 Refused (R62, R63, R65). -/
def State.psrWrite (s : State) (k v : Nat) : State × Nat :=
  let p := s.psr k
  let q := p.request v
  if !q.valid then (s, 13)
  else
    let enc := q.encoding != p.encoding
    if enc && s.deferred p then (s, 8)
    else
      let bump := enc || q.rscl != p.rscl
      let ep := if bump then s.epoch + 1 else s.epoch
      let q := if enc then { q.change ep with qcnt := 0 } else q
      let q := if q.rscl != p.rscl then { q with rscls := (ep, q.rscl) :: q.rscls } else q
      let s := { s with epoch := ep }
      (((s.setPsr k q).clearPoison (.psr (k / 8) (k % 8))).reclass k p.cls q.cls, 0)

/-! ### Evidence (R66, R67) -/

/-- A report enters a die's evidence (R66). -/
def State.report (s : State) (die k : Nat) (n qn qc : BitVec 32) : State :=
  { s with evidence := joinEvidence s.evidence (evKey die k) { n := n, qn := qn, qc := qc, reports := 1 } }

/-- Add 32 bin counts into a histogram whose bins saturate (R67, R279). -/
def addBins (h : Assoc (BitVec 32)) (c : Assoc Nat) : Assoc (BitVec 32) :=
  c.foldl (fun h e => Assoc.set 0 h e.1 (BitVec.ofNat 32 (min (2 ^ 32 - 1) ((Assoc.get 0 h e.1).toNat + e.2)))) h

/-! ### The boundary evaluation (R69) -/

/-- The exponent of a format's largest finite magnitude (R69). -/
def eMax (t : NumType) : Int :=
  match t with
  | .i2 => 0 | .n2 => 1 | .e2m1 => 2 | .i4 => 2 | .n4 => 3 | .mk8 => 6 | .i8 => 6 | .n8 => 7 | .e4m3 => 8
  | .i16 => 14 | .e5m2 => 15 | .f16 => 15 | .n16 => 15 | _ => 127

/-- Clamp to a range. -/
def clampInt (lo hi x : Int) : Int := if x < lo then lo else if hi < x then hi else x

/-- The decision of R69 on the package's evidence. `ep` is the epoch the evaluation's end begins. -/
def State.governed (s : State) (p : Psr) (n qn qc : Nat) (ep : BitVec 32) : Psr :=
  if n < qc then
    let p := { p with qcnt := 0 }
    if p.wcur < p.wcap && entryEn (p.entry (p.wcur + 1)) && !s.deferred p then
      let q : Psr := { p with wcur := p.wcur + 1 }
      q.change ep
    else p
  else if 4 * qn ≤ n then
    if p.h ≤ p.qcnt + 1 then
      if p.wmin < p.wcur && entryEn (p.entry (p.wcur - 1)) && !s.deferred p then
        let q : Psr := { p with wcur := p.wcur - 1 }
        { q.change ep with qcnt := 0 }
      else { p with qcnt := p.h }
    else { p with qcnt := p.qcnt + 1 }
  else { p with qcnt := 0 }

/-- The role scale and histogram base firmware chooses from a role histogram (R69). -/
def Psr.rescale (p : Psr) (h : Assoc (BitVec 32)) (ep : BitVec 32) : Psr :=
  let bin (j : Nat) : Nat := (Assoc.get 0 h j).toNat
  let total := ((List.range 32).map bin).sum
  if total == 0 then p
  else
    let above (j : Nat) : Nat := ((List.range 32).map fun i => if j < i then bin i else 0).sum
    let limit := p.clip * total / 2 ^ 20
    let j := ((List.range 32).find? fun j => decide (above j ≤ limit)).getD 31
    let et := p.hbase + j
    let em := eMax ((NumType.ofCode p.encoding.1).getD .bf16)
    let r := (clampInt 0 254 (et - em + 127)).toNat
    { p with rscl := r, hbase := clampInt (-256) 255 (et - 24), rscls := (ep, r) :: p.rscls }

/-- The key of a firmware bid: its value and physical die (R107). Bits [6:0] are 0: no core and no slot bids, and the spec says
nothing of them (DESIGN CHOICE, assumption 54). -/
def firmwareKey (bid die : Nat) : Nat := bid * 2 ^ 11 + (15 - die) * 2 ^ 7

/-- The bid and the physical die of a firmware key. -/
def keyBid (key : Nat) : Nat := key / 2 ^ 11
def keyDie (key : Nat) : Nat := 15 - bits key 10 7

/-- The largest of some keys; 0 for none (R107, R108). -/
def bestKey (ks : List Nat) : Nat := ks.foldl max 0

/-- The physical numbers of the working spoke dies. -/
def State.workingDies (s : State) : List Nat := (List.range 8).filter s.dieWorks

/-- Whether a number is that of a role with PSRs (R60). -/
def isRole (r : Nat) : Bool := 1 ≤ r && r ≤ 5

/-- The first PSR of a class from a key on, in ascending order of layer and role (R69). Every PSR that no write has changed is
of the reset class. -/
def State.psrFrom (s : State) (cls k : Nat) : Option Nat :=
  if cls == Psr.start.cls then
    ((List.range (2 * s.psrs.length + 16)).map (k + ·)).find? fun k =>
      k < psrKey 65536 0 && isRole (k % 8) && (s.psr k).cls == cls
  else (s.psrs.find? fun e => k ≤ e.1 && isRole (e.1 % 8) && e.2.cls == cls).map (·.1)

/-- A die's bid in one of the three rounds of a PSR: QN, QC, and 0xFFFF_FFFF - N (R69). -/
def Evidence.bid (e : Evidence) : Nat → Nat
  | 0 => e.qn.toNat
  | 1 => e.qc.toNat
  | _ => 2 ^ 32 - 1 - e.n.toNat

/-- The evaluation that runs closes the step of this evidence (R66, R69). -/
def State.closed (s : State) (v : Evaluation) : Assoc Evidence :=
  match (Assoc.get GovClass.start s.classes v.cls).due with
  | d :: _ => d.evidence
  | [] => []

/-- The keys of the round of number 62 that is pending: the working dies that hold a report for its PSR (R69). -/
def State.evidenceKeys (s : State) : List Nat :=
  match s.evaluation with
  | none => []
  | some v => match v.psr with
    | none => []
    | some k => s.workingDies.filterMap fun d =>
        (Assoc.find (s.closed v) (evKey d k)).map fun e => firmwareKey (e.bid v.wins.length) d

/-- A round of number 62 has latched a key: after the third the next PSR is visited (R69). A PSR is idle when no die bids; one
whose last bidder fails between its rounds is too, and a key that has been latched still decides when its die fails before the third
round (R70; DEDUCED, assumption 86). -/
def State.agree (s : State) (key : Nat) : State :=
  match s.evaluation with
  | none => s
  | some v => match v.psr with
    | none => s
    | some k =>
      let wins := v.wins ++ [key]
      { s with evaluation := some (
          if wins.length < 3 then { v with wins := wins }
          else { v with psr := s.psrFrom v.cls (k + 1), wins := [],
                        agreed := if wins.contains 0 then v.agreed else Assoc.put v.agreed k (wins.map keyBid) }) }

/-- The decision and the role scale of one PSR on the package's evidence; a poisoned PSR is skipped (R69, R376). -/
def State.decidePsr (s : State) (ep : BitVec 32) (k : Nat) (wins : List Nat) : State :=
  match wins, s.poisonAt (.psr (k / 8) (k % 8)) with
  | [qn, qc, m], none =>
    s.setPsr k ((s.governed (s.psr k) (2 ^ 32 - 1 - m) qn qc ep).rescale (Assoc.get [] s.roleHist k) ep)
  | _, _ => s

/-- The decisions of an evaluation whose rounds are done, in one step: the new epoch begins, and the class's role histograms are
cleared (R63, R67, R69, R70). -/
def State.decideAll (s : State) (v : Evaluation) : State :=
  let ep := s.epoch + 1
  let s := v.agreed.foldl (fun s e => s.decidePsr ep e.1 e.2) s
  { s with epoch := ep, roleHist := s.roleHist.filter fun e => (s.psr e.1).cls != v.cls }

/-- An evaluation of a class becomes due: it closes the step, whose evidence no later report joins (R66, R68, R362). -/
def State.closeStep (s : State) (c : Nat) (g : GovClass) (tid : Option Nat) : State :=
  let mine (e : Nat × Evidence) : Bool := (s.psr (e.1 % 2 ^ 20)).cls == c
  ({ s with evidence := s.evidence.filter fun e => !mine e } : State).setClass c
    { g with arrivals := 0, due := g.due ++ [{ task := tid, evidence := s.evidence.filter mine }] }

/-- Count an arrival; the one that reaches the target makes the evaluation due and names its completing task (R68). -/
def State.arrive (s : State) (c : Nat) (tid : Option Nat) : State :=
  let g := s.govClass c
  if g.target ≤ g.arrivals + 1 then s.closeStep c g tid else s.setClass c { g with arrivals := g.arrivals + 1 }

/-- A target takes effect: one at or below the arrivals counted makes an evaluation due at once (R68). -/
def State.applyTarget (s : State) (c n : Nat) : State :=
  let g := { s.govClass c with target := n, newTarget := none }
  if n ≤ g.arrivals then s.closeStep c g none else s.setClass c g

/-- Set a class's target; one written while an evaluation is due takes effect after it (R68). -/
def State.setTarget (s : State) (c n : Nat) : State :=
  let g := s.govClass c
  if g.due.isEmpty then s.applyTarget c n else s.setClass c { g with newTarget := some n }

/-- The evidence a die held is lost with it, that of the steps whose evaluation is due too (R70). -/
def State.loseEvidence (s : State) (die : Nat) : State :=
  let rest (m : Assoc Evidence) : Assoc Evidence := m.filter fun e => e.1 / 2 ^ 20 != die
  { s with evidence := rest s.evidence,
           classes := s.classes.map fun e =>
             (e.1, { e.2 with due := e.2.due.map fun x => { x with evidence := rest x.evidence } }) }

end Sys2Proof.Machine
end

