-- ==== Sys2Proof/Machine/Hub.lean ====
section
/-! DEFINITION. The command processor and the dispatcher: event records (R382 to R384), launch records and graphs (R73 to
R87), task types and placement (R91 to R104), phasers (R319 to R322) and superstep barriers (R323, R324). -/

namespace Sys2Proof.Machine

/-! ### Event records -/

/-- The fields of an event record of R382. -/
structure EventRec where
  kind : Nat
  cls : Nat
  cspace : Nat
  cause : Nat
  array : Nat
  phys : Bool
  die : Nat
  core : Nat
  slot : Nat
  lrec : Nat
  wid : Word
  addr : Nat
  info : Nat
  deriving DecidableEq, Repr

/-- A record that concerns no task. -/
def EventRec.plain (kind : Nat) : EventRec :=
  { kind := kind, cls := 0, cspace := 0, cause := 0, array := 0, phys := false, die := 8, core := 0, slot := 0,
    lrec := 0xFFF, wid := 0, addr := 0, info := 0 }

/-- The 64 bytes of a record (R382). -/
def EventRec.bytes (e : EventRec) : List Byte :=
  toBytes 64 (e.kind + e.cls * 2 ^ 44 + e.cspace * 2 ^ 52 + e.cause * 2 ^ 56 + e.array * 2 ^ 64
    + (if e.phys then 2 ^ 72 else 0) + e.slot * 2 ^ 73 + e.core * 2 ^ 75 + e.die * 2 ^ 80 + e.lrec * 2 ^ 84
    + e.wid.toNat * 2 ^ 128 + (e.addr % 2 ^ 64) * 2 ^ 192 + (e.info % 2 ^ 64) * 2 ^ 256)

/-- Whether a context's event queue has a free slot (R383). -/
def State.evqFree (s : State) (addr k : Nat) (produced : Word) : Bool :=
  let consumed := leNat (readBytes s.hostMem (addr + 256 * 2 ^ k) 8)
  decide ((produced - BitVec.ofNat 64 consumed).toNat < 2 ^ k)

/-- Write a record's bytes and its header into the slot due next (R383). -/
def State.evqWrite (s : State) (cid : Nat) (c : Ctx) (addr k : Nat) (bytes : List Byte) (kind : Nat) : State :=
  let n := c.produced.toNat
  let slot := addr + 256 * (n % 2 ^ k)
  let phase := if n / 2 ^ k % 2 == 0 then 2 ^ 63 else 0
  let body := bytes.take 248 ++ List.replicate (248 - bytes.length) 0
  { s with hostMem := writeBytes (writeBytes s.hostMem slot body) (slot + 248) (toBytes 8 (phase + kind)),
           ctxs := Assoc.put s.ctxs cid { c with produced := c.produced + 1 } }

/-- Write the KIND 9 record that is due, when a slot is free (R383). -/
def State.evqLost (s : State) (cid : Nat) : State :=
  match Assoc.find s.ctxs cid with
  | some c =>
    match c.evq with
    | some (addr, k) =>
      if c.lost != 0 && s.evqFree addr k c.produced then
        let r := { EventRec.plain 9 with info := c.lost }
        s.evqWrite cid { c with lost := 0 } addr k r.bytes 9
      else s
    | none => s
  | none => s

/-- Send a record to a context's event queue; one that finds no free slot is discarded and counted (R383). -/
def State.postBytes (s : State) (cid : Nat) (bytes : List Byte) (kind : Nat) : State :=
  let s := s.evqLost cid
  match Assoc.find s.ctxs cid with
  | some c =>
    let drop := { s with ctxs := Assoc.put s.ctxs cid { c with lost := min (2 ^ 32 - 1) (c.lost + 1) } }
    match c.evq with
    | some (addr, k) => if s.evqFree addr k c.produced then s.evqWrite cid c addr k bytes kind else drop
    | none => drop
  | none => s

/-- Send a record of R382. -/
def State.post (s : State) (cid : Nat) (e : EventRec) : State := s.postBytes cid e.bytes e.kind

/-- A KIND 8 record (R384). -/
def State.postGraph (s : State) (cid lr cause info addr : Nat) : State :=
  s.post cid { EventRec.plain 8 with cspace := 7, cause := cause, lrec := lr, info := info, addr := addr }

/-! ### Launch records (R74) -/

/-- Bits [hi:lo] of a launch record's words 0 to 27. -/
def LaunchRec.f (r : LaunchRec) (hi lo : Nat) : Nat := field (Assoc.dense 0 r.words 0 28) hi lo

def LaunchRec.kind (r : LaunchRec) : Nat := r.f 385 384
def LaunchRec.gang (r : LaunchRec) : Bool := r.f 386 386 == 1
def LaunchRec.pers (r : LaunchRec) : Bool := r.f 387 387 == 1
def LaunchRec.prio (r : LaunchRec) : Nat := r.f 390 388
def LaunchRec.gclass (r : LaunchRec) : Nat := r.f 394 391
def LaunchRec.minDie (r : LaunchRec) : Nat := r.f 398 395
def LaunchRec.maxDie (r : LaunchRec) : Nat := r.f 402 399
def LaunchRec.premask (r : LaunchRec) : Nat := r.f 410 403
def LaunchRec.na (r : LaunchRec) : Nat := r.f 515 512
def LaunchRec.nb (r : LaunchRec) : Nat := r.f 579 576
def LaunchRec.succA (r : LaunchRec) : List Nat := (List.range (min 5 r.na)).map fun j => r.f (527 + 12 * j) (516 + 12 * j)
def LaunchRec.succB (r : LaunchRec) : List Nat := (List.range (min 5 r.nb)).map fun j => r.f (591 + 12 * j) (580 + 12 * j)
def LaunchRec.ckind (r : LaunchRec) : Nat := r.f 449 448
def LaunchRec.ctgt (r : LaunchRec) : Nat := r.f 467 456
def LaunchRec.cval (r : LaunchRec) : Nat := r.f 511 480
def LaunchRec.predw (r : LaunchRec) : Nat := r.f 703 640
def LaunchRec.argp (r : LaunchRec) : Nat := r.f 127 64
def LaunchRec.tte (r : LaunchRec) : Nat := r.f 63 0
/-- Wd of R74. -/
def LaunchRec.width (r : LaunchRec) (d : Nat) : Nat := r.f (6 * d + 133) (6 * d + 128)
/-- EXTd of R74; an absent field reads 1 (R75). -/
def LaunchRec.ext (r : LaunchRec) (d : Nat) : Nat := if r.width d == 0 then 1 else r.f (32 * d + 223) (32 * d + 192)

/-- T of R75. -/
def LaunchRec.total (r : LaunchRec) : Nat := ((List.range 6).map r.ext).foldl (· * ·) 1

/-- The lowest bit of field d of a work identifier (R75). -/
def LaunchRec.fieldPos (r : LaunchRec) (d : Nat) : Nat := ((List.range d).map r.width).sum

/-- Field d of a work identifier (R75); 0 for an absent field. -/
def LaunchRec.widField (r : LaunchRec) (wid : Nat) (d : Nat) : Nat := wid / 2 ^ r.fieldPos d % 2 ^ r.width d

/-- The work identifier of the task with index `n` in ascending order (R75): field 0 is innermost. -/
def LaunchRec.widOf (r : LaunchRec) (n : Nat) : Word :=
  BitVec.ofNat 64 (((List.range 6).foldl (fun (acc : Nat × Nat) d =>
    (acc.1 + acc.2 % r.ext d * 2 ^ r.fieldPos d, acc.2 / r.ext d)) (0, n)).1)

/-- The index of a work identifier that names a task of the launch (R75). -/
def LaunchRec.indexOf (r : LaunchRec) (wid : Nat) : Option Nat :=
  let ok := (List.range 6).all fun d => decide (r.widField wid d < r.ext d)
  if ok && wid / 2 ^ r.fieldPos 6 == 0 then
    some ((List.range 6).foldl (fun (acc : Nat × Nat) d => (acc.1 + r.widField wid d * acc.2, acc.2 * r.ext d)) (0, 1)).1
  else none

/-- A launch record of the pool. -/
def State.lrec (s : State) (lr : Nat) : LaunchRec := Assoc.get LaunchRec.free s.recs lr

/-- Replace a launch record. -/
def State.setRec (s : State) (lr : Nat) (r : LaunchRec) : State := { s with recs := Assoc.set LaunchRec.free s.recs lr r }

/-- The code of STATE (R74). -/
def RecState.code : RecState → Nat
  | .free => 0 | .idle => 1 | .armed => 2 | .running => 3 | .done => 4 | .failed => 5

/-- Word 28 of a record: EPOCH, ERR and STATE (R74). -/
def LaunchRec.word28 (r : LaunchRec) : Nat := r.state.code + r.err * 8 + r.epoch.toNat * 2 ^ 32

/-- The index of a record's counter (R80). -/
def LaunchRec.counter (r : LaunchRec) (lr : Nat) : Nat := if r.f 428 428 == 1 then lr else r.f 427 416

/-- A predecessor counter (R80). -/
def State.counter (s : State) (k : Nat) : BitVec 16 := Assoc.get 0 s.counters k

/-- Set a predecessor counter. -/
def State.setCounter (s : State) (k : Nat) (v : BitVec 16) : State := { s with counters := Assoc.set 0 s.counters k v }

/-- Queue work for the CP. -/
def State.cpPush (s : State) (w : List CpWork) : State := { s with cpq := s.cpq ++ w }

/-- Whether a record becomes ready when its counter reads 0: Armed, or a loop node in state Running (R80). -/
def LaunchRec.awaits (r : LaunchRec) : Bool := r.state == .armed || (r.state == .running && r.kind == 2)

/-- The records that a counter that has reached 0 makes ready, but for those that are so already: in ascending order of index, the
spec gives none (DESIGN CHOICE, assumption 88). -/
def State.readyOn (s : State) (k : Nat) : List CpWork :=
  ((s.recs.filter fun e => e.2.awaits && e.2.counter e.1 == k).map fun e => CpWork.ready e.1).filter fun w => !s.cpq.contains w

/-- Load a predecessor counter: a value of 0 makes its nodes ready (R77, R80, R82). -/
def State.loadCounter (s : State) (k : Nat) (v : BitVec 16) : State :=
  let s := s.setCounter k v
  if v == 0 then s.cpPush (s.readyOn k) else s

/-- A decrement of a counter (R80), made for record `lr`. The spec does not say which record an Underflow record names in LREC:
the model takes the one the decrement is made for (DESIGN CHOICE, assumption 55). -/
def State.decrementCounter (s : State) (k lr : Nat) : State :=
  if s.counter k == 0 then
    match (s.lrec k).ctx with
    | some c => s.postGraph c lr 1 k 0
    | none => s
  else
    let s := s.setCounter k (s.counter k - 1)
    if s.counter k == 0 then s.cpPush (s.readyOn k) else s

/-- The reserved fields of R74 within words 0 to 27. -/
def LaunchRec.reserved (r : LaunchRec) : List Nat :=
  [r.f 1791 768, r.f 767 752, r.f 479 468, r.f 455 450, r.f 431 429, r.f 415 412, r.f 191 164]

/-- The field checks of R77. -/
def LaunchRec.fieldsOk (r : LaunchRec) : Bool :=
  r.reserved.all (· == 0) && r.kind != 3 && r.na ≤ 5 && r.nb ≤ 5 &&
  !((r.ckind == 1 || r.ckind == 2) && decide (255 < r.ctgt)) &&
  (if r.kind == 0 then
    (List.range 6).all (fun d => r.width d ≤ 32 && (r.width d == 0 || r.ext d ≤ 2 ^ r.width d)) &&
    r.fieldPos 6 ≤ 64 && 1 ≤ r.minDie && r.minDie ≤ r.maxDie && r.maxDie ≤ 8 && !(r.pers && !r.gang) &&
    r.tte % 64 == 0 && r.tte < 2 ^ 60
  else r.predw != 0 && r.predw % 8 == 0 && !(r.kind == 2 && r.f 735 704 == 0))

/-- Whether counter `k` belongs to a context (R80). -/
def State.ownsCounter (s : State) (ctx k : Nat) : Bool := (s.lrec k).ctx == some ctx

/-- A phaser, by key: a hub phaser n at 8192 + n, a die phaser n of die d at 1024 d + n. -/
def State.phaser (s : State) (k : Nat) : Phaser := Assoc.get Phaser.unbound s.phasers k

/-- Replace a phaser. -/
def State.setPhaser (s : State) (k : Nat) (p : Phaser) : State :=
  { s with phasers := Assoc.set Phaser.unbound s.phasers k p }

/-- Whether a work queue belongs to a context (R88). -/
def State.ownsQueue (s : State) (ctx q : Nat) : Bool :=
  match Assoc.find s.queues q with
  | some w => w.ctx == ctx
  | none => false

/-- The objects a record names belong to its context (R77). -/
def State.objectsOk (s : State) (lr ctx : Nat) (r : LaunchRec) : Bool :=
  s.ownsCounter ctx (r.counter lr) &&
  (r.succA ++ r.succB).all (fun k => s.ownsCounter ctx ((s.lrec k).counter k)) &&
  (match r.ckind with
   | 1 => (s.phaser (8192 + r.ctgt)).ctx == some ctx
   | 2 => s.ownsQueue ctx r.ctgt
   | 3 => s.ownsCounter ctx r.ctgt
   | _ => true)

/-- The checks of an arming in the order of R77: 0, or the status of the first that fails. -/
def State.armCheck (s : State) (lr ctx : Nat) : Nat :=
  let r := s.lrec lr
  if r.ctx != some ctx then 1
  else if !(r.state == .idle || r.state == .done) then 2
  else if !r.fieldsOk then 3
  else if !s.objectsOk lr ctx r then 1
  else if r.kind == 0 && r.gang && decide (128 * r.maxDie < r.total) then 5
  else 0

/-! ### The CP's reads (R82, R92) -/

/-- The translation cause of an address of the CP outside the translated region, which no table maps: Invalid (DEDUCED,
assumption 58). -/
def untranslated : Nat := 1

/-- Read 64 bits for the CP in a context: the value, a translation cause, or an array code of poisoned data (R82, R242,
R376). -/
def State.cpRead (s : State) (ctx va : Nat) : Except (Nat ⊕ Nat) Nat :=
  match if regionOf va == 0 then s.translate 8 0 ctx va .read else .error untranslated with
  | .error c => .error (.inl c)
  | .ok (pa, _) =>
    match s.poisonAt (.hbm (pa / 64 * 64)) with
    | some a => if isHostPa pa then .ok (leNat (s.physRead pa 8)) else .error (.inr a)
    | none => .ok (leNat (s.physRead pa 8))

/-- The dispatcher's read of the task-type entry of a launch (R92, R376). -/
def State.readType (s : State) (cid tte : Nat) : TypeRead :=
  (List.range 16).foldl (fun acc k =>
    match acc with
    | .words ws =>
      match s.cpRead cid (tte + 8 * k) with
      | .error (.inl _) => .untranslated
      | .error (.inr code) => .poisoned code
      | .ok v => .words (ws ++ [BitVec.ofNat 64 v])
    | bad => bad) (.words [])

/-- An accepted arming (R77): one step of the CP, and readiness when the counter already reads 0. The task-type entry is copied here,
so that no later change of it counts for the launch (R92; DEDUCED, assumption 93). -/
def State.armRec (s : State) (lr : Nat) : State :=
  let r := s.lrec lr
  let s := s.setRec lr { r with epoch := s.epoch, armcnt := r.armcnt + 1, retired := 0, itcnt := 0, state := .armed,
                                err := 0, ready := none, granted := [], onDies := [],
                                entry := if r.kind == 0 then some (s.readType (r.ctx.getD 0) r.tte) else none,
                                tt := none, next := 0, placed := [], pushHeld := false, held := 0, cuts := 0, traps := 0 }
  let k := r.counter lr
  if r.f 411 411 == 1 then s.loadCounter k (BitVec.ofNat 16 (r.f 447 432))
  else if s.counter k == 0 then s.cpPush [.ready lr]
  else s

/-- Write a status into a record's ERR when the record is bound to the caller's context (R78). -/
def State.setErr (s : State) (lr ctx st : Nat) : State :=
  let r := s.lrec lr
  if r.ctx == some ctx then s.setRec lr { r with err := st } else s

/-- The array code of a poisoned sector of a launch record (R376). -/
def State.recPoison (s : State) (lr : Nat) : Option Nat := (List.range 4).findSome? fun k => s.poisonAt (.record lr k)

/-- Arm one record for a context: the new state and the status (R77, R78). A poisoned record is refused, and the context
learns of it (R376). -/
def State.arm (s : State) (lr ctx : Nat) : State × Nat :=
  match (if (s.lrec lr).ctx == some ctx then s.recPoison lr else none) with
  | some code => ((s.setErr lr ctx 3).postGraph ctx lr 7 code 0, 3)
  | none =>
    let st := s.armCheck lr ctx
    if st == 0 then (s.armRec lr, 0) else (s.setErr lr ctx st, st)

/-- Patch one word of a record for a context (R76, R78). Of a bad state and a bad offset together the state gives the status: the
spec orders only the checks of an arming (DESIGN CHOICE, assumption 56). -/
def State.patch (s : State) (lr ctx word : Nat) (v : Word) : State × Nat :=
  let r := s.lrec lr
  if r.ctx != some ctx then (s, 1)
  else if !(r.state == .idle || r.state == .done) then (s.setErr lr ctx 2, 2)
  else if 28 ≤ word then (s.setErr lr ctx 4, 4)
  else (s.setRec lr { r with words := Assoc.set 0 r.words word v, state := .idle, err := 0 }, 0)

/-! ### Phasers (R320, R322) -/

/-- SPH of a task's membership of a phaser. -/
def Task.sphOf (t : Task) (key : Nat) : BitVec 32 :=
  match t.members.find? fun m => m.key == key with
  | some m => m.sph
  | none => 0

/-- Count a waiting signal as sent: its member's SPH grows (R320). -/
def Task.signalled (t : Task) (key : Nat) : Task :=
  { t with members := t.members.map fun m => if m.key == key then { m with sph := m.sph + 1, sent := true } else m }

/-- Whether a waiting task's signal is for a phase. -/
def State.signalsFor (s : State) (key : Nat) (ph : BitVec 32) (tid : Nat) : Bool :=
  match Assoc.find s.tasks tid with
  | some t => t.sphOf key == ph
  | none => false

/-- `Advance()` of R320: phases end while every signalling seat has signalled, and each waiting signal of the new phase is
counted, in arrival order. The fuel bounds the phases that one arrival can end. -/
def State.advanceFor (fuel : Nat) (s : State) (key : Nat) : State :=
  match fuel with
  | 0 => s
  | fuel + 1 =>
    let p := s.phaser key
    if 0 < p.nsig && p.sigd == p.nsig then
      let ph := p.phase + 1
      let enter := p.waiting.filter (s.signalsFor key ph)
      let s := s.setPhaser key { p with phase := ph, nsig := p.nsig - p.drops, drops := 0, sigd := enter.length,
                                        waiting := p.waiting.filter fun w => !s.signalsFor key ph w }
      State.advanceFor fuel (enter.foldl (fun s w => s.modTask w (·.signalled key)) s) key
    else s

/-- Replace a phaser, and advance it. -/
def State.advance (s : State) (key : Nat) (p : Phaser) : State :=
  (s.setPhaser key p).advanceFor (p.waiting.length + 2) key

/-- Apply `phdrop` to one membership (R320). -/
def State.dropMember (s : State) (m : Member) : State :=
  let p := s.phaser m.key
  let p := if m.mode == 1 then p
    else { p with sigd := if m.sph == p.phase then p.sigd + 1 else p.sigd, drops := p.drops + 1 }
  s.advance m.key p

/-- A completion action's signal consumes one proxy seat (R322). False when there is none. -/
def State.proxySignal (s : State) (key : Nat) : State × Bool :=
  let p := s.phaser key
  if p.proxies == 0 then (s, false)
  else (s.advance key { p with proxies := p.proxies - 1, sigd := p.sigd + 1, drops := p.drops + 1 }, true)

/-- A task leaves its die: `phdrop` is applied to its memberships of that die's phasers (R321). -/
def State.dropDiePhasers (s : State) (tid : Nat) : State :=
  match Assoc.find s.tasks tid with
  | some t =>
    ((t.members.filter fun m => m.key < 8192).foldl State.dropMember s).modTask tid fun t =>
      { t with members := t.members.filter (fun m => decide (8192 ≤ m.key)),
               left := t.left ++ (t.members.filter fun m => decide (m.key < 8192)).map (·.key % 1024) }
  | none => s

/-! ### Superstep barriers (R323, R324) -/

/-- A superstep barrier. -/
def State.barrier (s : State) (k : Nat) : Superstep := Assoc.get Superstep.unbound s.barriers k

/-- Replace a barrier. -/
def State.setBarrier (s : State) (k : Nat) (b : Superstep) : State :=
  { s with barriers := Assoc.set Superstep.unbound s.barriers k b }

/-- ARR of R323: the retired members and the live ones that have arrived for the current step. -/
def Superstep.arr (b : Superstep) : Nat := b.arrived.length + b.retired

/-- End a barrier's step when ARR equals T and CUR is 0 (R324). -/
def State.stepEnd (s : State) (k : Nat) : State :=
  let b := s.barrier k
  match b.lr with
  | some lr =>
    if b.arr == (s.lrec lr).total && b.cur == 0 then
      s.setBarrier k { b with step := b.step + 1, arrived := [], cur := b.next, next := 0 }
    else s
  | none => s

/-- A member that retires counts as arrived from then on (R323). -/
def State.retireMember (s : State) (tid lr : Nat) : State :=
  s.barriers.foldl (fun s e =>
    if e.2.lr == some lr then
      (s.setBarrier e.1 { e.2 with arrived := e.2.arrived.filter (· != tid), retired := e.2.retired + 1 }).stepEnd e.1
    else s) s

/-- The barriers of a launch become free of it (R323). -/
def State.freeBarriers (s : State) (lr : Nat) : State :=
  { s with barriers := s.barriers.map fun e =>
      if e.2.lr == some lr then (e.1, { e.2 with lr := none, arrived := [], retired := 0, cur := 0, next := 0 }) else e }

/-! ### Tasks and cores -/

/-- Whether a task holds its slot. -/
def Task.resident (t : Task) : Bool :=
  match t.life with
  | .running | .ending | .cutting _ => true
  | .cut | .halted => false

/-- Whether a task is on its way off its core, for another reason than an image. -/
def Life.leaving : Life → Bool
  | .cut | .halted | .cutting .preempt | .cutting .withdraw | .cutting .halt | .cutting .cancel => true
  | .running | .ending | .cutting .interval | .cutting (.image _) | .cutting (.replay _) => false

/-- The resident tasks of a core. -/
def State.onCore (s : State) (die core : Nat) : List (Nat × Task) :=
  s.tasks.filter fun e => e.2.resident && e.2.die == die && e.2.core == core

/-- The number of resident tasks of a die. -/
def State.onDie (s : State) (die : Nat) : Nat := (s.tasks.filter fun e => e.2.resident && e.2.die == die).length

/-- The free lots of a core (R101): a lot that `lotrel` has returned leaves at the end of the chunk in progress. -/
def State.freeLots (s : State) (die core : Nat) : Nat :=
  32 - ((s.onCore die core).map fun e => e.2.lots + e.2.leaving).sum

/-- The queue of a core's lot arbiter. -/
def State.lotQueue (s : State) (die core : Nat) : List LotReq := Assoc.get [] s.lotq (32 * die + core)

/-- Replace the queue of a lot arbiter. -/
def State.setLotQueue (s : State) (die core : Nat) (q : List LotReq) : State :=
  { s with lotq := Assoc.set [] s.lotq (32 * die + core) q }

/-- Post a request: by priority, then by arrival (R101). -/
def insertLot (r : LotReq) (q : List LotReq) : List LotReq :=
  q.takeWhile (fun x => r.prio ≤ x.prio) ++ r :: q.dropWhile (fun x => r.prio ≤ x.prio)

/-- MiB of cluster SRAM of a cluster that launches may use: 8 less the striped contributions (R247), less what launches
hold there (R246). -/
def State.clusterFree (s : State) (die core : Nat) : Nat :=
  let stripes := (s.ctxs.map fun e => e.2.stripe).sum
  let held := s.tasks.foldl (fun (m : Assoc Nat) e =>
    if e.2.resident && e.2.die == die && e.2.core / 4 == core / 4 then Assoc.put m e.2.lr e.2.tt.clsd else m) []
  (64 - stripes) / 8 - (held.map (·.2)).sum

/-- Whether a launch holds its allocation in a core's cluster. -/
def State.clusterHeld (s : State) (die core lr : Nat) : Bool :=
  s.tasks.any fun e => e.2.resident && e.2.die == die && e.2.core / 4 == core / 4 && e.2.lr == lr

/-- The state of a core. -/
def State.core (s : State) (die core : Nat) : CoreState := Assoc.get CoreState.start s.cores (32 * die + core)

/-- Replace the state of a core. -/
def State.setCore (s : State) (die core : Nat) (c : CoreState) : State :=
  { s with cores := Assoc.set CoreState.start s.cores (32 * die + core) c }

/-- Whether a core has what a task of a type with a lot demand takes of it (R96, R101). Only a core in Normal service runs launches
(R104). -/
def State.coreHolds (s : State) (die core prio : Nat) (tt : TaskType) (lots : Nat) : Bool :=
  let ts := (s.onCore die core).map (·.2)
  let sum (f : TaskType → Nat) : Nat := (ts.map fun t => f t.tt).sum
  let free := s.freeLots die core
  s.dieWorks die && !(s.die die).lostCores.contains core && (s.core die core).mode == 0 && decide (ts.length < 4) &&
  decide (sum (fun t => 16 * (t.vreg + 1)) + 16 * (tt.vreg + 1) ≤ Config.coreVregs) &&
  decide (sum (·.spd) + tt.spd ≤ 32) && decide (sum (·.accd) + tt.accd ≤ 32) && decide (sum (·.mdd) + tt.mdd ≤ 8) &&
  decide (lots ≤ free) &&
  (match s.lotQueue die core with
   | [] => true
   | h :: _ => lots == 0 || decide (h.prio < prio) || decide (h.n + lots ≤ free))

/-- Whether a core's cluster has the allocation of a launch, or room for it (R96). -/
def State.clusterHolds (s : State) (die core lr : Nat) (tt : TaskType) : Bool :=
  tt.clsd == 0 || s.clusterHeld die core lr || decide (tt.clsd ≤ s.clusterFree die core)

/-- Whether a core can hold a task of a type with a lot demand (R96, R101). -/
def State.canHold (s : State) (die core lr prio : Nat) (tt : TaskType) (lots : Nat) : Bool :=
  s.coreHolds die core prio tt lots && s.clusterHolds die core lr tt

/-- A free slot of a core, the lowest. -/
def State.freeSlot (s : State) (die core : Nat) : Nat :=
  let used := (s.onCore die core).map fun e => e.2.slot
  ((List.range 4).find? fun k => !used.contains k).getD 0

/-- The core of a die that R97 picks among those that can hold a task: fewest occupied slots, most free lots, lowest
number. -/
def State.pickCore (s : State) (die lr prio : Nat) (tt : TaskType) (lots : Nat) : Option Nat :=
  ((List.range 32).filter fun c => s.canHold die c lr prio tt lots).foldl (fun (best : Option Nat) c =>
    match best with
    | none => some c
    | some b =>
      let nb := (s.onCore die b).length
      let nc := (s.onCore die c).length
      if nc < nb || (nc == nb && decide (s.freeLots die b < s.freeLots die c)) then some c else some b) none

/-! ### Task types and shapes (R91, R92, R102, R103) -/

/-- The gang width of a format (R24). -/
def gangOf : NumType → Option Nat
  | .bf16 => some 8 | .f16 => some 16 | .e4m3 => some 4 | .e5m2 => some 4 | .e2m1 => some 2 | .mk8 => some 8
  | .i16 => some 16 | .i8 => some 8 | .i4 => some 4 | .i2 => some 2
  | .n16 => some 16 | .n8 => some 8 | .n4 => some 4 | .n2 => some 2 | _ => none

/-- Cells per MAC of a gang width (R198). -/
def cellsPerMac (g : Nat) : Nat := (g / 2) * (g / 2)

/-- Division rounded up. -/
def ceilDiv (a b : Nat) : Nat := (a + b - 1) / b

/-- Chunk time in m (R200). -/
def chunkTime (m n k0 p lots : Nat) : Nat := ceilDiv (m * n * k0 * p) (16384 * lots)

/-- The shape word of R103 that R102 resolves; `wc` is the width code, `p` the cells per MAC, `g` the lots. -/
def shapeWord (mmax nmax wc p g : Nat) : Word :=
  if g == 0 then BitVec.ofNat 64 (7 * 2 ^ 21)
  else
    let k0 := 128 / widthOf wc
    let c := 16384 * g
    let fits (mc : Nat) : Bool := mc ≤ mmax && decide (16 * 2 ^ mc * 16 * k0 * p ≤ c)
    let mc := if fits 2 then 2 else if fits 1 then 1 else 0
    let m := 16 * 2 ^ mc
    let n := min nmax (max 1 (c / (m * 16 * k0 * p)))
    BitVec.ofNat 64 (chunkTime m (16 * n) k0 p g * 2 ^ 24 + wc * 2 ^ 21 + g * 2 ^ 15 + k0 * 2 ^ 8 + n * 4 + mc)

/-- The word of no shape (R103). -/
def noShape : Word := BitVec.ofNat 64 (7 * 2 ^ 21)

/-- A signed 32-bit field. -/
def sField (ws : List Word) (lo : Nat) : Int := signed 32 (field ws (lo + 31) lo)

/-- A task-type entry from its 16 words (R91). -/
def TaskType.ofWords (w : List Word) : TaskType :=
  { kent := BitVec.ofNat 64 (field w 63 0), lent := BitVec.ofNat 64 (field w 127 64),
    went := BitVec.ofNat 64 (field w 191 128), cent := BitVec.ofNat 64 (field w 255 192),
    trapv := BitVec.ofNat 64 (field w 703 640), chk := field w 360 360 == 1, slip := field w 349 343,
    vreg := field w 322 320, spd := field w 328 323, accd := field w 334 329, mdd := field w 338 335,
    clsd := field w 342 339, mmax := field w 351 350, nmax := field w 357 352,
    lots := Assoc.ofList 0 [field w 261 256, field w 267 262, field w 273 268, field w 279 274] 0,
    fwid := field w 284 283, grole := field w 287 285, glayer := field w 303 288, plmode := field w 359 358,
    plbase := BitVec.ofNat 64 (field w 447 384),
    plstr := Assoc.ofList 0 ((List.range 6).map fun d => sField w (32 * d + 448)) 0 }

/-- The checks of R92 on the words of an entry. -/
def typeOk (w : List Word) : Bool :=
  let t := TaskType.ofWords w
  let addr (a : Word) (n : Nat) : Bool := a.toNat % n == 0 && decide (a.toNat < 2 ^ 60)
  field w 1023 704 == 0 && field w 383 361 == 0 && field w 319 304 == 0 && field w 282 280 == 0 &&
  t.plmode != 3 && t.nmax != 0 && t.mmax != 3 && 1 ≤ t.slip && t.slip ≤ 64 && t.clsd ≤ 8 && t.mdd ≤ 8 && t.accd ≤ 32 &&
  t.spd ≤ 32 && t.vreg != 0 && t.grole ≤ 5 && t.lots.all (fun e => e.2 ≤ 32) &&
  addr t.kent 4 && addr t.lent 4 && addr t.went 4 && addr t.cent 8 && addr t.trapv 4

/-- The encoding a launch captured for its task type's PSR (R64, R91). -/
def State.capturedOf (s : State) (epoch : BitVec 32) (tt : TaskType) : Option HistEntry :=
  (s.psr (psrKey tt.glayer tt.grole)).captured epoch

/-- The width code a task runs at: the captured width, or FWID (R100). -/
def State.widthCode (s : State) (epoch : BitVec 32) (tt : TaskType) : Nat :=
  if tt.grole == 0 then tt.fwid
  else match s.capturedOf epoch tt with
    | some h => h.width
    | none => tt.fwid

/-- The lot demand of a task (R100). -/
def State.lotDemand (s : State) (epoch : BitVec 32) (tt : TaskType) : Nat := Assoc.get 0 tt.lots (s.widthCode epoch tt)

/-- Cells per MAC of the shape (R102). -/
def State.shapeCells (s : State) (epoch : BitVec 32) (tt : TaskType) : Nat :=
  let g := if tt.grole == 0 then widthOf tt.fwid
    else match s.capturedOf epoch tt with
      | some h => ((NumType.ofCode h.fmt).bind gangOf).getD (widthOf h.width)
      | none => widthOf tt.fwid
  cellsPerMac g

/-- A task as the dispatcher places it (R114, R204, R244, R260, R284, R343). -/
def Task.start (lr : Nat) (r : LaunchRec) (ctx : Nat) (wid : Word) (tt : TaskType) (vdie die core slot lots : Nat)
    (shape : Word) : Task :=
  let argp := BitVec.ofNat 64 r.argp
  let ptr (pc : Word) : SeqState := { SeqState.start pc with regs := Assoc.set 0 [] 32 argp }
  { lr := lr, arming := r.armcnt, wid := wid, ctx := ctx, vdie := vdie, die := die, core := core, slot := slot,
    prio := r.prio, life := .running, tt := tt,
    kq := { SeqState.start tt.kent with regs := Assoc.set 0 (Assoc.set 0 [] 1 argp) 2 wid },
    lq := ptr tt.lent, wq := ptr tt.went, cq := SeqState.start tt.cent,
    v := [], p := [], rofs := 0, sdepth := 1, tokens := [], loadPorts := [], storePorts := [], gens := [], spad := [],
    md := [], tiles := [], tileReady := [], selectors := [], selReady := [], shape := shape, lots := lots, demand := lots,
    leaving := 0, openBatch := { num := none, ops := [], planned := 0 }, batches := [], batchCtr := 0, sync := none, gemvCtr := 0,
    gemvJoined := 0, batchJoined := 0, walkCtr := 0, eng := [], faults := [], recs := [], hist := [], rcv := [], members := [], left := [],
    ssArrived := [], bids := [], mon := { sector := none, reason := 0, spurious := 0 }, srnd := 0, holdcnt := 0, holding := false,
    evt := 0, sto := BitVec.ofNat 32 (2 ^ 24), opr := [], imgseq := 0, trec := 0, tpck := 0, tpcl := 0, tpcw := 0,
    tpcc := 0, taddr := 0, tinfo := 0, tword := 0, handler := none, checks := [], gvDone := none, hubq := [], ending := false,
    popped := none, fixedPop := false }

/-- Place the task with index `n` of a launch on a core. -/
def State.placeTask (s : State) (lr n vdie die core : Nat) (tt : TaskType) : State :=
  let r := s.lrec lr
  let lots := s.lotDemand r.epoch tt
  let wc := s.widthCode r.epoch tt
  let shape := if lots == 0 then noShape else shapeWord tt.mmax tt.nmax wc (s.shapeCells r.epoch tt) lots
  let t := Task.start lr r (r.ctx.getD 0) (r.widOf n) tt vdie die core (s.freeSlot die core) lots shape
  { s with tasks := Assoc.put s.tasks s.nextTask t, nextTask := s.nextTask + 1 }

/-- The signal of a phaser instruction that is abandoned is taken back while its phase has not ended (R322). -/
def State.unsignal (s : State) (tid : Nat) (m : Member) : State :=
  let p := s.phaser m.key
  if m.sent && p.phase + 1 == m.sph then
    (s.setPhaser m.key { p with sigd := p.sigd - 1 }).modTask tid fun t =>
      { t with members := t.members.map fun x => if x.key == m.key then { x with sph := x.sph - 1, sent := false } else x }
  else s

/-- What a task's abandoned instructions wait for elsewhere is withdrawn (R89, R228, R320, R322). -/
def State.withdraw (s : State) (tid : Nat) : State :=
  match Assoc.find s.tasks tid with
  | none => s
  | some t =>
    let c := s.core t.die t.core
    let s := s.setCore t.die t.core { c with vecQ := c.vecQ.filter (· != tid), accQ := c.accQ.filter (· != tid),
                                             agQ := c.agQ.filter (·.1 != tid) }
    let s := s.setLotQueue t.die t.core ((s.lotQueue t.die t.core).filter fun r => r.task != tid)
    let s : State := { s with
             queues := s.queues.map fun e => (e.1, { e.2 with waiters := e.2.waiters.filter (·.task != tid) }),
             phasers := s.phasers.map fun e => (e.1, { e.2 with waiting := e.2.waiting.filter (· != tid) }) }
    t.members.foldl (fun s m => s.unsignal tid m) s

/-- Count in the statistics of a record, while a task's arming is its present one (R401). -/
def State.bump (s : State) (lr : Nat) (arming : Word) (f : LaunchRec → LaunchRec) : State :=
  let r := s.lrec lr
  if r.armcnt == arming then s.setRec lr (f r) else s

/-- Start the cut of a task that runs or waits in its `tend` (R385 step 1): its sequencers stop, what they wait for is
withdrawn, and nothing of the task issues until the cut is complete. -/
def State.startCut (s : State) (tid : Nat) (why : Cut) : State :=
  match Assoc.find s.tasks tid with
  | some t =>
    if t.life == .running || t.life == .ending then
      let s := s.bump t.lr t.arming fun r => { r with cuts := r.cuts + 1 }
      (s.withdraw tid).modTask tid fun t => { t.stopSeqs with life := .cutting why }
    else s
  | none => s

/-! ### Operating points (R12, R13, R411) -/

/-- Replace the record of a die. -/
def State.setDie (s : State) (d : Nat) (x : Die) : State := { s with dies := Assoc.set Die.start s.dies d x }

/-- Whether a task holds its die at nominal (R13): one of a persistent launch that pops a fixed-latency queue. -/
def State.holdsDie (s : State) (d : Nat) : Bool :=
  s.tasks.any fun e => e.2.resident && e.2.die == d && e.2.fixedPop && (s.lrec e.2.lr).pers

/-- The controller changes a die's point: its clocks halt for a while (R13). -/
def State.setPoint (s : State) (d p : Nat) : State :=
  let x := s.die d
  if x.point == p then s else s.setDie d { x with point := p, halted := true }

/-- The point a die runs at while nothing lowers it: the host's, or nominal while a task holds it (R12, R13). -/
def State.basePoint (s : State) (d : Nat) : Nat := if s.holdsDie d then 0 else (s.die d).hostPoint

/-- THERM of R411: 1 while some working die runs at a lowered point. -/
def State.retherm (s : State) : State :=
  { s with therm := if s.poweredDown then 3 else if s.coolantLost || (List.range 8).any (fun d => (s.die d).critical) then 2
      else if s.workingDies.any fun d => decide (s.basePoint d < (s.die d).point) then 1 else 0 }

/-- Send a KIND 7 record to some contexts (R384). -/
def State.thermal (s : State) (cs : List Nat) (d temp reason : Nat) : State :=
  let r := { EventRec.plain 7 with die := d, info := s.therm + temp % 256 * 2 ^ 4 + reason * 2 ^ 12 }
  cs.foldl (fun s c => s.post c r) s

/-- Every context. -/
def State.allCtxs (s : State) : List Nat := s.ctxs.map (·.1)

/-- A temperature that no event states. -/
def State.drawTemp (s : State) : Nat × State := (Config.freeChoice s.fresh % 256, { s with fresh := s.fresh + 1 })

/-- A task begins to hold its die at nominal: the controller takes the die there, and ends a lowering for the power cap. A die
whose own temperature has lowered it stays where it is (R13, R411). -/
def State.beginHold (s : State) (d : Nat) : State :=
  let x := s.die d
  if x.hot then s.retherm
  else
    let s := ((s.setDie d { x with capped := false }).setPoint d 0).retherm
    if x.capped && decide (x.hostPoint < x.point) then
      let (temp, s) := s.drawTemp
      s.thermal s.allCtxs d temp 5
    else s

/-- The last task that held a die has left it: the die goes to the host's point, or stays lower while R411 requires it
(R12, R13). -/
def State.endHold (s : State) (d : Nat) : State :=
  let x := s.die d
  if s.holdsDie d then s
  else (s.setPoint d (if x.hot || x.capped then max x.point x.hostPoint else x.hostPoint)).retherm

/-- A task that holds its die is resident there no longer. -/
def State.releaseHold (s : State) (t : Task) : State :=
  if t.fixedPop && (s.lrec t.lr).pers then s.endHold t.die else s

/-! ### Failing and cancelling (R85) -/

/-- The last resident task of a launch in a cluster frees its allocation there (R96). -/
def State.leaveCluster (s : State) (die core lr : Nat) : State :=
  if s.clusterHeld die core lr then s
  else { s with cluster := Assoc.erase s.cluster (clusterKey die core lr),
                poison := s.poison.filter fun e => match e.1 with
                  | .cluster d c l _ => !(d == die && c == core / 4 && l == lr)
                  | _ => true }

/-- Remove a task from the machine with all it holds (R156 step 5, R244). -/
def State.removeTask (s : State) (tid : Nat) : State :=
  match Assoc.find s.tasks tid with
  | none => s
  | some t =>
    let s := s.withdraw tid
    (({ s with tasks := Assoc.erase s.tasks tid, images := Assoc.erase s.images tid } : State).leaveCluster t.die t.core
      t.lr).releaseHold t

/-- The tasks of a launch's present arming. -/
def State.tasksOf (s : State) (lr : Nat) : List (Nat × Task) :=
  s.tasks.filter fun e => e.2.lr == lr && e.2.arming == (s.lrec lr).armcnt

/-- End a task of a launch that ends: one on a core at a cut without an image, another at once (R90, R385). -/
def State.endTask (s : State) (tid : Nat) (t : Task) : State :=
  match t.life with
  | .cut | .halted => s.removeTask tid
  | .cutting _ => s.modTask tid fun t => { t with life := .cutting .cancel }
  | .running | .ending => s.startCut tid .cancel

/-- End every task of a launch. -/
def State.endTasks (s : State) (lr : Nat) : State := (s.tasksOf lr).foldl (fun s e => s.endTask e.1 e.2) s

/-- The CP's work for one record. -/
def CpWork.record : CpWork → Nat
  | .ready lr | .decrement _ lr | .fire lr | .finish lr => lr

/-- End a launch as failed (R85): ERR holds the code, and nothing of its completion is done. Its tasks end as those of a
cancelled launch do, and its barriers are free (DESIGN CHOICE, assumption 57: the spec says of REC_CANCEL alone how a failed
launch's other tasks end). -/
def State.failLaunch (s : State) (lr err : Nat) : State :=
  let s := (s.endTasks lr).freeBarriers lr
  { s.setRec lr { s.lrec lr with state := .failed, err := err, ready := none, pushHeld := false } with
    cpq := s.cpq.filter fun w => w.record != lr }

/-! ### The CP's work (R81 to R84, R93) -/

/-- The physical die behind a virtual number of a context (R15). -/
def State.physDie (s : State) (cid v : Nat) : Option Nat := (Assoc.find s.ctxs cid).bind fun c => Assoc.find c.vdies v

/-- Bind the invalid virtual dies below `n` of a context's table (R93). -/
def State.bindDies (s : State) (cid n : Nat) : State :=
  (List.range n).foldl (fun s v =>
    match Assoc.find s.ctxs cid with
    | none => s
    | some c =>
      if Assoc.has c.vdies v then s
      else
        let taken := (c.vdies.filter fun e => decide (e.1 < n)).map (·.2)
        let free := s.workingDies.filter fun d => c.allow.getLsbD d && !taken.contains d
        match free.foldl (fun (b : Option Nat) d =>
            match b with
            | none => some d
            | some x => if s.onDie d < s.onDie x then some d else some x) none with
        | some d => { s with ctxs := Assoc.put s.ctxs cid { c with vdies := Assoc.put c.vdies v d } }
        | none => s) s

/-- The working dies of a context's allowance. -/
def State.allowed (s : State) (cid : Nat) : List Nat :=
  match Assoc.find s.ctxs cid with
  | some c => s.workingDies.filter fun d => c.allow.getLsbD d
  | none => []

/-- A task launch becomes ready: zero extent completes at once (R84); otherwise dies are granted (R93) and the type is
checked (R92). -/
def State.launchReady (s : State) (lr : Nat) : State :=
  let r := s.lrec lr
  let cid := r.ctx.getD 0
  if r.total == 0 then (s.setRec lr { r with state := .running }).cpPush [.fire lr, .finish lr]
  else
    let a := (s.allowed cid).length
    if a < r.minDie then s.failLaunch lr 3
    else
      let n := min r.maxDie a
      let s := s.bindDies cid n
      match r.entry.getD .untranslated with
      | .poisoned code => (s.failLaunch lr 3).postGraph cid lr 7 code r.tte
      | .untranslated => (s.failLaunch lr 3).postGraph cid lr 4 3 r.tte
      | .words ws =>
        let tt := TaskType.ofWords ws
        if !typeOk ws || (tt.grole != 0 && (s.capturedOf r.epoch tt).isNone) then
          (s.failLaunch lr 3).postGraph cid lr 4 3 r.tte
        else
          let s := s.setRec lr { r with state := .running, ready := some s.readyCtr, dies := n, granted := List.range n,
                                        onDies := ((List.range n).filterMap (s.physDie cid)).eraseDups, tt := some tt }
          { s with readyCtr := s.readyCtr + 1 }

/-- Decrements of the counters of listed records, in list order. -/
def State.decrements (s : State) (l : List Nat) (lr : Nat) : List CpWork :=
  l.map fun k => .decrement ((s.lrec k).counter k) lr

/-- A conditional or loop node whose predicate cannot be read fails (R82, R376). -/
def State.predFailed (s : State) (lr : Nat) (e : Nat ⊕ Nat) : State :=
  let r := s.lrec lr
  let cid := r.ctx.getD 0
  let s := s.failLaunch lr 3
  match e with
  | .inl c => s.postGraph cid lr 8 c r.predw
  | .inr a => s.postGraph cid lr 7 a r.predw

/-- A conditional node that becomes ready (R82). -/
def State.condReady (s : State) (lr : Nat) : State :=
  let r := s.lrec lr
  match s.cpRead (r.ctx.getD 0) r.predw with
  | .error e => s.predFailed lr e
  | .ok p =>
    (s.setRec lr { r with state := .running }).cpPush
      (s.decrements (if p != 0 then r.succA else r.succB) lr ++ [.fire lr, .finish lr])

/-- Arm the body of a loop node in list order; the first refusal is returned (R82). -/
def State.armBody (s : State) (ctx : Nat) : List Nat → State × Option (Nat × Nat)
  | [] => (s, none)
  | b :: rest =>
    let (s, st) := s.arm b ctx
    if st == 0 then s.armBody ctx rest else (s, some (b, st))

/-- A loop node that becomes ready (R82). A LOOPINIT of 0 makes it ready again at once. -/
def State.loopReady (s : State) (lr : Nat) : State :=
  let r := s.lrec lr
  let cid := r.ctx.getD 0
  match s.cpRead cid r.predw with
  | .error e => s.predFailed lr e
  | .ok p =>
    let lim := r.f 735 704
    if p != 0 && decide (r.itcnt.toNat < lim) then
      let s := s.setRec lr { r with itcnt := r.itcnt + 1, state := .running }
      let s := s.loadCounter (r.counter lr) (BitVec.ofNat 16 (r.f 751 736))
      let (s, bad) := s.armBody cid r.succA
      match bad with
      | some (b, st) => (s.failLaunch lr st).postGraph cid lr 3 (b + st * 2 ^ 32) 0
      | none => s
    else
      let s := if p != 0 then s.postGraph cid lr 2 lim r.predw else s
      let s := s.setRec lr { r with itcnt := 0, err := if p != 0 then 6 else r.err, state := .running }
      s.cpPush (s.decrements r.succB lr ++ [.fire lr, .finish lr])

/-- Append an entry to a work queue. -/
def State.queueAppend (s : State) (q : Nat) (v : Word) : State :=
  { s with queues := Assoc.modify s.queues q fun w => { w with entries := w.entries ++ [v] } }

/-- Whether a work queue has room. -/
def WorkQueue.room (w : WorkQueue) : Bool := decide (w.entries.length < 2 ^ w.k)

/-- The entry a completion push appends (R83). -/
def LaunchRec.pushValue (r : LaunchRec) (lr : Nat) : Word := BitVec.ofNat 64 (r.cval + 2 ^ 32 * lr)

/-- Fire a completion action (R83). A push that finds its queue full stays held. -/
def State.fire (s : State) (lr : Nat) : State :=
  let r := s.lrec lr
  let cid := r.ctx.getD 0
  match r.ckind with
  | 1 =>
    if (s.phaser (8192 + r.ctgt)).ctx != some cid then s.postGraph cid lr 6 r.ctgt 0
    else
      let (s, ok) := s.proxySignal (8192 + r.ctgt)
      if ok then s else s.postGraph cid lr 5 r.ctgt 0
  | 2 =>
    match Assoc.find s.queues r.ctgt with
    | some w =>
      if w.ctx != cid then s.postGraph cid lr 6 r.ctgt 0
      else if w.room then s.queueAppend r.ctgt (r.pushValue lr)
      else s.setRec lr { r with pushHeld := true }
    | none => s.postGraph cid lr 6 r.ctgt 0
  | 3 => if s.ownsCounter cid r.ctgt then s.decrementCounter r.ctgt lr else s.postGraph cid lr 6 r.ctgt 0
  | _ => s

/-- The end of a record's completion: successors of a task launch, then Done (R81). DIES keeps the number granted (DESIGN CHOICE,
assumption 59: the spec does not say when it falls to 0). -/
def State.finish (s : State) (lr : Nat) : State :=
  let r := s.lrec lr
  let s := if r.kind == 0 then r.succA.foldl (fun s k => s.decrementCounter ((s.lrec k).counter k) lr) s else s
  (s.freeBarriers lr).setRec lr { s.lrec lr with state := .done, ready := none }

/-- One piece of CP work. A node that became ready when its counter read 0 is launched whatever the counter reads now (R77, R80). The
end of a record whose push is held stays queued behind it (R83). -/
def State.cpStep (s : State) (w : CpWork) : State :=
  match w with
  | .ready lr =>
    let r := s.lrec lr
    if r.awaits && !s.cpq.contains (.finish lr) then
      match s.recPoison lr with
      | some code => (s.failLaunch lr 3).postGraph (r.ctx.getD 0) lr 7 code 0
      | none =>
        match r.kind with
        | 0 => s.launchReady lr
        | 1 => s.condReady lr
        | _ => s.loopReady lr
    else s
  | .decrement k lr => s.decrementCounter k lr
  | .fire lr => s.fire lr
  | .finish lr => if (s.lrec lr).pushHeld then s else s.finish lr

/-- Run queued CP work in order, at most `fuel` pieces; what is left runs in a later turn. -/
def State.runCp (fuel : Nat) (s : State) : State :=
  match fuel with
  | 0 => s
  | fuel + 1 =>
    match s.cpq with
    | [] => s
    | w :: rest => State.runCp fuel (({ s with cpq := rest }).cpStep w)

/-- The bound on CP work in one step. -/
def cpFuel : Nat := 256

/-! ### Placement (R95 to R99) -/

/-- The placement address of a task (R95). -/
def placementAddr (tt : TaskType) (r : LaunchRec) (wid : Nat) : Nat :=
  let sum : Int := ((List.range 6).map fun d => (r.widField wid d : Int) * Assoc.get 0 tt.plstr d * 64).sum
  wrap 64 (sum + tt.plbase.toNat + (if tt.plmode == 2 then r.argp else 0))

/-- The virtual number of a task's home die among those granted, if it has one (R95). -/
def State.homeDie (s : State) (r : LaunchRec) (tt : TaskType) (wid : Nat) : Option Nat :=
  if tt.plmode == 0 then none
  else
    let pa := placementAddr tt r wid
    if 2 ^ 60 ≤ pa || regionOf pa != 0 then none
    else match s.translate 8 0 (r.ctx.getD 0) pa .nothing with
      | .ok (p, _) =>
        if isHostPa p then none
        else match Assoc.find s.ctxs (r.ctx.getD 0) with
          | some c => r.granted.find? fun v => Assoc.find c.vdies v == some (stackOf p)
          | none => none
      | .error _ => none

/-- The granted die with the fewest resident tasks, ties to the lower virtual number (R97). -/
def State.emptiest (s : State) (r : LaunchRec) : Option Nat :=
  r.granted.foldl (fun (b : Option Nat) v =>
    let n (v : Nat) : Nat := match s.physDie (r.ctx.getD 0) v with
      | some d => s.onDie d
      | none => 2 ^ 32
    match b with
    | none => some v
    | some x => if n v < n x then some v else some x) none

/-- Whether a launch still has tasks to place. -/
def LaunchRec.waiting (r : LaunchRec) : Bool := r.state == .running && r.ready.isSome && decide (r.next < r.total)

/-- The launches with tasks to place, in the order of service (R98). -/
def State.service (s : State) : List Nat :=
  ((s.recs.filter fun e => e.2.kind == 0 && e.2.waiting).foldl (fun (l : List (Nat × Nat × Nat)) e =>
    let x := (e.1, e.2.prio, e.2.ready.getD 0)
    let before (y : Nat × Nat × Nat) : Bool := x.2.1 < y.2.1 || (y.2.1 == x.2.1 && decide (y.2.2 < x.2.2))
    l.takeWhile before ++ x :: l.dropWhile before) []).map (·.1)

/-- The physical dies of a launch. -/
def State.grantedDies (s : State) (r : LaunchRec) : List Nat := r.granted.filterMap (s.physDie (r.ctx.getD 0))

/-- Dies a waiting gang launch keeps for itself against a launch (R99): of two of one priority on the same dies, which by the rule's words
bar each other, the one that became ready first is placed (DEDUCED, assumption 89). -/
def State.reservedDies (s : State) (lr : Nat) : List Nat :=
  let r := s.lrec lr
  let order := s.service
  let earlier := order.takeWhile (· != lr)
  (order.filter fun g => g != lr && (s.lrec g).gang && decide (r.prio ≤ (s.lrec g).prio) &&
    (!r.gang || earlier.contains g)).flatMap fun g => s.grantedDies (s.lrec g)

/-- Note a placed index: `next` moves past every index placed. -/
def LaunchRec.mark (r : LaunchRec) (n : Nat) : LaunchRec :=
  let ps := n :: r.placed
  let rec up (fuel k : Nat) : Nat := match fuel with
    | 0 => k
    | fuel + 1 => if ps.contains k then up fuel (k + 1) else k
  let k := up ps.length r.next
  { r with next := k, placed := ps.filter fun x => decide (k ≤ x) }

/-- Place the tasks of a non-gang launch that fit, in ascending identifier; a task that waits for room holds back the
later tasks of its die (R97, R98). With the state come the physical dies for whose room a task waits. A task without a home die is
given the emptiest die anew at each turn (DESIGN CHOICE, assumption 92). -/
def State.placeLoose (fuel : Nat) (s : State) (lr n : Nat) (tt : TaskType) (shut full : List Nat) : State × List Nat :=
  match fuel with
  | 0 => (s, full)
  | fuel + 1 =>
    let r := s.lrec lr
    if r.granted.all shut.contains then (s, full)
    else if n < r.next || r.placed.contains n then s.placeLoose fuel lr (n + 1) tt shut full
    else
      match (s.homeDie r tt (r.widOf n).toNat).orElse fun _ => s.emptiest r with
      | none => (s, full)
      | some v =>
        if shut.contains v then s.placeLoose fuel lr (n + 1) tt shut full
        else match s.physDie (r.ctx.getD 0) v with
          | none => s.placeLoose fuel lr (n + 1) tt (v :: shut) full
          | some d =>
            match s.pickCore d lr r.prio tt (s.lotDemand r.epoch tt) with
            | some c =>
              let s := s.placeTask lr n v d c tt
              State.placeLoose fuel (s.setRec lr ((s.lrec lr).mark n)) lr (n + 1) tt shut full
            | none => s.placeLoose fuel lr (n + 1) tt (v :: shut) (full ++ [d])

/-- Place every task of a gang launch from index `n` on, or fail (R99). -/
def State.placeGang (fuel : Nat) (s : State) (lr n : Nat) (tt : TaskType) : Option State :=
  match fuel with
  | 0 => some s
  | fuel + 1 =>
    let r := s.lrec lr
    let lots := s.lotDemand r.epoch tt
    let try1 (v : Nat) : Option (Nat × Nat × Nat) :=
      (s.physDie (r.ctx.getD 0) v).bind fun d => (s.pickCore d lr r.prio tt lots).map fun c => (v, d, c)
    let home := (s.homeDie r tt (r.widOf n).toNat).bind try1
    match home.orElse fun _ => r.granted.findSome? try1 with
    | some (v, d, c) => State.placeGang fuel (s.placeTask lr n v d c tt) lr (n + 1) tt
    | none => none

/-- Whether a resident task may be a victim of a launch: it is of lower priority, and the PREMASK of a persistent launch allows it
(R87, R99). -/
def State.mayPreempt (s : State) (prio : Nat) (t : Task) : Bool :=
  let r := s.lrec t.lr
  (t.life == .running || t.life == .ending) && decide (t.prio < prio) && (!r.pers || bitAt r.premask prio)

/-- Whether a task is younger than another: of the later-ready launch, or of the higher identifier (R99, R398). -/
def State.younger (s : State) (a b : Task) : Bool :=
  let age (t : Task) : Nat := ((s.lrec t.lr).ready).getD 0
  age b < age a || (age a == age b && decide (b.wid.toNat < a.wid.toNat))

/-- The youngest of some tasks. -/
def State.youngest (s : State) (l : List (Nat × Task)) : Option (Nat × Task) :=
  l.foldl (fun (b : Option (Nat × Task)) e =>
    match b with
    | none => some e
    | some x => if s.younger e.2 x.2 then some e else some x) none

/-- Tasks cut from a pool, the youngest that is left each time, until a test holds: the machine without them and the tasks, or none
(R99). -/
def State.cutUntil (fuel : Nat) (s : State) (done : State → Bool) (pool : State → List (Nat × Task)) :
    Option (State × List (Nat × Task)) :=
  if done s then some (s, [])
  else match fuel with
    | 0 => none
    | fuel + 1 =>
      match s.youngest (pool s) with
      | none => none
      | some (v, t) =>
        (State.cutUntil fuel (s.setTask v { t with life := .cut }) done pool).map fun x => (x.1, (v, t) :: x.2)

/-- The tasks of a core that a launch may pre-empt. -/
def State.corePool (s : State) (die core prio : Nat) : List (Nat × Task) :=
  (s.onCore die core).filter fun e => s.mayPreempt prio e.2

/-- The resident tasks of a core's cluster. -/
def State.onCluster (s : State) (die core : Nat) : List (Nat × Task) :=
  s.tasks.filter fun e => e.2.resident && e.2.die == die && e.2.core / 4 == core / 4

/-- The tasks of a core's cluster whose cuts free cluster SRAM: those of launches that hold some there, all of whose tasks there may be
pre-empted (R96, R99). -/
def State.clusterPool (s : State) (die core prio : Nat) : List (Nat × Task) :=
  let ts := s.onCluster die core
  ts.filter fun e => e.2.tt.clsd != 0 && ts.all fun o => o.2.lr != e.2.lr || s.mayPreempt prio o.2

/-- The victims that make a core able to hold a task, or none (R99): of its own tasks, the youngest until it has what the task takes of
it; then of its cluster's, the youngest until the cluster has room (DEDUCED, assumption 91: the rule says 'youngest first' and 'only as
many tasks as it needs', and a younger task is cut before an older one whose cut alone would do). -/
def State.victims (s : State) (die core lr prio : Nat) (tt : TaskType) (lots : Nat) : Option (List (Nat × Task)) :=
  (s.cutUntil 4 (·.coreHolds die core prio tt lots) (·.corePool die core prio)).bind fun x =>
    (x.1.cutUntil 16 (·.clusterHolds die core lr tt) (·.clusterPool die core prio)).map fun y => x.2 ++ y.2

/-- Whether some victims are to be cut before others: fewer, or younger from the first on (R99, R398; DEDUCED, assumption
12). -/
def State.victimsBefore (s : State) : List (Nat × Task) → List (Nat × Task) → Bool
  | [], [] => false
  | [], _ :: _ => true
  | _ :: _, [] => false
  | a :: l, b :: m =>
    if l.length != m.length then decide (l.length < m.length)
    else if s.younger a.2 b.2 then true
    else if s.younger b.2 a.2 then false
    else s.victimsBefore l m

/-- The core of a die whose victims are to be cut, with them. -/
def State.bestVictims (s : State) (die lr prio : Nat) (tt : TaskType) (lots : Nat) : Option (Nat × List Nat) :=
  ((List.range 32).foldl (fun (b : Option (Nat × List (Nat × Task))) c =>
    match s.victims die c lr prio tt lots with
    | none => b
    | some vs =>
      match b with
      | none => some (c, vs)
      | some (_, ws) => if s.victimsBefore vs ws then some (c, vs) else b) none).map fun x => (x.1, x.2.map (·.1))

/-- The machine once every cut of a task that leaves its core has ended. -/
def State.cutsDone (s : State) : State :=
  { s with tasks := s.tasks.map fun e => if e.2.life.leaving then (e.1, { e.2 with life := .cut }) else e }

/-- A launch a task of which waits for room on a die pre-empts the victims it needs there, beside those being cut (R99). -/
def State.preemptOn (s : State) (lr d : Nat) (tt : TaskType) : State :=
  let r := s.lrec lr
  match s.cutsDone.bestVictims d lr r.prio tt (s.lotDemand r.epoch tt) with
  | some (_, vs) => vs.foldl (fun s v => s.startCut v .preempt) s
  | none => s

/-- Victims of a gang launch: tasks are placed in order in a trial machine, and each that no core holds takes its victims there, on its
home die or the first granted die, in ascending virtual number, that has some (R99; DESIGN CHOICE, assumption 90: the rule does not
say on which die). -/
def State.gangVictims (fuel : Nat) (s : State) (lr n : Nat) (tt : TaskType) (acc : List Nat) : Option (List Nat) :=
  match fuel with
  | 0 => some acc
  | fuel + 1 =>
    let r := s.lrec lr
    let lots := s.lotDemand r.epoch tt
    let ds := match s.homeDie r tt (r.widOf n).toNat with
      | some v => v :: r.granted
      | none => r.granted
    let try1 (v : Nat) : Option (Nat × Nat × Nat) :=
      (s.physDie (r.ctx.getD 0) v).bind fun d => (s.pickCore d lr r.prio tt lots).map fun c => (v, d, c)
    match ds.findSome? try1 with
    | some (v, d, c) => State.gangVictims fuel (s.placeTask lr n v d c tt) lr (n + 1) tt acc
    | none =>
      match ds.findSome? fun v => (s.physDie (r.ctx.getD 0) v).bind fun d =>
          (s.bestVictims d lr r.prio tt lots).map fun x => (v, d, x) with
      | none => none
      | some (v, d, c, vs) =>
        let s := vs.foldl (fun s x => s.modTask x fun t => { t with life := .cut }) s
        State.gangVictims fuel (s.placeTask lr n v d c tt) lr (n + 1) tt (acc ++ vs)

/-- Serve one launch (R97 to R99). -/
def State.serve (s : State) (lr : Nat) : State :=
  let r := s.lrec lr
  match r.tt with
  | none => s
  | some tt =>
    let kept := s.reservedDies lr
    if r.gang then
      if (s.grantedDies r).any kept.contains then s
      else match s.placeGang r.total lr 0 tt with
        | some s' => s'.setRec lr { s'.lrec lr with next := r.total }
        | none =>
          match s.cutsDone.gangVictims r.total lr 0 tt [] with
          | some vs => vs.foldl (fun s v => s.startCut v .preempt) s
          | none => s
    else
      let shut := r.granted.filter fun v => match s.physDie (r.ctx.getD 0) v with
        | some d => kept.contains d
        | none => true
      let (s, full) := s.placeLoose (r.total - r.next) lr r.next tt shut []
      full.foldl (fun s d => s.preemptOn lr d tt) s

/-- The dispatcher serves the ready launches in order, up to and with `lr` (R98). -/
def State.dispatch (s : State) (lr : Nat) : State :=
  let order := s.service
  if order.contains lr then ((order.takeWhile (· != lr)) ++ [lr]).foldl State.serve s else s

/-! ### Die changes (R94) -/

/-- Some virtual numbers of a context that name die `d` are rebound to die `h` (R16): the running launches granted one of them hold `h`
from then on. -/
def State.rebindTo (s : State) (cid d h : Nat) (vs : List Nat) : State :=
  match Assoc.find s.ctxs cid with
  | none => s
  | some c =>
    let moved (e : Nat × Nat) : Bool := e.2 == d && vs.contains e.1
    let hit (r : LaunchRec) : Bool := r.state == .running && r.ctx == some cid && !r.onDies.contains h &&
      c.vdies.any fun e => moved e && r.granted.contains e.1
    { s with ctxs := Assoc.put s.ctxs cid { c with vdies := c.vdies.map fun e => if moved e then (e.1, h) else e },
             recs := s.recs.map fun e => if hit e.2 then (e.1, { e.2 with onDies := e.2.onDies ++ [h] }) else e }

/-- The logical cores of a die. -/
def Die.cores (x : Die) : Nat := 32 - x.lostCores.length

/-- The resident tasks of a launch on a die. -/
def State.launchOn (s : State) (lr d : Nat) : Nat :=
  (s.tasks.filter fun e => e.2.resident && e.2.lr == lr && e.2.die == d).length

/-- The free task slots of a die. -/
def State.freeSlots (s : State) (d : Nat) : Nat := 4 * (s.die d).cores - s.onDie d

/-- Whether a launch may lose a die, or gain one (R94). -/
def State.mayLose (s : State) (r : LaunchRec) (d : Nat) : Bool := s.dieWorks d && r.onDies.contains d && decide (r.minDie < r.dies)
def State.mayGain (s : State) (r : LaunchRec) (d : Nat) : Bool := s.dieWorks d && !r.onDies.contains d && decide (r.dies < r.maxDie)

/-- The bids of the dies with a change pending for a launch: physical die and bid (R94). -/
def State.changes (s : State) (lr : Nat) : List (Nat × Nat) :=
  let r := s.lrec lr
  let allowed := s.allowed (r.ctx.getD 0)
  ((r.onDies.filter fun d => s.mayLose r d && !allowed.contains d).map fun d => (d, 2 ^ 31 + (2 ^ 31 - 1 - s.launchOn lr d))) ++
  ((allowed.filter (s.mayGain r)).map fun d => (d, s.freeSlots d))

/-- The keys of the round of number 61 that is pending: the changes of the launch whose turn it is. -/
def State.changeKeys (s : State) : List Nat :=
  match s.evaluation.bind (·.changes) with
  | some (lr :: _) => (s.changes lr).map fun e => firmwareKey e.2 e.1
  | _ => []

/-- The keys of the election of the die that leads recovery: each working die's bid is as firmware chooses (R105). -/
def State.electionKeys (s : State) : List Nat :=
  match s.elections with
  | n :: _ => s.workingDies.map fun d => firmwareKey (Config.electionBid n d).toNat d
  | [] => []

end Sys2Proof.Machine
end

