-- ==== Sys2Proof/Machine/Ops.lean ====
section
/-! DEFINITION. The named operations every Turkar instruction is made of: registers (R116, R123), the issue clock, landing
and interlocks (R147 to R154), waiting, completing, taking a trap (R365 to R370, R375) and returning from one (R394). -/

namespace Sys2Proof.Machine

/-- A source register as its instruction reads it: at its issue, even when it has waited since (R149, R151). -/
def SeqState.rd (x : SeqState) (r : SReg) : Word :=
  match x.atIssue with
  | some regs => if r.code = 0 then 0 else Assoc.get 0 regs r.code
  | none => x.regAt r.code

/-- Pend the write of a scalar result; a write to x0 is never pending (R149). -/
def State.result (s : State) (tid : Nat) (q : Seq) (lat : Nat) (d : SReg) (v : Word) : State :=
  if d.code = 0 then s else s.modSq tid q (·.pend lat (.sreg d.code v))

/-! ### Named registers, interlocks and the checking scoreboard (R150, R153) -/

/-- A register an instruction's fields name: a scalar code, a physical vector register or a predicate. -/
inductive RegName where
  | s (code : Nat)
  | v (phys : Nat)
  | p (n : Nat)
  deriving DecidableEq, Repr

/-- A scalar register as a name. -/
def SReg.name (r : SReg) : RegName := .s r.code

/-- The register a pending write names; a store port has none. -/
def Late.name : Late → Option RegName
  | .sreg code _ => some (.s code)
  | .vreg phys _ _ => some (.v phys)
  | .preg n _ _ => some (.p n)
  | .sq _ _ _ => none

/-- Whether a register is pending under R150. -/
def SeqState.interlocked (x : SeqState) (n : RegName) : Bool := x.ilk.any fun i => n == .s i.code

/-- Whether a fixed-latency write of a register is pending (R153). -/
def SeqState.shadowed (x : SeqState) (n : RegName) : Bool := x.late.any fun w => w.what.name == some n

/-! ### Traps (R365 to R370, R375) -/

/-- A trap: class, cause space and code, TADDR, TINFO, whether TWORD holds the words, and ASYNC. -/
structure Trap where
  cls : Nat
  cspace : Nat
  cause : Nat
  addr : Nat
  info : Nat
  words : Bool
  async : Bool
  deriving DecidableEq, Repr

/-- A precise trap of a class with no cause. -/
def Trap.ofClass (cls : Nat) : Trap :=
  { cls := cls, cspace := 0, cause := 0, addr := 0, info := 0, words := true, async := false }

/-- The class of a fate of R131. -/
def fateClass : Fate → Nat
  | .illegalInstruction => 2 | .wrongSequencer => 3 | .illegalRegister => 4

/-- A matrix cause of R215, with its class. -/
def Trap.matrix (cause : Nat) : Trap := { Trap.ofClass (if 9 ≤ cause then 9 else 2) with cspace := 1, cause := cause }

/-- A sync cause of R316, with its class. -/
def Trap.sync (cause : Nat) : Trap :=
  { Trap.ofClass (if cause == 1 || cause == 8 || cause == 10 then 6 else 2) with cspace := 3, cause := cause }

/-- A machine check (R375). -/
def Trap.machineCheck (c : PendingCheck) : Trap :=
  { cls := 15, cspace := c.cspace, cause := c.cause, addr := c.addr.toNat, info := c.array, words := false,
    async := true }

/-- A machine check on data of an array, by its code (R366, R373). -/
def PendingCheck.ofArray (code addr : Nat) : PendingCheck :=
  { array := code, cspace := 6, cause := code, addr := BitVec.ofNat 64 addr }

/-- The trap of a refused access (R129, R165): address, alignment or translation; a poisoned TLB entry is a machine check
(R372, R375). -/
def Trap.access (w : Refuse) (addr : Nat) : Trap :=
  match w with
  | .address => { Trap.ofClass 6 with addr := addr }
  | .alignment => { Trap.ofClass 5 with addr := addr }
  | .translation c =>
    if poisonedEntry 0 ≤ c then Trap.machineCheck (PendingCheck.ofArray (c - poisonedEntry 0) addr)
    else { Trap.ofClass 10 with cspace := 5, cause := c, addr := addr }

/-- TREC of R367. -/
def Trap.trec (e : Trap) (q : Seq) : Word :=
  BitVec.ofNat 64 (e.cause * 2 ^ 48 + e.cspace * 2 ^ 44 + e.cls * 2 ^ 32 + q.code * 2 ^ 30 + (if e.async then 2 ^ 29 else 0))

/-- A record of R382 that concerns a task. -/
def EventRec.ofTask (kind : Nat) (t : Task) : EventRec :=
  { EventRec.plain kind with die := t.die, core := t.core, slot := t.slot, lrec := t.lr, wid := t.wid }

/-- A double trap: the task ends without retiring, its launch fails with Task fault, and a KIND 6 record is written
(R370, R382). -/
def State.doubleTrap (s : State) (tid : Nat) (e : Trap) : State :=
  match Assoc.find s.tasks tid with
  | none => s
  | some t =>
    let s := (s.removeTask tid).failLaunch t.lr 10
    s.post t.ctx { EventRec.ofTask 6 t with cls := e.cls, cspace := e.cspace, cause := e.cause, addr := e.addr,
                                            info := e.info, array := if e.cls == 15 then e.info else 0 }

/-- The waits behind a sequencer's marks, counted on a clock that stands `n` cycles ahead of the one before (R330). -/
def SeqState.shiftMarks (x : SeqState) (n : Int) : SeqState := { x with markWaits := x.markWaits.map fun e => (e.1, e.2 + n) }

/-- The saved PCs and trap registers of R367, and handler mode at TRAPV (R368 steps 3 to 5). The clock of a result that lands at a
stated cycle stops here: it lands as any other interlocked one. -/
def Task.enterHandler (t : Task) (q : Seq) (e : Trap) (words : Word) : Task :=
  let pc (r : Seq) : Word := (t.sq r).pc
  let k := t.kq
  { t with trec := e.trec q, tpck := pc .k, tpcl := pc .l, tpcw := pc .w, tpcc := pc .c,
           taddr := BitVec.ofNat 64 e.addr, tinfo := BitVec.ofNat 64 e.info, tword := if e.words then words else 0,
           handler := some { clk := k.clk, stall := k.stall, late := k.late },
           kq := { k.shiftMarks (-(k.clk : Int)) with
                   pc := t.tt.trapv, clk := 0, stall := 0, late := [], ilk := k.ilk.map fun i => { i with land := none } } }

/-- A machine check that arises in a handler is held for the first K-seq boundary after `rft` (R370); what raised it counts as
not issued. -/
def Task.holdCheck (t : Task) (e : Trap) : Task :=
  { t with kq := t.kq.stopped,
           checks := t.checks ++ [{ array := e.info, cspace := e.cspace, cause := e.cause, addr := BitVec.ofNat 64 e.addr }] }

/-- Taking a trap on a sequencer of a task (R368); one of class 1 to 14 in handler mode is a double trap (R370). A machine check
taken at a boundary is the K-seq's (R375). The turns of a core cycle are in the order of the sequencer codes, so that of two traps of
one cycle that of the lowest code is delivered, and the others' instructions do not issue (R369, assumption 52). -/
def State.takeTrap (s : State) (tid : Nat) (q : Seq) (e : Trap) : State :=
  match Assoc.find s.tasks tid with
  | none => s
  | some t =>
    if t.handler.isSome then
      if e.cls == 15 then (s.withdraw tid).modTask tid (·.holdCheck e) else s.doubleTrap tid e
    else
      let s := s.bump t.lr t.arming fun r => { r with traps := r.traps + 1 }
      (s.withdraw tid).modTask tid fun t => t.stopSeqs.enterHandler (if e.async then .k else q) e s.curWord

/-- Returning from a handler: the four sequencers resume at the saved PCs, with the clock, the stall and the late writes
set aside (R152, R394). -/
def Task.leaveHandler (t : Task) (h : HandlerSave) : Task :=
  { t with handler := none,
           kq := { t.kq.shiftMarks ((h.clk : Int) - t.kq.clk) with
                   pc := t.tpck, clk := h.clk, stall := h.stall, late := h.late, wait := none, waited := 0, hung := false,
                   atIssue := none, words := none },
           lq := { t.lq with pc := t.tpcl }, wq := { t.wq with pc := t.tpcw }, cq := { t.cq with pc := t.tpcc } }

/-! ### Issuing, completing and waiting (R147 to R151) -/

/-- The end of an instruction's issue cycle: the PC moves, the clock advances and S is counted from here (R148). -/
def State.complete (s : State) (tid : Nat) (q : Seq) (w : Stall) (pc : Word) : State :=
  s.modTask tid fun t => (t.modSq q fun x =>
    { x with pc := pc, clk := x.clk + 1, stall := w.val, wait := none, waited := 0, hung := false, atIssue := none,
             words := none, zero := none }).land q

/-- One cycle of a wait (R147). A wait of an instruction that has issued keeps its words and the registers it read (R130). -/
def State.waitCycle (s : State) (tid : Nat) (q : Seq) (why : Wait) (issued : Bool) : State :=
  s.modTask tid fun t => (t.modSq q fun x =>
    { x with clk := x.clk + 1, wait := some why, waited := x.waited + 1,
             atIssue := if issued then some (x.atIssue.getD x.regs) else none,
             words := if issued then some s.curWord else none }).land q

/-- What an instruction comes to in its cycle. -/
inductive Eff where
  /-- It completes, and the next in sequence follows. -/
  | done (s : State)
  /-- It completes, and control goes to `pc`. -/
  | jump (s : State) (pc : Word)
  /-- It has issued and blocks (R151). -/
  | wait (s : State) (why : Wait)
  /-- It waits at issue, and reads its registers when it issues. -/
  | hold (s : State) (why : Wait)
  /-- It is ready and waits for a unit that task slots share: its issue clock stands (R147, R154). -/
  | held (s : State)
  /-- It takes a precise trap. -/
  | trap (s : State) (e : Trap)
  /-- It takes a fate of its decoding, before anything that holds its issue (R131). -/
  | fate (s : State) (e : Trap)
  /-- The state is already what it leaves. -/
  | over (s : State)

/-- The next sequential PC of a sequencer. -/
def SeqState.nextPc (x : SeqState) (q : Seq) : Word := x.pc + BitVec.ofNat 64 q.size

/-- Settle what an instruction came to. -/
def Eff.settle (tid : Nat) (q : Seq) (w : Stall) (next : Word) : Eff → State
  | .done s => s.complete tid q w next
  | .jump s pc => s.complete tid q w pc
  | .wait s why => s.waitCycle tid q why true
  | .hold s why => s.waitCycle tid q why false
  | .trap s e => s.takeTrap tid q e
  | .fate s e => s.takeTrap tid q e
  | .held s => s
  | .over s => s

/-- Whether an effect is a fate of the decoding. -/
def Eff.isFate : Eff → Bool
  | .fate _ _ => true
  | _ => false

/-- Whether an instruction does not issue in this cycle. -/
def Eff.waitsAtIssue : Eff → Bool
  | .hold _ _ | .held _ => true
  | _ => false

/-- Whether the checking scoreboard traps an instruction: it issues in this cycle, and a register it names has a fixed-latency
write pending (R153). -/
def Task.shadowTrap (t : Task) (q : Seq) (names : List RegName) (e : Eff) : Bool :=
  t.tt.chk && (t.sq q).atIssue.isNone && !e.waitsAtIssue && names.any (t.sq q).shadowed

/-- Issue a Turkar instruction on the sequencer that moves: due writes land, the fates of its decoding come first (R131), a
named interlocked register holds it (R150), the checking scoreboard is consulted when it issues (R153), and its effect
follows. -/
def State.issue (s : State) (w : Stall) (names : Task → List RegName) (f : State → Nat → Seq → Task → Eff) :
    Host.Outcome State Fault Refusal :=
  match s.cur with
  | .seq tid q =>
    match Assoc.find s.tasks tid with
    | none => .fault .noIssuer
    | some t0 =>
      let t := t0.land q
      let x := t.sq q
      let s := s.setTask tid t
      let e := f s tid q t
      if !e.isFate && (names t).any x.interlocked then .next (s.waitCycle tid q .interlock false)
      else if !e.isFate && t.shadowTrap q (names t) e then .next (s.takeTrap tid q (Trap.ofClass 8))
      else .next (e.settle tid q w (x.nextPc q))
  | _ => .fault .noIssuer

/-- The names of some scalar registers. -/
def scalars (rs : List SReg) : Task → List RegName := fun _ => rs.map SReg.name

/-- A name for something that has issued and is outstanding: an access, an operation, a barrier. -/
def State.newUid (s : State) : Nat × State := (s.uid, { s with uid := s.uid + 1 })

/-! ### Interlocked results (R150) -/

/-- Mark a destination pending, its value known already. -/
def State.interlock (s : State) (tid : Nat) (q : Seq) (d : SReg) (v : Word) : State :=
  if d.code = 0 then s
  else s.modTask tid fun t => t.modSq q fun x =>
    { x with ilk := x.ilk ++ [{ code := d.code, val := some v, uid := 0, handler := t.handler.isSome, land := none }] }

/-- Mark a destination pending whose value lands `lat` cycles from its sequencer's present issue-clock cycle (R277). -/
def State.interlockAt (s : State) (tid : Nat) (q : Seq) (d : SReg) (lat : Nat) (v : Word) : State :=
  if d.code = 0 then s
  else s.modTask tid fun t => t.modSq q fun x =>
    { x with ilk := x.ilk ++ [{ code := d.code, val := some v, uid := 0, handler := t.handler.isSome,
                                land := some (x.clk + lat) }] }

/-- Mark a destination pending until the access `uid` gives its value. -/
def State.interlockOn (s : State) (tid : Nat) (q : Seq) (d : SReg) (uid : Nat) : State :=
  if d.code = 0 then s
  else s.modTask tid fun t => t.modSq q fun x =>
    { x with ilk := x.ilk ++ [{ code := d.code, val := none, uid := uid, handler := t.handler.isSome, land := none }] }

/-- The value of an access arrives: its register is to be written. -/
def SeqState.arrived (x : SeqState) (uid : Nat) (v : Word) : SeqState :=
  { x with ilk := x.ilk.map fun i => if i.uid == uid && i.val.isNone then { i with val := some v } else i }

/-- The access of a pending register writes nothing (R165): the register is no longer pending. -/
def SeqState.voided (x : SeqState) (uid : Nat) : SeqState :=
  { x with ilk := x.ilk.filter fun i => !(i.uid == uid && i.val.isNone) }

/-- Note a machine check for the next K-seq boundary (R375). -/
def State.noteCheck (s : State) (tid array addr : Nat) : State :=
  s.modTask tid fun t => { t with checks := t.checks ++ [PendingCheck.ofArray array addr] }

end Sys2Proof.Machine
end

