-- ==== Sys2Proof/Machine/Special.lean ====
section
/-! DEFINITION. Exact arithmetic on values (R176), and the special functions of R179. A result that is no dyadic number is
given truncated with one bit more, always 1, below at least 128 exact ones, so that every rounding of it is the rounding
of the exact result (assumption 15). -/

namespace Sys2Proof

/-! ### Exact arithmetic (R176) -/

/-- The sum of two values. An exact zero sum of operands of opposite sign is +0, or −0 under rdn. -/
def Ext.add (rnd : Rnd) (x y : Ext) : Ext :=
  match x, y with
  | .nan, _ => .nan
  | _, .nan => .nan
  | .inf s, .inf t => if s == t then .inf s else .nan
  | .inf s, _ => .inf s
  | _, .inf t => .inf t
  | .fin s₁ m₁ e₁, .fin s₂ m₂ e₂ =>
    let e := min e₁ e₂
    let v := numAt s₁ m₁ e₁ e + numAt s₂ m₂ e₂ e
    if v = 0 then .fin (if s₁ == s₂ then s₁ else rnd == .rdn) 0 e else .fin (decide (v < 0)) v.natAbs e

/-- The product of two values. -/
def Ext.mul (x y : Ext) : Ext :=
  match x, y with
  | .nan, _ => .nan
  | _, .nan => .nan
  | .inf s, .inf t => .inf (s != t)
  | .inf s, .fin t m _ => if m == 0 then .nan else .inf (s != t)
  | .fin s m _, .inf t => if m == 0 then .nan else .inf (s != t)
  | .fin s₁ m₁ e₁, .fin s₂ m₂ e₂ => .fin (s₁ != s₂) (m₁ * m₂) (e₁ + e₂)

/-- The smaller of two values; −0 counts as less than +0 (R178). -/
def Ext.min (x y : Ext) : Ext :=
  match x, y with
  | .nan, _ => .nan
  | _, .nan => .nan
  | _, _ => if x.lt y then x else if y.lt x then y else if x.isNeg then x else y

/-- The larger of two values; −0 counts as less than +0 (R178). -/
def Ext.max (x y : Ext) : Ext :=
  match x, y with
  | .nan, _ => .nan
  | _, .nan => .nan
  | _, _ => if x.lt y then y else if y.lt x then x else if x.isNeg then y else x

/-- A magnitude with one bit more below it: 1 when the value was cut there, 0 when it is exact. -/
def sticky (neg exact : Bool) (m : Nat) (e : Int) : Ext := .fin neg (2 * m + if exact then 0 else 1) (e - 1)

/-- The quotient of two values. -/
def Ext.div (x y : Ext) : Ext :=
  match x, y with
  | .nan, _ => .nan
  | _, .nan => .nan
  | .inf _, .inf _ => .nan
  | .inf s, .fin t _ _ => .inf (s != t)
  | .fin s _ _, .inf t => .fin (s != t) 0 0
  | .fin s₁ m₁ e₁, .fin s₂ m₂ e₂ =>
    if m₂ == 0 then (if m₁ == 0 then .nan else .inf (s₁ != s₂))
    else
      let n := m₁ * 2 ^ 256
      sticky (s₁ != s₂) (n % m₂ == 0) (n / m₂) (e₁ - e₂ - 256)

/-- The integer square root, bit by bit from bit `b − 1` down. -/
def isqrt (n : Nat) : Nat → Nat → Nat
  | 0, r => r
  | b + 1, r => isqrt n b (if (r + 2 ^ b) * (r + 2 ^ b) ≤ n then r + 2 ^ b else r)

/-- The square root of a value. -/
def Ext.sqrt (x : Ext) : Ext :=
  match x with
  | .nan => .nan
  | .inf s => if s then .nan else .inf false
  | .fin s m e =>
    if m == 0 then .fin s 0 e
    else if s then .nan
    else
      let (m, e) := if e % 2 == 0 then (m, e) else (2 * m, e - 1)
      let n := m * 2 ^ 320
      let r := isqrt n (n.log2 / 2 + 1) 0
      sticky false (r * r == n) r (e / 2 - 160)

/-! ### Special functions (R179) -/

/-- Fractional bits of the fixed-point numbers below. -/
def fixBits : Nat := 640

/-- One in fixed point. -/
def fixOne : Nat := 2 ^ fixBits

/-- The terms of e^y from the `k`-th on. -/
def expTerms (y : Nat) : Nat → Nat → Nat → Nat → Nat
  | 0, _, _, sum => sum
  | fuel + 1, k, term, sum =>
    let t := term * y / fixOne / k
    expTerms y fuel (k + 1) t (sum + t)

/-- e^y for y from 0 to 1. -/
def expFix (y : Nat) : Nat := expTerms y 160 1 fixOne fixOne

/-- The terms of the inverse hyperbolic tangent from the power `k` on. -/
def atanhTerms (yy : Nat) : Nat → Nat → Nat → Nat → Nat
  | 0, _, _, sum => sum
  | fuel + 1, k, pow, sum => atanhTerms yy fuel (k + 2) (pow * yy / fixOne) (sum + pow / k)

/-- artanh y for y from 0 to 1/3. -/
def atanhFix (y : Nat) : Nat := atanhTerms (y * y / fixOne) 210 1 y 0

/-- ln 2. -/
def ln2Fix : Nat := 2 * atanhFix (fixOne / 3)

/-- A finite value in fixed point, cut below. -/
def fixOf (neg : Bool) (m : Nat) (e : Int) : Int :=
  let v := scaleDown m (e + fixBits)
  if neg then -(v : Int) else v

/-- 2^x for a fixed-point x: a mantissa from 1 to 2 in fixed point, and an exponent. -/
def pow2Fix (x : Int) : Nat × Int := (expFix ((x % (fixOne : Int)).toNat * ln2Fix / fixOne), x / (fixOne : Int))

/-- e^x for a fixed-point x. -/
def expOf (x : Int) : Nat × Int := pow2Fix (x * fixOne / (ln2Fix : Int))

/-- The special functions, in the order of their F. -/
inductive SpecFn where
  | rcp | rsq | sqrt | exp2 | log2 | tanh | sigm
  deriving DecidableEq, Repr

/-- 2^a. -/
def exp2Of (s : Bool) (m : Nat) (e : Int) : Ext :=
  if m == 0 then .fin false 1 0
  else if 12 ≤ topExp m e then .fin false 1 (if s then -4096 else 4096)
  else
    let (p, n) := pow2Fix (fixOf s m e)
    sticky false (p == fixOne) p (n - fixBits)

/-- log₂ a of a positive a. -/
def log2Of (m : Nat) (e : Int) : Ext :=
  let p := 2 ^ m.log2
  if m == p then .ofInt (topExp m e)
  else
    let y := (m - p) * fixOne / (m + p)
    let v : Int := topExp m e * fixOne + ((2 * atanhFix y * fixOne / ln2Fix : Nat) : Int)
    if v < 0 then .fin true (2 * v.natAbs - 1) (-(fixBits : Int) - 1) else sticky false false v.natAbs (-(fixBits : Int))

/-- tanh of a nonzero magnitude. -/
def tanhOf (s : Bool) (m : Nat) (e : Int) : Ext :=
  if topExp m e < -64 then .fin s (m * 2 ^ 128 - 1) (e - 128)
  else if 7 ≤ topExp m e then .fin s (fixOne - 1) (-(fixBits : Int))
  else
    let (p, n) := expOf (-2 * fixOf false m e)
    let z := scaleDown p n
    sticky s false ((fixOne - z) * fixOne / (fixOne + z)) (-(fixBits : Int))

/-- 1 / (1 + e^−a) of a nonzero a. -/
def sigmOf (s : Bool) (m : Nat) (e : Int) : Ext :=
  if 12 ≤ topExp m e then (if s then .fin false 1 (-4096) else .fin false (fixOne - 1) (-(fixBits : Int)))
  else
    let (p, n) := expOf (-fixOf false m e)
    let z := scaleDown p n
    if s then
      if 8 ≤ topExp m e then sticky false false p (n - fixBits)
      else sticky false false (z * fixOne / (fixOne + z)) (-(fixBits : Int))
    else if 8 ≤ topExp m e then .fin false (fixOne - 1) (-(fixBits : Int))
    else sticky false false (fixOne * fixOne / (fixOne + z)) (-(fixBits : Int))

/-- The value of a special function (R179). -/
def SpecFn.value (f : SpecFn) (a : Ext) : Ext :=
  match f, a with
  | _, .nan => .nan
  | .rcp, x => Ext.div (.fin false 1 0) x
  | .rsq, .inf s => if s then .nan else .fin false 0 0
  | .rsq, .fin s m e => if m == 0 then .inf s else if s then .nan else
      let (m, e) := if e % 2 == 0 then (m, e) else (2 * m, e - 1)
      let n := 2 ^ 448 / m
      let r := isqrt n (n.log2 / 2 + 1) 0
      sticky false (r * r * m == 2 ^ 448) r (-224 - e / 2)
  | .sqrt, x => x.sqrt
  | .exp2, .inf s => if s then .zero else .inf false
  | .exp2, .fin s m e => exp2Of s m e
  | .log2, .inf s => if s then .nan else .inf false
  | .log2, .fin s m e => if m == 0 then .inf true else if s then .nan else log2Of m e
  | .tanh, .inf s => .fin s 1 0
  | .tanh, .fin s m e => if m == 0 then .fin s 0 0 else tanhOf s m e
  | .sigm, .inf s => if s then .zero else .fin false 1 0
  | .sigm, .fin s m e => if m == 0 then .fin false 1 (-1) else sigmOf s m e

end Sys2Proof
end

