-- ==== Sys2Proof/Machine/Tiles.lean ====
section
/-! DEFINITION. What a task's products hold: accumulator tiles (R204 to R209), busy tiles (R220), reserved ranges (R221) and
the shape word (R103). -/

namespace Sys2Proof.Machine

/-! ### Shapes (R103, R199) -/

/-- M of a shape word. -/
def shapeM (w : Word) : Nat := 16 * 2 ^ bits w.toNat 1 0
/-- N of a shape word. -/
def shapeN (w : Word) : Nat := 16 * bits w.toNat 7 2
/-- k0 of a shape word. -/
def shapeK0 (w : Word) : Nat := bits w.toNat 14 8
/-- The width code of a shape word; 7 is no shape. -/
def shapeWidth (w : Word) : Nat := bits w.toNat 23 21

/-- The number of tiles an M × N block spans (R199). -/
def blockTiles (m n : Nat) : Nat := (m / 16) * ceilDiv n 64

/-- The tiles a product names (R220). -/
def MatOp.tiles (o : MatOp) : List Nat := (List.range (blockTiles o.m o.n)).map (o.t0 + ·)

/-- The products of a task that have issued and whose batch has not retired. -/
def Task.products (t : Task) : List MatOp := t.openBatch.ops ++ t.batches.flatMap (·.ops)

/-- Whether an operation has added its last group step. -/
def MatOp.finished (o : MatOp) : Bool := decide (o.depth ≤ o.done)

/-- The products whose operands are reserved: a synchronous one until it completes (R221). -/
def Task.reserving (t : Task) : List MatOp :=
  t.products ++ ((t.sync.map (·.op)).filter fun o => !o.finished).toList

/-- Whether a tile is busy (R220). -/
def Task.tileBusy (t : Task) (n : Nat) : Bool := t.products.any fun o => o.tiles.contains n

/-! ### Reserved ranges (R221) -/

/-- The elements of a scale block of R49; 1 for an unscaled operand. -/
def blockLen (blk : Nat) : Nat := match blk with
  | 1 => 32 | 2 => 64 | 3 => 128 | _ => 1

/-- GPR of R217. -/
def Desc.gpr (d : Desc) : Nat := if d.blk == 0 then 0 else ceilDiv d.klen (blockLen d.blk)

/-- The stored positions that logical positions from `c` on, `n` of them, occupy in a panel row (R210, R218). -/
def Desc.stored (d : Desc) (c n : Nat) : Nat × Nat :=
  let hi := min (c + n) d.klen
  if d.sparse then (c / 2, (hi + 1) / 2) else (c, hi)

/-- The byte ranges of scratchpad, low and past high, that one side of a product reads. -/
def Selector.ranges (x : Selector) (rows depth : Nat) : List (Nat × Nat) :=
  let d := x.desc
  let w := d.ty.width
  let (lo, hi) := d.stored x.cur depth
  (List.range (min rows d.rows)).flatMap fun i =>
    let el := if hi ≤ lo then [] else [(d.eoff + i * d.pitch + lo * w / 8, d.eoff + i * d.pitch + (hi * w + 7) / 8)]
    let b := blockLen d.blk
    let top := min (x.cur + depth) d.klen
    let sc := if d.blk == 0 || top ≤ x.cur then []
      else [(d.soff + 4 * (i * d.gpr + x.cur / b), d.soff + 4 * (i * d.gpr + (top - 1) / b + 1))]
    el ++ sc

/-- The logical depth of a product (R218). -/
def MatOp.logical (o : MatOp) : Nat := o.k0 * o.depth * (if o.sparse then 2 else 1)

/-- The scratchpad ranges of a product. -/
def MatOp.ranges (o : MatOp) : List (Nat × Nat) := o.a.ranges o.m o.logical ++ o.b.ranges o.n o.logical

/-- The first nibble of a product's metadata (R218). -/
def MatOp.nibbles (o : MatOp) : Nat := 2 * o.a.desc.moff + o.m * o.a.cur / 4

/-- The metadata ranges, in bytes, that a product reads for its logical positions from `c` on, `n` of them: rows from ROWS on and
positions from KLEN on read and reserve nothing (R218). -/
def MatOp.mdPart (o : MatOp) (c n : Nat) : List (Nat × Nat) :=
  let d := o.a.desc
  let runs := ceilDiv (min (c + n) d.klen - c) 4
  if !o.sparse || runs == 0 then []
  else (List.range (min o.m d.rows)).map fun i =>
    let k := o.nibbles + i * (o.logical / 4) + (c - o.a.cur) / 4
    (k / 2, (k + runs + 1) / 2)

/-- The metadata ranges of a product. -/
def MatOp.mdRanges (o : MatOp) : List (Nat × Nat) := o.mdPart o.a.cur o.logical

/-- x and y of a GEMV operation (R240): EXT0 elements of x and EXT1 outputs. A pending one reserves what its block named at its
fork. -/
def EngOp.ranges (o : EngOp) : List (Nat × Nat) :=
  match o.job with
  | .gemv tsr _ xoff yoff _ xtype yf32 _ _ =>
    let e0 := field tsr 159 128
    let e1 := field tsr 191 160
    let w := match NumType.ofCode xtype with
      | some t => t.width
      | none => 8
    if o.fault.isSome then []
    else [(xoff, xoff + (e0 * w + 7) / 8), (yoff, yoff + e1 * (if yf32 then 4 else 8))]
  | .pending _ => o.reserve
  | _ => []

/-- Whether two ranges overlap. -/
def overlaps (r : Nat × Nat) (lo hi : Nat) : Bool := decide (r.1 < hi) && decide (lo < r.2)

/-- Whether scratchpad bytes from `lo` up to `hi` meet a reservation. -/
def Task.spadReserved (t : Task) (lo hi : Nat) : Bool :=
  t.reserving.any (fun o => o.ranges.any fun r => overlaps r lo hi) || t.eng.any fun o => o.ranges.any fun r => overlaps r lo hi

/-- Whether metadata bytes from `lo` up to `hi` meet a reservation. -/
def Task.mdReserved (t : Task) (lo hi : Nat) : Bool :=
  t.reserving.any fun o => o.mdRanges.any fun r => overlaps r lo hi

/-- Whether a write of `n` bytes to a place of the task is held (R221). -/
def Task.holdsWrite (t : Task) (pl : Place) (n : Nat) : Bool :=
  match pl with
  | .spad o => t.spadReserved o (o + n)
  | .md o => t.mdReserved o (o + n)
  | .acc o => t.tileBusy (o / 8192)
  | _ => false

/-! ### Tiles (R204, R205, R207) -/

/-- A mantissa word of a tile. -/
def Tile.word (x : Tile) (k : Nat) : Word := Assoc.get 0 x.m k

/-- The full headroom. -/
def headMax : Nat := 2 ^ 62 - 1

/-- The largest magnitude among a tile's mantissa words. -/
def Tile.largest (x : Tile) : Nat := x.m.foldl (fun n e => max n e.2.toInt.natAbs) 0

/-- HEAD as R207 sets it. -/
def Tile.rehead (x : Tile) : Tile := { x with head := headMax - x.largest }

/-- Change every mantissa word that is not 0, by a function that keeps 0. -/
def Tile.mapWords (x : Tile) (f : Int → Int) : Tile :=
  { x with m := x.m.filterMap fun e => let v := BitVec.ofInt 64 (f e.2.toInt); if v = 0 then none else some (e.1, v) }

/-- The exponent word of R204. -/
def Tile.expWord (x : Tile) : Word :=
  BitVec.ofNat 64 ((if x.ote then 2 ^ 63 else 0) + (if x.nan then 2 ^ 62 else 0) + (if x.psn then 2 ^ 61 else 0)
    + wrap 16 x.x)

/-- The guard word of R204. -/
def Tile.guardWord (x : Tile) : Word :=
  BitVec.ofNat 64 ((if x.ovf then 2 ^ 63 else 0) + (if x.osgn then 2 ^ 62 else 0) + x.head)

/-- Division by 2^s truncating toward zero. -/
def truncShift (x : Int) (s : Nat) : Int := Int.tdiv x ((2 ^ s : Nat) : Int)

/-- The exact value of a mantissa word (R204). -/
def Tile.value (x : Tile) (k : Nat) : Ext :=
  let v := (x.word k).toInt
  .fin (decide (v < 0)) v.natAbs x.x

/-- Update a tile of a listed task. -/
def State.modTile (s : State) (tid n : Nat) (f : Tile → Tile) : State := s.modTask tid fun t => t.setTile n (f (t.tile n))

/-- One indivisible access to a mantissa word (R326): the tile after it, and the word before it. `ty` is 0 i64, 1 fxa,
2 f32; `fn` numbers the instruction. -/
def Tile.atomic (x : Tile) (fn ty word : Nat) (b : Word) : Tile × Word :=
  let m := x.word word
  let put (x : Tile) (v : Word) : Tile := { x with m := Assoc.set 0 x.m word v }
  let add : Tile :=
    if ty == 2 then
      let sum : Ext := (valOf .f32 (m.toNat % 2 ^ 32)).add .rne (valOf .f32 (b.toNat % 2 ^ 32))
      put x (BitVec.ofNat 64 (convert .f32 sum .rne false 0))
    else
      let exact := m.toInt + b.toInt
      let y := put x (m + b)
      if ty == 1 && (exact < -(2 ^ 63) || (2 ^ 63 : Int) ≤ exact) && !x.ovf then
        { y with ovf := true, osgn := decide (exact < 0) }
      else y
  match fn with
  | 0 => (add, m)
  | 1 => (add, m)
  | 3 => (x, m)
  | _ => (put x b, m)

end Sys2Proof.Machine
end

