-- ==== Sys2Proof/Machine/Order.lean ====
section
/-! DEFINITION. Order (R288 to R299): which accesses of a task are outstanding, what holds one behind a fence or a mark,
and the performing of held `lds`, `sts` and ACCAT accesses. -/

namespace Sys2Proof.Machine

/-- The access classes of R294, by bit. -/
inductive Class where
  | ld | st | eng | xl
  deriving DecidableEq, Repr

/-- The bit of a class in a set. -/
def Class.bit : Class → Nat
  | .ld => 0 | .st => 1 | .eng => 2 | .xl => 3

/-- Whether a set holds a class. -/
def inSet (set : BitVec 5) (c : Class) : Bool := set.getLsbD c.bit

/-- The classes of a held access (R294, R317). -/
def HeldAccess.classes : HeldAccess → List Class
  | .load _ _ _ => [.ld]
  | .store _ _ _ _ => [.st]
  | .peer fn _ _ => if fn == 3 then [.ld] else if fn == 0 || fn == 4 then [.st] else [.ld, .st]

/-- The generators a sequencer's walks run on (R260): none for the K-seq and C-seq. -/
def gensOf : Seq → List Nat
  | .l => [0, 1, 2, 3] | .w => [4, 5, 6, 7] | _ => []

/-- A generator of a task. -/
def Task.gen (t : Task) (g : Nat) : Gen := Assoc.get Gen.start t.gens g

/-- Replace a generator of a task. -/
def Task.setGen (t : Task) (g : Nat) (x : Gen) : Task := { t with gens := Assoc.set Gen.start t.gens g x }

/-- The names of a generator's sets. -/
def Gen.uids (x : Gen) : List Nat := (x.active.toList ++ x.queued.toList).map (·.uid)

/-- What a sequencer has issued in a set of classes and is outstanding (R294, R295). -/
def Task.outstandingOf (t : Task) (q : Seq) (set : BitVec 5) : List Nat :=
  let x := t.sq q
  let held := ((x.held ++ x.peers).filter fun h => h.acc.classes.any (inSet set)).map (·.uid)
  let walks := if inSet set (if q == .l then .ld else .st) then (gensOf q).flatMap fun g => (t.gen g).uids else []
  let ops := if inSet set .eng then
      (t.eng.filter fun o => o.seq == q.code).map (·.uid) ++ (if q == .c then t.reserving.map (·.uid) else [])
    else []
  held ++ walks ++ ops

/-- Everything of a task that is outstanding, barriers included. -/
def Task.outstanding (t : Task) : List Nat :=
  Seq.all.flatMap fun q => t.outstandingOf q 0b01111 ++ (t.sq q).barriers.map (·.id)

/-- Whether nothing in a list is outstanding. -/
def Task.clear (t : Task) (after : List Nat) : Bool := after.all fun u => !t.outstanding.contains u

/-- The pending fences and marks of a sequencer that hold an access of some classes. -/
def SeqState.holders (x : SeqState) (cs : List Class) : List Nat :=
  (x.barriers.filter fun b => cs.any (inSet b.holds)).map (·.id)

/-- Whether a barrier is a fence. -/
def Barrier.isFence (b : Barrier) : Bool := b.partner.isNone && b.fork.isNone

/-- Whether a mark of the sequencer is pending (R293). -/
def SeqState.marking (x : SeqState) : Bool := x.barriers.any (·.partner.isSome)

/-- The pending fences of a sequencer (R296). -/
def SeqState.fences (x : SeqState) : List Nat := (x.barriers.filter (·.isFence)).map (·.id)

/-- Whether a fence of the sequencer is pending (R296). -/
def SeqState.fencing (x : SeqState) : Bool := x.barriers.any (·.isFence)

/-- Whether a fence with code in Q is pending: the sequencer's fetches wait for it (R295, R300). -/
def SeqState.codeHeld (x : SeqState) : Bool := x.barriers.any fun b => b.isFence && b.holds.getLsbD 4

/-- The addresses at which a range of `n` bytes meets its 64 KiB pages, the smallest of R249. -/
def pagesOf (va n : Nat) : List Nat :=
  if n == 0 then []
  else ((List.range (n / 65536 + 2)).map fun k => min (va + 65536 * k) (va + n - 1)).filter fun a => regionOf a == 0

/-- The page walks that accesses to a range start on a TLB miss leave their results in the TLBs (R251). -/
def State.keepVa (s : State) (t : Task) (va n : Nat) : State :=
  (pagesOf va n).foldl (fun s a => s.keepWalk t.die t.core t.ctx a) s

/-- The pending fences of a sequencer with xl in Q: they hold the page walks of its later accesses (R295). -/
def SeqState.xlFences (x : SeqState) : List Nat := (x.barriers.filter fun b => b.isFence && inSet b.holds .xl).map (·.id)

/-- Whether a range needs a page walk that one of some fences holds: a translation that a TLB has is used, and a window needs
none (R295, R301). -/
def State.walkHeldBy (s : State) (t : Task) (fences : List Nat) (va n : Nat) : Bool :=
  !t.clear fences && (pagesOf va n).any fun a => (s.tlbFind t.die t.core (s.asidOf t.ctx) a).isNone

/-- Whether an access that issues now needs a page walk that a pending fence of its sequencer holds. -/
def State.walkHeld (s : State) (t : Task) (q : Seq) (va n : Nat) : Bool := s.walkHeldBy t (t.sq q).xlFences va n

/-- The class of the accesses with which an instruction of a sequencer waits at its issue (R225, R267, R294). -/
def issueClass : Seq → Class
  | .c => .ld
  | _ => .st

/-- Whether an access of a sequencer waits behind a barrier: a held access, a queued walk, an operation, a fork's copies, or
the access of an instruction that waits at issue (`mtile`, `czero`). -/
def Task.waitsBehind (t : Task) (q : Seq) (id : Nat) : Bool :=
  let x := t.sq q
  (x.held ++ x.peers).any (fun h => h.after.contains id) ||
  x.barriers.any (fun b => b.fork.isSome && b.preds.contains id) ||
  (x.wait == some .fence && !x.codeHeld && x.barriers.any fun b => b.id == id && inSet b.holds (issueClass q)) ||
  (gensOf q).any (fun g => ((t.gen g).active.toList ++ (t.gen g).queued.toList).any fun a => a.after.contains id) ||
  t.eng.any (fun o => o.seq == q.code && o.after.contains id) ||
  (q == .c && t.products.any fun o => o.after.contains id)

/-- Whether a sequencer has accesses held behind a marker (R331). -/
def Task.marked (t : Task) (q : Seq) : Bool :=
  (t.sq q).barriers.any fun b => b.partner.isSome && t.waitsBehind q b.id

/-- The marks of a sequencer whose partner has not marked and behind which accesses of the sequencer are held (R330). -/
def Task.marksWaiting (t : Task) (q : Seq) : List Nat :=
  ((t.sq q).barriers.filter fun b => match b.partner.bind Seq.ofCode with
    | some d => decide (Assoc.get 0 (t.sq d).marks q.code < b.k) && t.waitsBehind q b.id
    | none => false).map (·.id)

/-- Note, for each mark, when the wait behind it began, on the issue clock of its sequencer, and when it has ended (R330). -/
def Task.countMarks (t : Task) (q : Seq) : Task :=
  let ids := t.marksWaiting q
  t.modSq q fun x => { x with
    markWaits := ids.foldl (fun m id => if (Assoc.find m id).isSome then m else Assoc.put m id ((x.clk : Int) + 1))
      (x.markWaits.filter fun e => ids.contains e.1),
    markHung := x.markHung.filter ids.contains }

/-- Whether a task's accesses and engines move: it is resident, and its die's clock runs (R13). -/
def State.moves (s : State) (t : Task) : Bool := t.resident && !(s.die t.die).halted

/-! ### Performing (R165, R166, R327) -/

/-- The place a held access goes to: by the translation of now, or the one of its issue (R301). -/
def State.placeNow (s : State) (t : Task) (addr : Nat) (n : Need) (pl : Place) : Place :=
  match s.resolve t addr n with
  | .ok p => p
  | .error _ => pl

/-- Perform a load of the K-seq: its value arrives, or its data is poisoned and a machine check is due (R165, R375). -/
def State.performLoad (s : State) (tid : Nat) (t : Task) (uid : Nat) (addr : Word) (width : Nat) (pl : Place) : State :=
  match s.poisonSeen tid t pl with
  | some code => (s.modSq tid .k (·.voided uid)).noteCheck tid code addr.toNat
  | none =>
    let (bs, s) := s.readPlace t pl width true
    s.modSq tid .k (·.arrived uid (BitVec.ofNat 64 (leNat bs)))

/-- The task a peer reference names: a live task of the same launch and arming (R325). -/
def State.peerOf (s : State) (t : Task) (pid : Nat) : Option (Nat × Task) :=
  s.tasks.find? fun e => e.2.lr == t.lr && e.2.arming == t.arming && e.2.wid.toNat == pid

/-- The fields of an accumulator reference (R325): TY, PID, PEER, TILE, WORD. -/
def refTy (r : Word) : Nat := bits r.toNat 51 50
def refPid (r : Word) : Nat := bits r.toNat 49 18
def refPeer (r : Word) : Bool := bitAt r.toNat 17
def refTile (r : Word) : Nat := bits r.toNat 14 10
def refWord (r : Word) : Nat := bits r.toNat 9 0

/-- The core-local address of an accumulator word (R243). -/
def accAddr (tile word : Nat) : Nat := 0xFF0 * 2 ^ 48 + 0x100000 + 8192 * tile + 8 * word

/-- The array code with which a word of a task's tile is poisoned (R373). -/
def State.accPoison (s : State) (owner tile word : Nat) : Option Nat :=
  s.poisonAt (.acc owner ((8192 * tile + 8 * word) / 64 * 8))

/-- Perform one atomic access on a tile of task `owner`: the state after it, and the word before it (R326). -/
def State.atomicAt (s : State) (owner : Nat) (fn : Nat) (r b : Word) : State × Word :=
  match Assoc.find s.tasks owner with
  | none => (s, 0)
  | some t =>
    let (x, m) := (t.tile (refTile r)).atomic fn (refTy r) (refWord r) b
    (s.setTask owner (t.setTile (refTile r) x), m)

/-- An atomic access that reads its word meets a poisoned sector: it takes nothing, and a machine check is due (R375). -/
def State.atomicPoison (s : State) (owner fn : Nat) (r : Word) : Option Nat :=
  if fn == 4 then none else s.accPoison owner (refTile r) (refWord r)

/-- Whether an ACCAT instruction reads its word into a register (R326). -/
def atomicReads (fn : Nat) : Bool := fn == 1 || fn == 2 || fn == 3

/-- Perform a peer access, unless its tile is busy or its task is cut (R327). One that reads a tile whose PSN has been set
since its issue takes the Poisoned cause at the boundary its sequencer stands at, out of handler mode (DEDUCED, assumption
60). A peer that has retired meanwhile takes nothing and gives a free value: the spec states none. -/
def State.performPeer (s : State) (tid : Nat) (q : Seq) (t : Task) (uid fn : Nat) (r b : Word) : Option State :=
  match s.peerOf t (refPid r) with
  | none =>
    let v := BitVec.ofNat 64 (Config.freeChoice s.fresh)
    some (({ s with fresh := s.fresh + 1 } : State).modSq tid q (·.arrived uid v))
  | some (owner, p) =>
    if !s.moves p || p.tileBusy (refTile r) then none
    else if atomicReads fn && (p.tile (refTile r)).psn then
      if t.handler.isSome then none
      else some ((s.modSq tid q (·.voided uid)).takeTrap tid q { Trap.matrix 10 with words := false })
    else match s.atomicPoison owner fn r with
      | some code => some ((s.modSq tid q (·.voided uid)).noteCheck tid code (accAddr (refTile r) (refWord r)))
      | none =>
        let (s, m) := s.atomicAt owner fn r b
        some (s.modSq tid q (·.arrived uid m))

/-- Perform a held access, if nothing holds it any longer. -/
def State.perform (s : State) (tid : Nat) (q : Seq) (t : Task) (h : Held) : Option State :=
  match h.acc with
  | .load a w pl => some ((s.keepVa t a.toNat w).performLoad tid t h.uid a w (s.placeNow t a.toNat .read pl))
  | .store a w v pl =>
    let p := s.placeNow t a.toNat .write pl
    if t.holdsWrite p w then none else some ((s.keepVa t a.toNat w).writePlace tid p (toBytes w v.toNat) true)
  | .peer fn r b => s.performPeer tid q t h.uid fn r b

/-- Perform what can be performed of a sequencer's `lds` and `sts`, in order (R166). -/
def State.drainHeld (fuel : Nat) (s : State) (tid : Nat) : State :=
  match fuel with
  | 0 => s
  | fuel + 1 =>
    match Assoc.find s.tasks tid with
    | none => s
    | some t =>
      match t.kq.held with
      | [] => s
      | h :: rest =>
        if !t.clear h.after then s
        else match s.perform tid .k t h with
          | none => s
          | some s => State.drainHeld fuel (s.modSq tid .k fun x => { x with held := rest }) tid

/-- Perform what can be performed of a sequencer's peer accesses, in order (R327). -/
def State.drainPeers (fuel : Nat) (s : State) (tid : Nat) (q : Seq) : State :=
  match fuel with
  | 0 => s
  | fuel + 1 =>
    match Assoc.find s.tasks tid with
    | none => s
    | some t =>
      match (t.sq q).peers with
      | [] => s
      | h :: rest =>
        if !t.clear h.after then s
        else match s.perform tid q t h with
          | none => s
          | some s => State.drainPeers fuel (s.modSq tid q fun x => { x with peers := rest }) tid q

/-! ### HOLDCNT (R221) -/

/-- HOLDCNT grows by the cycles for which a write into a task's reservations is found held: by one at least for the first write
found so since a reservation last ended, and by a free number beyond, for the spec publishes no duration and cycles in which
several writes are held count once (assumption 13). -/
def State.tickHeld (s : State) (tid : Nat) : State :=
  let n := Config.freeCycles s.fresh
  ({ s with fresh := s.fresh + 1 } : State).modTask tid fun t =>
    { t with holdcnt := t.holdcnt + BitVec.ofNat 64 (if t.holding then n else n + 1), holding := true }

/-- A reservation of a task has ended (R221). -/
def Task.unreserve (t : Task) : Task := { t with holding := false }

/-- Whether an access of the K-seq that no barrier holds is an `sts` held on a reservation (R221). -/
def Task.heldStore (t : Task) (h : Held) : Bool :=
  t.clear h.after && (match h.acc with
    | .store _ n _ pl => t.holdsWrite pl n
    | _ => false)

/-- Whether the oldest access of a task's K-seq is an `sts` held on a reservation. -/
def Task.storeHeld (t : Task) : Bool := t.kq.held.head?.any t.heldStore

/-- Whether an atomic write of another task is held on a busy tile of a task (R221, R327). -/
def State.peerHeld (s : State) (tid : Nat) (p : Task) : Bool :=
  s.tasks.any fun e => [Seq.k, Seq.w].any fun q => ((e.2.sq q).peers.head?.filter fun h => e.2.clear h.after).any fun h =>
    match h.acc with
    | .peer fn r _ => fn != 3 && p.tileBusy (refTile r) && (s.peerOf e.2 (refPid r)).any fun o => o.1 == tid
    | _ => false

/-- Count the cycles of a held `sts` or peer access when the owner of a reservation makes progress. -/
def State.tickStore (s : State) (tid : Nat) : State :=
  match Assoc.find s.tasks tid with
  | some t => if t.storeHeld || s.peerHeld tid t then s.tickHeld tid else s
  | none => s

/-- Count an `sts`, or a peer access, that is found held (R221). -/
def State.countHold (s : State) (tid : Nat) : State :=
  match Assoc.find s.tasks tid with
  | some t => if !t.holding && (t.storeHeld || s.peerHeld tid t) then s.tickHeld tid else s
  | none => s

/-! ### Settling -/

/-- Perform what can be performed of one task's accesses. -/
def State.settleTask (s : State) (tid : Nat) : State :=
  match Assoc.find s.tasks tid with
  | none => s
  | some t =>
    let s := s.drainHeld t.kq.held.length tid
    let s := s.drainPeers t.kq.peers.length tid .k
    (s.drainPeers t.wq.peers.length tid .w).countHold tid

/-- Perform what can be performed of the accesses of every task that moves. -/
def State.settle (s : State) : State :=
  (s.tasks.filter fun e => s.moves e.2).foldl (fun s e => s.settleTask e.1) s

/-- Issue an access of the K-seq: it joins the queue, and is performed at once when nothing holds it. -/
def State.access (s : State) (tid : Nat) (uid : Nat) (acc : HeldAccess) (after : List Nat) : State :=
  let s := s.modSq tid .k fun x => { x with held := x.held ++ [{ uid := uid, acc := acc, after := after }] }
  match Assoc.find s.tasks tid with
  | none => s
  | some t => s.drainHeld t.kq.held.length tid

/-- Issue a peer access. -/
def State.accessPeer (s : State) (tid : Nat) (q : Seq) (uid : Nat) (acc : HeldAccess) (after : List Nat) : State :=
  let s := s.modSq tid q fun x => { x with peers := x.peers ++ [{ uid := uid, acc := acc, after := after }] }
  match Assoc.find s.tasks tid with
  | none => s
  | some t => s.drainPeers (t.sq q).peers.length tid q

end Sys2Proof.Machine
end

