-- ==== Sys2Proof/Machine/Cache.lean ====
section
/-! DEFINITION. The CACHE group (R267), the write-back and invalidate actions of a fence (R268), and what becomes of a
page walk (R251). -/

namespace Sys2Proof.Machine

/-- The largest range of a CACHE instruction. -/
def cacheMax : Nat := 2 ^ 21

/-- The first address of every 64-byte sector that overlaps a range. -/
def sectorsOf (a n : Nat) : List Nat :=
  if n == 0 then [] else (List.range ((a + n - 1) / 64 - a / 64 + 1)).map fun k => 64 * (a / 64 + k)

/-- Apply an operation on one place to every sector of a range that resolves. -/
def State.eachSector (s : State) (t : Task) (need : Need) (l : List Nat) (f : State → Place → State) : State :=
  l.foldl (fun s a => match s.resolve t a need with
    | .ok pl => f s pl
    | .error _ => s) s

/-- The L1 of a task's core. -/
def Task.l1Key (t : Task) : Nat := 32 * t.die + t.core

/-- `pref` on one sector. -/
def State.prefSector (s : State) (t : Task) (pl : Place) : State :=
  match pl with
  | .phys pa st => if isHostPa pa then s else s.allocate t.l1Key (s.asidOf t.ctx) pa st true
  | _ => s

/-- `cwb` on one sector. -/
def State.cwbSector (s : State) (t : Task) (pl : Place) : State :=
  match pl with
  | .phys pa _ => if isHostPa pa then s else s.cleanSector t.l1Key pa
  | _ => s

/-- `cwbi` on one sector. -/
def State.cwbiSector (s : State) (t : Task) (pl : Place) : State :=
  match pl with
  | .phys pa _ => if isHostPa pa then s else s.flushSector t.l1Key pa
  | _ => s

/-- `cinv` on one sector: only a dirty streaming sector of the own ASID is discarded unwritten. -/
def State.cinvSector (s : State) (t : Task) (pl : Place) : State :=
  match pl with
  | .phys pa _ =>
    if isHostPa pa then s
    else match s.lineOf t.l1Key pa with
      | some l =>
        let x := l.sector pa
        if x.streaming && x.dirty && l.asid == s.asidOf t.ctx then s.dropSector t.l1Key pa else s.flushSector t.l1Key pa
      | none => s
  | _ => s

/-- A CACHE instruction with its checks: the range, `czero`'s alignment and each page's translation, all precise. -/
def State.cacheOp (s : State) (w : Stall) (a b : SReg) (need : Need) (aligned : Bool)
    (f : State → Nat → Seq → Task → Nat → Nat → Eff) : Host.Outcome State Fault Refusal :=
  s.issue w (scalars [a, b]) fun s tid q t =>
    let x := ((t.sq q).rd a).toNat
    let n := ((t.sq q).rd b).toNat
    if 2 ^ 60 ≤ x || cacheMax < n then .trap s { Trap.ofClass 6 with addr := x }
    else if aligned && (x % 64 != 0 || n % 64 != 0) then .trap s { Trap.ofClass 5 with addr := x }
    else if s.walkHeld t q x n then .hold s .fence
    else match s.checkVa t x n need with
      | .error e => .trap s (Trap.access e.why e.addr)
      | .ok () => f (s.keepVa t x n) tid q t x n

/-- `pref xa, xb` (R267): it translates without a fault, and waits for nothing. A sector whose page walk a fence holds is dropped as
one that does not translate is (R295; DEDUCED, assumption 95). -/
def execPref (w : Stall) (a b : SReg) (s : State) : Host.Outcome State Fault Refusal :=
  s.issue w (scalars [a, b]) fun s _ q t =>
    let x := ((t.sq q).rd a).toNat
    let n := ((t.sq q).rd b).toNat
    if 2 ^ 60 ≤ x || cacheMax < n then .trap s { Trap.ofClass 6 with addr := x }
    else .done (s.eachSector t .read ((sectorsOf x n).filter fun a => !s.walkHeld t q a 1) fun s pl => s.prefSector t pl)

/-- `cwb xa, xb` (R267). -/
def execCwb (w : Stall) (a b : SReg) (s : State) : Host.Outcome State Fault Refusal :=
  s.cacheOp w a b .nothing false fun s _ _ t x n =>
    .done (s.eachSector t .nothing (sectorsOf x n) fun s pl => s.cwbSector t pl)

/-- `cinv xa, xb` (R267). -/
def execCinv (w : Stall) (a b : SReg) (s : State) : Host.Outcome State Fault Refusal :=
  s.cacheOp w a b .nothing false fun s _ _ t x n =>
    .done (s.eachSector t .nothing (sectorsOf x n) fun s pl => s.cinvSector t pl)

/-- `cwbi xa, xb` (R267). -/
def execCwbi (w : Stall) (a b : SReg) (s : State) : Host.Outcome State Fault Refusal :=
  s.cacheOp w a b .nothing false fun s _ _ t x n =>
    .done (s.eachSector t .nothing (sectorsOf x n) fun s pl => s.cwbiSector t pl)

/-- Whether a place lies in the accumulator or the metadata region, which `czero` does not reach (R243). -/
def Place.shut : Place → Bool
  | .acc _ | .md _ => true
  | _ => false

/-- The first address of some that resolves to a place `czero` does not reach. -/
def State.shutAt (s : State) (t : Task) (l : List Nat) : Option Nat :=
  l.find? fun a => match s.resolve t a .write with
    | .ok pl => pl.shut
    | .error _ => false

/-- Whether a `czero` of some sectors is held on a reservation or a busy tile (R221). -/
def State.zeroHeld (s : State) (t : Task) (l : List Nat) : Bool := l.any fun a => match s.resolve t a .write with
  | .ok pl => t.holdsWrite pl 64
  | .error _ => false

/-- Write zeros to some sectors of a task. -/
def State.zeroSectors (s : State) (tid : Nat) (t : Task) (l : List Nat) : State :=
  s.eachSector t .write l fun s pl => s.writePlace tid pl (List.replicate 64 0) true

/-- A held `czero` of a sequencer whose last reservation has ended lands, and completes (R221, R286). -/
def State.landZero (s : State) (tid : Nat) (q : Seq) : State :=
  match Assoc.find s.tasks tid with
  | none => s
  | some t =>
    match (t.sq q).zero with
    | none => s
    | some (x, n, stall) =>
      if s.zeroHeld t (sectorsOf x n) then s
      else (s.zeroSectors tid t (sectorsOf x n)).complete tid q stall ((t.sq q).nextPc q)

/-- `czero xa, xb` (R267): held behind the fences and marks that hold its sequencer's stores (R294), and while a sector of
the range is reserved or its tile is busy (R221). -/
def execCzero (w : Stall) (a b : SReg) (s : State) : Host.Outcome State Fault Refusal :=
  s.cacheOp w a b .write true fun s tid q t x n =>
    let l := sectorsOf x n
    match s.shutAt t l with
    | some a => .trap s (Trap.access .address a)
    | none =>
      if !((t.sq q).holders [.st]).isEmpty then .hold s .fence
      else if s.zeroHeld t l then
        .hold ((s.tickHeld tid).modSq tid q fun y => { y with zero := some (x, n, w) }) .fence
      else .done (s.zeroSectors tid t l)

/-! ### Fence actions (R268) -/

/-- The physical addresses of the streaming sectors in a core's L1 whose line carries an ASID. -/
def State.streamingOf (s : State) (ck asid : Nat) : List Nat :=
  (s.lines ck).flatMap fun l =>
    if l.asid == asid then
      (if l.s0.valid && l.s0.streaming then [128 * l.line] else []) ++
      (if l.s1.valid && l.s1.streaming then [128 * l.line + 64] else [])
    else []

/-- The wb and inv actions of a fence of a task. -/
def State.fenceActions (s : State) (t : Task) (wb inv : Bool) : State :=
  let l := s.streamingOf t.l1Key (s.asidOf t.ctx)
  if inv then l.foldl (fun s pa => s.flushSector t.l1Key pa) s
  else if wb then l.foldl (fun s pa => s.cleanSector t.l1Key pa) s
  else s

/-! ### Page walks (R251) -/

/-- A page walk of a die ends: its result goes to the die's TLB, of 16,384 entries, and to the cores of the die that run
tasks of the context; a fault is cached nowhere. -/
def State.walkDone (s : State) (die ctx va : Nat) : State :=
  match Assoc.find s.ctxs ctx with
  | none => s
  | some c =>
    match pageWalk s c.asid c.root va walkLevels with
    | .error _ => s
    | .ok e =>
      let s := s.keepDie die e
      let cores := (s.tasks.filter fun x => x.2.resident && x.2.die == die && x.2.ctx == ctx).map (·.2.core)
      cores.foldl (fun s k => s.keepCore die k e) s

/-- `PAGE_WALK_COMPLETE` (R251): a walk outside the translated region changes nothing. -/
def execPageWalkComplete (die ctx : Nat) (va : Word) (s : State) : Host.Outcome State Fault Refusal :=
  .next (if regionOf va.toNat == 0 then s.walkDone die ctx va.toNat else s)

end Sys2Proof.Machine
end

