-- ==== Sys2Proof/Machine/Fence.lean ====
section
/-! DEFINITION. The ORDER group (R317, R318), and the completion of a fence (R295) and of a pair of marks (R293). -/

namespace Sys2Proof.Machine

/-- `fence P, Q, scope` (R317): it never stalls issue, and stays pending until `FENCE_COMPLETE`. -/
def execFence (w : Stall) (p : BitVec 4) (q : BitVec 5) (v b : Bool) (c : Fin 6) (s : State) :
    Host.Outcome State Fault Refusal :=
  s.issue w (scalars []) fun s tid me t =>
    if p = 0 && q = 0 && !v && !b then .done s
    else
      let (id, s) := s.newUid
      let f : Barrier := { id := id, preds := t.outstandingOf me (p.setWidth 5), holds := q, wb := b, inv := v,
                           scope := c.val, partner := none, k := 0, fork := none }
      .done (s.modSq tid me fun x => { x with barriers := x.barriers ++ [f] })

/-- The pending mark of a sequencer that names a partner and has a number in the pair. -/
def Task.markOf (t : Task) (q d : Seq) (k : Nat) : Option Barrier :=
  (t.sq q).barriers.find? fun b => b.partner == some d.code && b.k == k

/-- Give a pending mark the accesses it waits for. -/
def SeqState.markPreds (x : SeqState) (id : Nat) (preds : List Nat) : SeqState :=
  { x with barriers := x.barriers.map fun b => if b.id == id then { b with preds := preds } else b }

/-- `mark seq` (R293, R318): the k-th of its pair. Until the partner marks, `preds` holds what stands before this mark; when
the second of a pair issues, each mark comes to wait for what stands before the other. -/
def execMark (w : Stall) (q : Seq) (s : State) : Host.Outcome State Fault Refusal :=
  s.issue w (scalars []) fun s tid me t =>
    let k := Assoc.get 0 (t.sq me).marks q.code + 1
    let (id, s) := s.newUid
    let own := t.outstandingOf me 0b01111
    let f : Barrier := { id := id, preds := own, holds := 0b00111, wb := false, inv := false, scope := 0,
                         partner := some q.code, k := k, fork := none }
    let (f, s) := match t.markOf q me k with
      | some b => ({ f with preds := b.preds }, s.modSq tid q (·.markPreds b.id own))
      | none => (f, s)
    .done (s.modSq tid me fun x => { x with marks := Assoc.put x.marks q.code k, barriers := x.barriers ++ [f] })

/-- Remove a barrier of a sequencer. -/
def SeqState.dropBarrier (x : SeqState) (id : Nat) : SeqState :=
  { x with barriers := x.barriers.filter fun b => b.id != id }

/-- The oldest pending fence of a sequencer whose predecessors are performed. -/
def Task.fenceDue (t : Task) (q : Seq) : Option Barrier :=
  (t.sq q).barriers.find? fun b => b.isFence && t.clear b.preds

/-- A fence completes: its actions are applied, and what it held is free of it (R268, R295). -/
def State.completeFence (s : State) (tid : Nat) (q : Seq) : State :=
  match Assoc.find s.tasks tid with
  | none => s
  | some t =>
    match if s.moves t then t.fenceDue q else none with
    | none => s
    | some b => ((s.fenceActions t b.wb b.inv).modSq tid q (·.dropBarrier b.id)).settleTask tid

/-- `FENCE_COMPLETE` (R295). -/
def execFenceComplete (t : Nat) (q : Seq) (s : State) : Host.Outcome State Fault Refusal := .next (s.completeFence t q)

/-- The pending mark of a sequencer whose pair is complete for it: the partner has marked, and every access before the
partner's mark is performed (R293). -/
def Task.pairDue (t : Task) (q d : Seq) : Option Barrier :=
  (t.sq q).barriers.find? fun b =>
    b.partner == some d.code && b.k ≤ Assoc.get 0 (t.sq d).marks q.code && t.clear b.preds

/-- A mark's pair is complete: what it held proceeds. -/
def State.completePair (s : State) (tid : Nat) (q d : Seq) : State :=
  match Assoc.find s.tasks tid with
  | none => s
  | some t =>
    match if s.moves t then t.pairDue q d else none with
    | some b => (s.modSq tid q (·.dropBarrier b.id)).settleTask tid
    | none => s

/-- `MARK_PAIR_COMPLETE` (R293). -/
def execMarkPairComplete (t : Nat) (q d : Seq) (s : State) : Host.Outcome State Fault Refusal := .next (s.completePair t q d)

end Sys2Proof.Machine
end

