-- ==== Sys2Proof/Machine/Phaser.lean ====
section
/-! DEFINITION. The PHASER group (R319 to R322). -/

namespace Sys2Proof.Machine

/-- Whether what a K-seq has issued before a release is not yet performed, or an earlier fence of it is pending
(R296, R299). -/
def Task.unreleased (t : Task) : Bool := t.kq.fencing || !(t.outstandingOf .k 0b00011).isEmpty

/-- The phaser a handle names for a task, by its key, when it is bound to the task's context (R319). -/
def State.phaserHandle (s : State) (t : Task) (x : Word) : Option Nat :=
  let n := bits x.toNat 9 0
  let hub := bitAt x.toNat 10
  let key := if hub then 8192 + n else 1024 * t.die + n
  if 2 ^ 11 ≤ x.toNat || (hub && decide (256 ≤ n)) then none
  else if (s.phaser key).ctx == some t.ctx then some key else none

/-- A task's membership of a phaser. -/
def Task.member (t : Task) (key : Nat) : Option Member := t.members.find? fun m => m.key == key

/-- Change a task's membership of a phaser. -/
def Task.modMember (t : Task) (key : Nat) (f : Member → Member) : Task :=
  { t with members := t.members.map fun m => if m.key == key then f m else m }

/-- A phaser instruction by a member: the Handle and Not member causes, then `f`. The handle of a phaser of a die that the
task has left is that of a non-member, whatever stands there on its new die (R321). -/
def State.onPhaser (s : State) (t : Task) (x : Word) (f : Nat → Member → Eff) : Eff :=
  match s.phaserHandle t x with
  | none => .trap s (Trap.sync (if t.left.contains x.toNat then 2 else 1))
  | some key => match t.member key with
    | none => .trap s (Trap.sync 2)
    | some m => f key m

/-- `phjoin xd, xa, mode` (R320, R322). -/
def execPhjoin (w : Stall) (d a : SReg) (m : Fin 4) (s : State) : Host.Outcome State Fault Refusal :=
  s.issue w (scalars [d, a]) fun s tid q t =>
    match s.phaserHandle t ((t.sq q).rd a) with
    | none => .trap s (Trap.sync 1)
    | some key =>
      let p := s.phaser key
      let v : Word := p.phase.setWidth 64
      if m.val = 3 then
        if key < 8192 then .trap s (Trap.sync 3)
        else .done ((s.setPhaser key { p with nsig := p.nsig + 1, proxies := p.proxies + 1 }).interlock tid q d v)
      else if (t.member key).isSome then .trap s (Trap.sync 5)
      else if 8 ≤ t.members.length then .trap s (Trap.sync 4)
      else
        let s := if m.val = 1 then s else s.setPhaser key { p with nsig := p.nsig + 1 }
        let r : Member := { key := key, mode := m.val, sph := p.phase, wph := p.phase, sent := false }
        .done ((s.modTask tid fun t => { t with members := t.members ++ [r] }).interlock tid q d v)

/-- `phdrop xa` (R320, R321): its signal is a release. -/
def execPhdrop (w : Stall) (a : SReg) (s : State) : Host.Outcome State Fault Refusal :=
  s.issue w (scalars [a]) fun s tid q t =>
    s.onPhaser t ((t.sq q).rd a) fun key m =>
      if t.unreleased then .wait s .fence
      else .done ((s.modTask tid fun t => { t with members := t.members.filter fun x => x.key != key }).dropMember m)

/-- The signal of a member that may signal now: counted, and the phaser advances (R320). -/
def State.signal (s : State) (tid key : Nat) : State :=
  let p := s.phaser key
  (s.modTask tid (·.signalled key)).advance key { p with sigd := p.sigd + 1 }

/-- Join the signals that wait for the phase to end, in arrival order. -/
def State.awaitPhase (s : State) (tid key : Nat) : State :=
  let p := s.phaser key
  if p.waiting.contains tid then s else s.setPhaser key { p with waiting := p.waiting ++ [tid] }

/-- The signal part of `phsig` and `phsw`: whether it is counted, and the state. -/
def State.trySignal (s : State) (tid : Nat) (t : Task) (key : Nat) (m : Member) : Bool × State :=
  if m.sent then (true, s)
  else if t.unreleased then (false, s)
  else if precedes (s.phaser key).phase m.sph then (false, s.awaitPhase tid key)
  else (true, s.signal tid key)

/-- `phsig xa` (R320, R321). -/
def execPhsig (w : Stall) (a : SReg) (s : State) : Host.Outcome State Fault Refusal :=
  s.issue w (scalars [a]) fun s tid q t =>
    s.onPhaser t ((t.sq q).rd a) fun key m =>
      if m.mode = 1 then .trap s (Trap.sync 3)
      else match s.trySignal tid t key m with
        | (true, s) => .done (s.modTask tid (·.modMember key fun m => { m with sent := false }))
        | (false, s) => .wait s .phaser

/-- Whether a PHASE follows a WPH, which one exactly 2^31 away does (R412). -/
def phaseFollows (wph phase : BitVec 32) : Bool := precedes wph phase || phase - wph == 2 ^ 31

/-- The wait part of `phwait` and `phsw`: it completes once PHASE follows WPH, and gives that phase. -/
def State.phaseWait (s : State) (tid : Nat) (q : Seq) (d : SReg) (key : Nat) (wph : BitVec 32) : Eff :=
  if phaseFollows wph (s.phaser key).phase then
    let s := s.modTask tid (·.modMember key fun m => { m with wph := wph + 1, sent := false })
    .done (s.result tid q 1 d (wph.setWidth 64))
  else .wait s .phaser

/-- `phwait xd, xa` (R320). -/
def execPhwait (w : Stall) (d a : SReg) (s : State) : Host.Outcome State Fault Refusal :=
  s.issue w (scalars [d, a]) fun s tid q t =>
    s.onPhaser t ((t.sq q).rd a) fun key m =>
      if m.mode = 0 then .trap s (Trap.sync 3) else s.phaseWait tid q d key m.wph

/-- `phsw xd, xa` (R320): `phsig`, then `phwait`. -/
def execPhsw (w : Stall) (d a : SReg) (s : State) : Host.Outcome State Fault Refusal :=
  s.issue w (scalars [d, a]) fun s tid q t =>
    s.onPhaser t ((t.sq q).rd a) fun key m =>
      if m.mode != 2 then .trap s (Trap.sync 3)
      else match s.trySignal tid t key m with
        | (true, s) => s.phaseWait tid q d key m.wph
        | (false, s) => .wait s .phaser

/-- The word of `phqry`. -/
def Phaser.word (p : Phaser) : Word :=
  BitVec.ofNat 64 (p.sigd % 2 ^ 16 * 2 ^ 48 + p.nsig % 2 ^ 16 * 2 ^ 32 + p.phase.toNat)

/-- `phqry xd, xa` (R322). -/
def execPhqry (w : Stall) (d a : SReg) (s : State) : Host.Outcome State Fault Refusal :=
  s.issue w (scalars [d, a]) fun s tid q t =>
    match s.phaserHandle t ((t.sq q).rd a) with
    | none => .trap s (Trap.sync 1)
    | some key => .done (s.interlock tid q d (s.phaser key).word)

end Sys2Proof.Machine
end

