-- ==== Sys2Proof/Machine/Scalar.lean ====
section
/-! DEFINITION. `lds` and `sts` (R165, R166). -/

namespace Sys2Proof.Machine

/-- The address of `lds` and `sts` (R165). -/
def scalarAddr (base : Word) (v : Fin 4) (m : BitVec 8) : Word := base + m.signExtend 64 * BitVec.ofNat 64 (2 ^ v.val)

/-- The place a scalar access goes to, or the precise trap it takes, in the order of R165 and R243. -/
def State.scalarPlace (s : State) (t : Task) (a : Word) (width : Nat) (need : Need) : Except Trap Place :=
  if 2 ^ 60 ≤ a.toNat then .error (Trap.access .address a.toNat)
  else if a.toNat % width != 0 then .error (Trap.access .alignment a.toNat)
  else match s.resolve t a.toNat need with
    | .error w => .error (Trap.access w a.toNat)
    | .ok (.acc o) => if width == 8 then .ok (.acc o) else .error (Trap.access .alignment a.toNat)
    | .ok pl => .ok pl

/-- Whether a peer access of a sequencer that is not yet performed names a word of the task's own (R327). -/
def SeqState.peerNames (x : SeqState) (t : Task) (tile word : Nat) : Bool := x.peers.any fun h => match h.acc with
  | .peer _ r _ => refPid r == t.wid.toNat && refTile r == tile && refWord r == word
  | _ => false

/-- Whether an aligned `lds` or `sts` below address 2^60 waits at issue for its page walk, which a fence holds: its translation faults precisely,
and so is made before it issues (R165, R295). -/
def State.scalarHeld (s : State) (t : Task) (q : Seq) (va width : Nat) : Bool :=
  decide (va < 2 ^ 60) && va % width == 0 && s.walkHeld t q va width

/-- Whether a fence or a mark of the sequencer would hold an access of the accumulator region, which waits at issue (R165). -/
def SeqState.holdsAcc (x : SeqState) (pl : Place) (c : Class) : Bool :=
  match pl with
  | .acc _ => !(x.holders [c]).isEmpty
  | _ => false

/-- Whether an access of the accumulator region that has passed its checks waits for the earlier accesses of its sequencer:
those of `lds` and `sts`, which are performed in order (R166), and those to the same word (R327; DEDUCED, assumption 61). -/
def SeqState.behindAcc (x : SeqState) (t : Task) (pl : Place) : Bool :=
  match pl with
  | .acc o => !x.held.isEmpty || x.peerNames t (o / 8192) (o % 8192 / 8)
  | _ => false

/-- The accumulator tile a place lies in. -/
def Place.tile : Place → Option Nat
  | .acc o => some (o / 8192)
  | _ => none

/-- `lds.T xd, imm(xa)` (R165). One of the accumulator region waits at issue for what would hold it, makes its checks there, and
is performed at its issue. -/
def execLds (w : Stall) (d a : SReg) (v : Fin 4) (m : BitVec 8) (s : State) : Host.Outcome State Fault Refusal :=
  s.issue w (scalars [d, a]) fun s tid q t =>
    let x := t.sq q
    let va := scalarAddr (x.rd a) v m
    if s.scalarHeld t q va.toNat (2 ^ v.val) then .hold s .fence
    else match s.scalarPlace t va (2 ^ v.val) .read with
    | .error e => .trap s e
    | .ok pl =>
      if x.holdsAcc pl .ld then .hold s .fence
      else if pl.tile.any t.tileBusy then .trap s { Trap.ofClass 7 with addr := va.toNat }
      else if pl.tile.any fun n => (t.tile n).psn then .trap s { Trap.matrix 10 with addr := va.toNat }
      else if x.behindAcc t pl then .hold s .fence
      else
        let (uid, s) := (s.keepVa t va.toNat (2 ^ v.val)).newUid
        let s := s.interlockOn tid q d uid
        .done (s.access tid uid (.load va (2 ^ v.val) pl) (x.holders [.ld]))

/-- `sts.T xd, imm(xa)` (R165): D is a source. -/
def execSts (w : Stall) (d a : SReg) (v : Fin 4) (m : BitVec 8) (s : State) : Host.Outcome State Fault Refusal :=
  s.issue w (scalars [d, a]) fun s tid q t =>
    let x := t.sq q
    let va := scalarAddr (x.rd a) v m
    if s.scalarHeld t q va.toNat (2 ^ v.val) then .hold s .fence
    else match s.scalarPlace t va (2 ^ v.val) .write with
    | .error e => .trap s e
    | .ok pl =>
      if x.holdsAcc pl .st then .hold s .fence
      else if pl.tile.any t.tileBusy then .trap s { Trap.ofClass 7 with addr := va.toNat }
      else if x.behindAcc t pl then .hold s .fence
      else
        let (uid, s) := (s.keepVa t va.toNat (2 ^ v.val)).newUid
        .done (s.access tid uid (.store va (2 ^ v.val) (x.rd d) pl) (x.holders [.st]))

end Sys2Proof.Machine
end

