-- ==== Sys2Proof/Machine/AccAt.lean ====
section
/-! DEFINITION. The ACCAT group: accumulator-SRAM atomics (R325 to R327). -/

namespace Sys2Proof.Machine

/-- Whether an accumulator reference breaks R325: a nonzero zero field, or TY = 3. -/
def refBad (r : Word) : Bool :=
  bits r.toNat 63 52 != 0 || refTy r == 3 || bits r.toNat 16 15 != 0 || (!refPeer r && refPid r != 0)

/-- The access classes of an ACCAT instruction, by its number (R317). -/
def atomicClasses (fn : Nat) : List Class := (HeldAccess.peer fn 0 0).classes

/-- An access to a tile of the issuing task: it waits at issue for a fence or mark that would hold it, makes its checks, and then
waits for the earlier accesses of its sequencer to the same word (R325, R327). -/
def State.ownAtomic (s : State) (tid : Nat) (q : Seq) (t : Task) (fn : Nat) (d : SReg) (r b : Word) : Eff :=
  let x := t.sq q
  if t.tt.accd ≤ refTile r then .trap s (Trap.ofClass 6)
  else if !(x.holders (atomicClasses fn)).isEmpty then .hold s .fence
  else if t.tileBusy (refTile r) then .trap s (Trap.ofClass 7)
  else if atomicReads fn && (t.tile (refTile r)).psn then .trap s (Trap.matrix 10)
  else if x.peerNames t (refTile r) (refWord r) then .hold s .fence
  else match s.atomicPoison tid fn r with
    | some code => .done (s.noteCheck tid code (accAddr (refTile r) (refWord r)))
    | none =>
      let (s, m) := s.atomicAt tid fn r b
      .done (if atomicReads fn then s.interlock tid q d m else s)

/-- An access to a tile of another task of the launch (R325, R327). -/
def State.peerAtomic (s : State) (tid : Nat) (q : Seq) (t : Task) (fn : Nat) (d : SReg) (r b : Word) : Eff :=
  if !(s.lrec t.lr).gang then .trap s (Trap.sync 6)
  else match s.peerOf t (refPid r) with
    | none => .trap s (Trap.sync 8)
    | some (_, p) =>
      if p.tt.accd ≤ refTile r then .trap s (Trap.sync 8)
      else if atomicReads fn && (p.tile (refTile r)).psn then .trap s (Trap.matrix 10)
      else
        let (uid, s) := s.newUid
        let s := if atomicReads fn then s.interlockOn tid q d uid else s
        .done (s.accessPeer tid q uid (.peer fn r b) ((t.sq q).holders (atomicClasses fn)))

/-- An ACCAT instruction: `r` and `b` are its reference and its operand. -/
def State.accAtomic (s : State) (tid : Nat) (q : Seq) (t : Task) (fn : Nat) (d : SReg) (r b : Word) : Eff :=
  if refBad r then .trap s (Trap.sync 9)
  else if refPeer r then s.peerAtomic tid q t fn d r b
  else s.ownAtomic tid q t fn d r b

/-- `accadd xa, xb` (R326). -/
def execAccadd (w : Stall) (a b : SReg) (s : State) : Host.Outcome State Fault Refusal :=
  s.issue w (scalars [a, b]) fun s tid q t => s.accAtomic tid q t 0 (.x 0) ((t.sq q).rd a) ((t.sq q).rd b)

/-- `accaddf xd, xa, xb` (R326). -/
def execAccaddf (w : Stall) (d a b : SReg) (s : State) : Host.Outcome State Fault Refusal :=
  s.issue w (scalars [d, a, b]) fun s tid q t => s.accAtomic tid q t 1 d ((t.sq q).rd a) ((t.sq q).rd b)

/-- `accswp xd, xa, xb` (R326). -/
def execAccswp (w : Stall) (d a b : SReg) (s : State) : Host.Outcome State Fault Refusal :=
  s.issue w (scalars [d, a, b]) fun s tid q t => s.accAtomic tid q t 2 d ((t.sq q).rd a) ((t.sq q).rd b)

/-- `accget xd, xa` (R326). -/
def execAccget (w : Stall) (d a : SReg) (s : State) : Host.Outcome State Fault Refusal :=
  s.issue w (scalars [d, a]) fun s tid q t => s.accAtomic tid q t 3 d ((t.sq q).rd a) 0

/-- `accset xa, xb` (R326). -/
def execAccset (w : Stall) (a b : SReg) (s : State) : Host.Outcome State Fault Refusal :=
  s.issue w (scalars [a, b]) fun s tid q t => s.accAtomic tid q t 4 (.x 0) ((t.sq q).rd a) ((t.sq q).rd b)

end Sys2Proof.Machine
end

