-- ==== Sys2Proof/Machine/Tensor.lean ====
section
/-! DEFINITION. Tensors as the engines see them: shape and layout records (R47 to R54), the record cache (R55), lazy
re-encode (R56, R57), and the choice of a block scale (R187). -/

namespace Sys2Proof.Machine

/-! ### Records (R47 to R52) -/

def tsrRank (w : List Word) : Nat := field w 66 64
def tsrBase (w : List Word) : Nat := field w 63 0
/-- The address of the TLR a TSR points to. -/
def tsrTlr (w : List Word) : Word := BitVec.ofNat 64 (field w 127 70 * 64)
/-- EXTd; 1 at or above RANK (R48). -/
def tsrExt (w : List Word) (d : Nat) : Nat := if d < tsrRank w then field w (32 * d + 159) (32 * d + 128) else 1
/-- STRd; 0 at or above RANK (R48). -/
def tsrStr (w : List Word) (d : Nat) : Int := if d < tsrRank w then sField w (32 * d + 320) else 0

def tlrScb (w : List Word) : Nat := field w 63 0
def tlrTsmap (w : List Word) : Nat := field w 127 64
def tlrFmt (w : List Word) : Nat := field w 132 128
def tlrBlk (w : List Word) : Nat := field w 134 133
def tlrWmax (w : List Word) : Nat := field w 137 135
def tlrRole (w : List Word) : Nat := field w 143 141
def tlrLayer (w : List Word) : Nat := field w 159 144
def tlrGen (w : List Word) : BitVec 32 := BitVec.ofNat 32 (field w 191 160)
def tlrPin (w : List Word) : Bool := field w 192 192 == 1
def tlrSblk (w : List Word) : Nat := field w 208 207
def tlrSfmt (w : List Word) : Nat := field w 213 209
def tlrNtile (w : List Word) : Nat := field w 255 224

/-- Whether a layout record is governed (R50). -/
def isGoverned (l : List Word) : Bool := tlrRole l != 0 && !tlrPin l

/-- A tensor: its two records, as an operation copied them. -/
structure Tensor where
  tsr : List Word
  tlr : List Word
  deriving DecidableEq, Repr

/-- Whether a record lies in the core-local window, with its scales as 4-byte words (R272). -/
def Tensor.inWindow (x : Tensor) : Bool := regionOf (tsrBase x.tsr) == 1

/-- The slot width in bits (R50): in the core-local window it is the storage width of FMT (R272). DESIGN CHOICE (assumption
63): there it is that of the FMT of the operation's copy, even when a touch finds another in memory. -/
def Tensor.slot (x : Tensor) : Nat :=
  if isGoverned x.tlr && !x.inWindow then 2 ^ tlrWmax x.tlr
  else match NumType.ofCode (tlrFmt x.tlr) with
    | some t => t.width
    | none => 8

/-- TE of R51. -/
def Tensor.te (x : Tensor) : Nat := 2 ^ 19 / x.slot

/-- The number of elements of a tensor. -/
def Tensor.count (x : Tensor) : Nat := ((List.range 6).map (tsrExt x.tsr)).foldl (· * ·) 1

/-- The index tuple at a position of the walk, dimension 0 innermost. -/
def Tensor.tuple (x : Tensor) (k : Nat) : List Nat :=
  ((List.range 6).foldl (fun (acc : List Nat × Nat) d =>
    (acc.1 ++ [acc.2 % tsrExt x.tsr d], acc.2 / tsrExt x.tsr d)) ([], k)).1

/-- The position in the walk of an index tuple. -/
def Tensor.walkIndex (x : Tensor) (i : List Nat) : Nat :=
  ((List.range 6).foldl (fun (acc : Nat × Nat) d => (acc.1 + i.getD d 0 * acc.2, acc.2 * tsrExt x.tsr d)) (0, 1)).1

/-- The linear index of an index tuple (R48). -/
def Tensor.linear (x : Tensor) (i : List Nat) : Int :=
  ((List.range 6).map fun d => (i.getD d 0 : Int) * tsrStr x.tsr d).sum

/-- Exchange dimensions 0 and 1 of a tuple (R58). -/
def swap01 : List Nat → List Nat
  | a :: b :: r => b :: a :: r
  | l => l

/-! ### Checks at the fork (R54) -/

/-- The reserved fields of a TSR and of a TLR. -/
def recordReserved (tsr tlr : List Word) : Bool :=
  field tsr 69 67 != 0 || field tlr 511 256 != 0 || field tlr 223 214 != 0 || field tlr 206 193 != 0 ||
  field tlr 140 138 != 0

/-- The Record condition of R54. -/
def Tensor.badRecord (x : Tensor) : Bool :=
  recordReserved x.tsr x.tlr || tsrRank x.tsr == 0 || tsrRank x.tsr == 7 || 6 ≤ tlrRole x.tlr ||
  match NumType.ofCode (tlrFmt x.tlr) with
  | none => true
  | some t =>
    (tlrBlk x.tlr != 0 && !scalable t) || (isGoverned x.tlr && (NumType.ofCode (tlrSfmt x.tlr)).isNone) ||
    (isGoverned x.tlr && (tlrWmax x.tlr == 0 || tlrWmax x.tlr == 7 || decide (2 ^ tlrWmax x.tlr < t.width)))

/-- The Alignment condition of R54. -/
def Tensor.misaligned (x : Tensor) : Bool :=
  let w := match NumType.ofCode (tlrFmt x.tlr) with
    | some t => t.width
    | none => 8
  tsrBase x.tsr % max 1 (w / 8) != 0 || (isGoverned x.tlr && (tsrBase x.tsr % 65536 != 0 || tlrTsmap x.tlr % 8 != 0))

/-- The Address condition of R54. -/
def Tensor.badAddress (x : Tensor) : Bool :=
  2 ^ 60 ≤ tsrBase x.tsr || 2 ^ 60 ≤ tlrScb x.tlr || (isGoverned x.tlr && decide (2 ^ 60 ≤ tlrTsmap x.tlr))

/-- The Layout condition: R52 broken. -/
def Tensor.badLayout (x : Tensor) : Bool :=
  let b := if isGoverned x.tlr then 128 else blockLen (tlrBlk x.tlr)
  (isGoverned x.tlr || tlrBlk x.tlr != 0) &&
  (tsrStr x.tsr 0 != 1 || tsrExt x.tsr 0 % b != 0 ||
    ((List.range 6).drop 1).any fun d => decide (1 < tsrExt x.tsr d) && tsrStr x.tsr d % b != 0)

/-- The first failed check of R54 and R52, as an engine cause. DESIGN CHOICE (assumption 64): the spec orders no checks; they
are made in the order of the causes 1, 2, 3, 5, and that of cause 6 after them. -/
def Tensor.check (x : Tensor) : Option Nat :=
  if x.badRecord then some 1
  else if x.misaligned then some 2
  else if x.badAddress then some 3
  else if x.badLayout then some 5
  else none

/-! ### Memory as an engine sees it (R54, R243, R252, R371) -/

/-- The virtual address of an offset of the core-local window. -/
def windowAddr (off : Nat) : Nat := 0xFF0 * 2 ^ 48 + off

/-- A fault with a cause and an address; its chunk is filled in by the operation. -/
def EngFault.at_ (cause addr : Nat) : EngFault := { cause := cause, addr := BitVec.ofNat 64 addr, fchk := 0 }

/-- What makes an engine wait is passed on as a fault is, under causes of no fault: a write that is held on a reservation (R221),
and a page walk that a fence holds (R295). -/
def EngFault.held : EngFault := EngFault.at_ 64 0
def EngFault.heldWalk : EngFault := EngFault.at_ 65 0

/-- Whether an engine waits. -/
def EngFault.isWait (f : EngFault) : Bool := f == EngFault.held || f == EngFault.heldWalk

/-- What an engine's refused access comes to: cause 3 or 9, 16 for a poisoned entry of a TLB (R371, R376), or a wait. -/
def EngFault.ofRefuse (w : Refuse) (addr : Nat) : EngFault :=
  match w with
  | .translation c =>
    if c == Sys2Proof.Machine.heldWalk then EngFault.heldWalk else EngFault.at_ (if poisonedEntry 0 ≤ c then 16 else 9) addr
  | _ => EngFault.at_ 3 addr

/-- Whether a run of bytes meets a reservation (R221). -/
def State.rangeHeld (s : State) (t : Task) (va n : Nat) : Bool :=
  (sectors (n / 64 + 2) va n).any fun e => match s.resolve t e.1 .write with
    | .ok pl => t.holdsWrite pl e.2
    | .error _ => false

/-- Why an engine may not read or write a range: address, translation, or poisoned data of a read. -/
def State.engineBad (s : State) (tid : Nat) (t : Task) (va n : Nat) (need : Need) : Option EngFault :=
  (sectors (n / 64 + 2) va n).findSome? fun e =>
    match s.resolve t e.1 need with
    | .error w => some (EngFault.ofRefuse w e.1)
    | .ok (.acc _) => some (EngFault.at_ 3 e.1)
    | .ok (.md _) => some (EngFault.at_ 3 e.1)
    | .ok pl =>
      if need == .read && ((sectorOf tid t pl).bind s.poisonAt).isSome then some (EngFault.at_ 16 e.1) else none

/-- Read bytes for an engine. -/
def State.engineRead (s : State) (tid : Nat) (t : Task) (va n : Nat) : Except EngFault (List Byte) :=
  let t := (Assoc.find s.tasks tid).getD t
  match s.engineBad tid t va n .read with
  | some f => .error f
  | none => match s.readVa t va n .read false with
    | .ok (bs, _) => .ok bs
    | .error e => .error (EngFault.at_ 9 e.addr)

/-- Write bytes for an engine at some addresses: all of them, or none when one may not be written, or is held. -/
def State.writeAll (s : State) (tid : Nat) (t : Task) (ws : List (Nat × List Byte)) : State × Option EngFault :=
  match ws.findSome? fun w => s.engineBad tid t w.1 w.2.length .write with
  | some f => (s, some f)
  | none =>
    if ws.any fun w => s.rangeHeld t w.1 w.2.length then (s, some EngFault.held)
    else (ws.foldl (fun s w => (s.keepVa t w.1 w.2.length).writeVa tid w.1 w.2 false) s, none)

/-- Whether an address names streaming memory of a task. -/
def State.streamingAt (s : State) (t : Task) (va : Nat) : Bool :=
  match s.resolve t va .nothing with
  | .ok (.phys _ st) => st
  | _ => false

/-- The first address of some ranges that names streaming memory: the State memory condition of R54. -/
def State.streamingIn (s : State) (t : Task) (rs : List (Nat × Nat)) : Option Nat :=
  rs.findSome? fun r => (pagesOf r.1 r.2).find? (s.streamingAt t)

/-- The bitmap, the tiles and, with scales, the scale stream of a governed tensor, as ranges. -/
def Tensor.areas (x : Tensor) (scaled : Bool) : List (Nat × Nat) :=
  let n := tlrNtile x.tlr
  [(tlrTsmap x.tlr, ceilDiv n 8), (tsrBase x.tsr, 65536 * n)] ++ if scaled then [(tlrScb x.tlr, n * (x.te / 32))] else []

/-! ### The record cache (R55, R284) -/

/-- Look a record up in a task's cache, filling it on a miss; the most recently used entry stands first. A poison mark of the
entry (R372) is met by the reader, and goes with a fill. -/
def State.lookup (s : State) (tid : Nat) (t : Task) (va : Word) : State × Except EngFault (List Word) :=
  match t.recs.find? fun e => e.1 == va with
  | some e =>
    if (s.poisonAt (.rcache tid va.toNat)).isSome then (s, .error (EngFault.at_ 16 va.toNat))
    else (s.modTask tid fun t => { t with recs := e :: t.recs.filter fun x => x.1 != va }, .ok e.2)
  | none =>
    match s.engineRead tid t va.toNat 64 with
    | .error f => (s, .error f)
    | .ok bs =>
      let e := (va, wordsOf bs 8)
      (((s.keepVa t va.toNat 64).clearPoison (.rcache tid va.toNat)).modTask tid fun t =>
        { t with recs := (e :: t.recs).take 16 }, .ok e.2)

/-- The poison mark that a look-up of a record meets: array code and address. -/
def State.recordPoison (s : State) (tid : Nat) (t : Task) (va : Nat) : Option (Nat × Nat) :=
  match s.poisonAt (.rcache tid va) with
  | some code => some (code, va)
  | none => s.poisonIn tid t va 64 .read

/-- Look up one record of a task. -/
def State.lookupRec (s : State) (tid : Nat) (va : Word) : State × Except EngFault (List Word) :=
  match Assoc.find s.tasks tid with
  | none => (s, .error (EngFault.at_ 1 va.toNat))
  | some t => s.lookup tid t va

/-- Take the copies of a fork: the TSR, then its TLR (R55). -/
def State.takeRecords (s : State) (tid : Nat) (va : Word) : State × Except EngFault Tensor :=
  if va.toNat % 64 != 0 then (s, .error (EngFault.at_ 2 va.toNat))
  else match s.lookupRec tid va with
    | (s, .error f) => (s, .error f)
    | (s, .ok tsr) => match s.lookupRec tid (tsrTlr tsr) with
      | (s, .error f) => (s, .error f)
      | (s, .ok tlr) => (s, .ok { tsr := tsr, tlr := tlr })

/-- Why an operation on a tensor ends at its fork (R54). DESIGN CHOICE (assumption 65): the spec names the first failing
address; a failed check of a record's fields gives the address of its TSR, and one of its memory the first streaming address. -/
def State.recordBad (s : State) (t : Task) (va : Word) (x : Tensor) : Option EngFault :=
  match x.check with
  | some c => some (EngFault.at_ c va.toNat)
  | none =>
    if isGoverned x.tlr then (s.streamingIn t (x.areas (tlrBlk x.tlr != 0))).map (EngFault.at_ 6) else none

/-- Take the copies of a fork that names one tensor, checked (R54, R55). -/
def State.takeTensor (s : State) (tid : Nat) (va : Word) : State × Except EngFault Tensor :=
  match s.takeRecords tid va, Assoc.find s.tasks tid with
  | (s, .ok x), some t => (s, match s.recordBad t va x with
      | some f => .error f
      | none => .ok x)
  | r, _ => r

/-! ### Blocks (R32, R33, R187) -/

/-- The shift between an element's stored value and its block value: i8 stands for i8 × 2^−6 (R32). -/
def unitShift (t : NumType) : Int := if t == .i8 then 6 else 0

/-- The exact value of an element under its scale (R33); `blk` 0 is unscaled. -/
def blockValue (t : NumType) (blk s code : Nat) : Ext :=
  if blk == 0 then valOf t code
  else if s == 255 then .nan
  else (valOf t code).scale ((s : Int) - 127 - unitShift t)

/-- MaxMag of R187. -/
def maxMag (t : NumType) : Ext :=
  match t with
  | .e4m3 => .fin false 448 0 | .e5m2 => .fin false 57344 0 | .e2m1 => .fin false 6 0 | .mk8 => .fin false 64 0
  | _ => .fin false 127 (-6)

/-- The scale of a group of exact values (R187). -/
def chooseScale (t : NumType) (vs : List Ext) : Nat :=
  if vs.any (· == .nan) then 255
  else
    let amax := vs.foldl (fun (m : Ext) v => match v with
      | .fin _ k e => if m.lt (.fin false k e) then .fin false k e else m
      | _ => m) .zero
    ((List.range 255).find? fun (s : Nat) => !((maxMag t).scale ((s : Int) - 127)).lt amax).getD 254

/-- An element of a group under its scale (R187). -/
def groupElement (t : NumType) (s : Nat) (v : Ext) (rnd : Rnd) (sat : Bool) (draw : Nat) : Nat :=
  if s == 255 then 0 else convert t (v.scale (127 - (s : Int) + unitShift t)) rnd sat draw

/-! ### Elements of a tile (R51, R52) -/

/-- An encoding: element type and block code. -/
structure Enc where
  ty : NumType
  blk : Nat
  deriving DecidableEq, Repr

/-- An encoding from its codes; a reserved type code gives none. -/
def Enc.of (fmt blk : Nat) : Option Enc := (NumType.ofCode fmt).map fun t => { ty := t, blk := blk }

/-- The bit address of the element of linear index `n` under an encoding (R51, R272). -/
def Tensor.bitOf (x : Tensor) (e : Enc) (n : Nat) : Nat :=
  if x.inWindow then tsrBase x.tsr * 8 + n * e.ty.width
  else (tsrBase x.tsr + 65536 * (n / x.te)) * 8 + n % x.te * e.ty.width

/-- The address and length of the scale of the element of linear index `n` and number `q` in the walk (R52, R272). -/
def Tensor.scaleAt (x : Tensor) (e : Enc) (n q : Nat) : Nat × Nat :=
  let b := blockLen e.blk
  if x.inWindow then (tlrScb x.tlr + 4 * (q / b), 4) else (tlrScb x.tlr + n / x.te * (x.te / 32) + n % x.te / b, 1)

/-- The bytes of a scale, where they go: in the window a word with its group's tag (R218, R272). -/
def Tensor.scaleBytes (x : Tensor) (e : Enc) (n q sc : Nat) : Nat × List Byte :=
  let (a, len) := x.scaleAt e n q
  (a, toBytes len (if len == 4 then sc + q / blockLen e.blk % 2 ^ 16 * 2 ^ 8 else sc))

/-- The code of an element under an encoding. -/
def State.elemCode (s : State) (tid : Nat) (t : Task) (x : Tensor) (e : Enc) (n : Nat) : Except EngFault Nat :=
  let w := e.ty.width
  let bit := x.bitOf e n
  match s.engineRead tid t (bit / 8) (max 1 (w / 8)) with
  | .error f => .error f
  | .ok bs => .ok (leNat bs / 2 ^ (bit % 8) % 2 ^ w)

/-- The scale of an element; 0 when unscaled. -/
def State.elemScale (s : State) (tid : Nat) (t : Task) (x : Tensor) (e : Enc) (n q : Nat) : Except EngFault Nat :=
  if e.blk == 0 then .ok 0
  else
    let (a, len) := x.scaleAt e n q
    match s.engineRead tid t a len with
    | .error f => .error f
    | .ok bs => .ok (leNat bs % 256)

/-- Apply a step that may fault to each of a list, in order. -/
def eachOk {α β : Type} (f : α → Except EngFault β) : List α → Except EngFault (List β)
  | [] => .ok []
  | a :: r => match f a with
    | .error e => .error e
    | .ok b => match eachOk f r with
      | .error e => .error e
      | .ok bs => .ok (b :: bs)

/-- The exact values of some elements, each by its linear index and its number in the walk. -/
def State.elemValues (s : State) (tid : Nat) (t : Task) (x : Tensor) (e : Enc) (l : List (Nat × Nat)) :
    Except EngFault (List Ext) :=
  eachOk (fun (i : Nat × Nat) =>
    match s.elemCode tid t x e i.1, s.elemScale tid t x e i.1 i.2 with
    | .ok c, .ok sc => .ok (blockValue e.ty e.blk sc c)
    | .error f, _ => .error f
    | _, .error f => .error f) l

/-- The elements of tile `k`, each with its number in the walk. In the core-local window they are those that the walk of the
record reaches (DESIGN CHOICE, assumption 63): the spec numbers scale words by the walk alone. -/
def Tensor.tileElems (x : Tensor) (k : Nat) : List (Nat × Nat) :=
  if x.inWindow then
    ((List.range x.count).map fun q => ((x.linear (x.tuple q)).toNat, q)).filter fun e => e.1 / x.te == k
  else (List.range x.te).map fun p => (k * x.te + p, k * x.te + p)

/-- A group of exact values in an encoding, rounded rne under SAT = 1: its scale and its codes (R56). -/
def Enc.group (e : Enc) (vs : List Ext) : Nat × List Nat :=
  if e.blk == 0 then (0, vs.map fun v => convert e.ty v .rne true 0)
  else
    let s := chooseScale e.ty vs
    (s, vs.map fun v => groupElement e.ty s v .rne true 0)

/-- Codes of width `w` packed from the least significant bit of the first byte on (R25). -/
def packCodes (w : Nat) (cs : List Nat) : List Byte :=
  toBytes (cs.length * w / 8) ((cs.foldr (fun c n => c + 2 ^ w * n) 0))

/-- Split a list into groups of `n`. -/
def groupsOf {α : Type} (fuel n : Nat) (l : List α) : List (List α) :=
  match fuel with
  | 0 => []
  | fuel + 1 => if l.isEmpty then [] else l.take n :: groupsOf fuel n (l.drop n)

/-- The bytes of groups of 128 elements of a tile: R52 makes each a run of memory that starts at a whole byte. -/
def Tensor.codeBytes (x : Tensor) (e : Enc) (l : List ((Nat × Nat) × Nat)) : List (Nat × List Byte) :=
  (groupsOf l.length 128 l).filterMap fun r =>
    r.head?.map fun i => (x.bitOf e i.1.1 / 8, packCodes e.ty.width (r.map (·.2)))

/-- ReEncode of R56 for one tile, from one encoding to another. -/
def State.reEncode (s : State) (tid : Nat) (t : Task) (x : Tensor) (k : Nat) (old new : Enc) : State × Option EngFault :=
  let es := x.tileElems k
  match s.elemValues tid t x old es with
  | .error f => (s, some f)
  | .ok vs =>
    let b := blockLen new.blk
    let gs := (groupsOf vs.length b vs).map new.group
    let scales := if new.blk == 0 then [] else ((groupsOf es.length b es).zip gs).filterMap fun r =>
      r.1.head?.map fun i => x.scaleBytes new i.1 i.2 r.2.1
    s.writeAll tid t (x.codeBytes new (es.zip (gs.flatMap (·.2))) ++ scales)

/-! ### Touching a tile (R56) -/

/-- What a touch gives: the encoding the access sees, and the one the tile stands in when they differ. -/
structure Touch where
  enc : Enc
  raw : Option Enc
  deriving DecidableEq, Repr

/-- The byte of the bitmap that holds a tile's bit. -/
def State.mapByte (s : State) (tid : Nat) (t : Task) (x : Tensor) (k : Nat) : Except EngFault Nat :=
  match s.engineRead tid t (tlrTsmap x.tlr + k / 8) 1 with
  | .error f => .error f
  | .ok bs => .ok (leNat bs)

/-- The bit of a tile in the bitmap. -/
def State.tileBit (s : State) (tid : Nat) (t : Task) (x : Tensor) (k : Nat) : Except EngFault Bool :=
  match s.mapByte tid t x k with
  | .error f => .error f
  | .ok v => .ok (bitAt v (k % 8))

/-- Clear the bit of a tile in the bitmap. -/
def State.clearTileBit (s : State) (tid : Nat) (t : Task) (x : Tensor) (k : Nat) : State × Option EngFault :=
  match s.mapByte tid t x k with
  | .error f => (s, some f)
  | .ok v =>
    s.writeAll tid t [(tlrTsmap x.tlr + k / 8, [BitVec.ofNat 8 (if bitAt v (k % 8) then v - 2 ^ (k % 8) else v)])]

/-- The loop of R56 over tiles left over from an earlier change. DESIGN CHOICE (assumption 84): a fault midway leaves the tiles it has
re-encoded so, with their bits of the bitmap set and the record as it was: the spec says nothing of a fault inside the loop. -/
def State.reEncodeLeft (s : State) (tid : Nat) (t : Task) (x : Tensor) (old new : Enc) : List Nat → State × Option EngFault
  | [] => (s, none)
  | k :: r =>
    match s.tileBit tid t x k with
    | .error f => (s, some f)
    | .ok false => s.reEncodeLeft tid t x old new r
    | .ok true => match s.reEncode tid t x k old new with
      | (s, some f) => (s, some f)
      | (s, none) => State.reEncodeLeft s tid t x old new r

/-- A layout record with new GEN, SFMT, SBLK, FMT and BLK. -/
def tlrRenewed (l : List Word) (gen : BitVec 32) (sfmt sblk fmt blk : Nat) : List Word :=
  let v := l.foldr (fun w n => w.toNat + 2 ^ 64 * n) 0
  let put (v hi lo x : Nat) : Nat := v - bits v hi lo * 2 ^ lo + x % 2 ^ (hi - lo + 1) * 2 ^ lo
  let v := put (put (put (put (put v 191 160 gen.toNat) 213 209 sfmt) 208 207 sblk) 132 128 fmt) 134 133 blk
  wordsOf (toBytes 64 v) 8

/-- Whether GEN precedes G in the sense of R56, which takes in a GEN exactly 2^31 away. -/
def staleGen (gen g : BitVec 32) : Bool := precedes gen g || (g - gen).toNat == 2 ^ 31

/-- The layout record a touch reads: GEN, SFMT, SBLK, FMT and BLK from memory, and nothing else (R55). -/
def State.loadTlr (s : State) (tid : Nat) (t : Task) (x : Tensor) : Except EngFault (List Word) :=
  match s.engineRead tid t (tsrTlr x.tsr).toNat 64 with
  | .error f => .error f
  | .ok bs => .ok (wordsOf bs 8)

/-- The current and the stale encoding of a layout record. -/
def tlrEnc (l : List Word) : Option Enc := Enc.of (tlrFmt l) (tlrBlk l)
def tlrStale (l : List Word) : Option Enc := Enc.of (tlrSfmt l) (tlrSblk l)

/-- The first touch of a governed tensor under a new generation (R56). TSMAP and NTILE are those of the fork's copy; the other
fields that stand in memory are kept. -/
def State.renew (s : State) (tid : Nat) (t : Task) (x : Tensor) (l : List Word) (h : HistEntry) : State × Option EngFault :=
  let n := tlrNtile x.tlr
  match tlrStale l, tlrEnc l with
  | some old, some new =>
    match s.reEncodeLeft tid t x old new (List.range n) with
    | (s, some f) => (s, some f)
    | (s, none) =>
      match s.engineRead tid t (tlrTsmap x.tlr) (ceilDiv n 8) with
      | .error f => (s, some f)
      | .ok bs =>
        let l' := tlrRenewed l h.gen (tlrFmt l) (tlrBlk l) h.fmt h.blk
        s.writeAll tid t [((tsrTlr x.tsr).toNat, l'.flatMap fun w => toBytes 8 w.toNat),
          (tlrTsmap x.tlr, toBytes (ceilDiv n 8) (leNat bs ||| (2 ^ n - 1)))]
  | _, _ => (s, some (EngFault.at_ 1 (tsrTlr x.tsr).toNat))

/-- Whether the current encoding of a record breaks the Record condition of R54 for a tensor of some slot width. -/
def Enc.bad (slot : Nat) (e : Option Enc) : Bool :=
  match e with
  | none => true
  | some e => (e.blk != 0 && !scalable e.ty) || decide (slot < e.ty.width)

/-- The checks of R54 before a touch of tile `k`, on what the touch reads from memory. -/
def State.touchBad (s : State) (t : Task) (x : Tensor) (k : Nat) (l : List Word) (h : HistEntry) : Option EngFault :=
  let slot := 2 ^ tlrWmax x.tlr
  if Enc.bad slot (tlrEnc l) || (tlrStale l).isNone || (staleGen (tlrGen l) h.gen && Enc.bad slot (Enc.of h.fmt h.blk)) then
    some (EngFault.at_ 1 (tsrTlr x.tsr).toNat)
  else
    let scaled := tlrBlk l != 0 || tlrSblk l != 0 || h.blk != 0
    let scales := if x.inWindow then (tlrScb x.tlr, x.count / 8) else (tlrScb x.tlr + k * (x.te / 32), x.te / 32)
    (s.streamingIn t ([(tlrTsmap x.tlr + k / 8, 1), (tsrBase x.tsr + 65536 * k, 1)] ++ if scaled then [scales] else [])).map
      (EngFault.at_ 6)

/-- A touch of tile `k` once its record stands at the launch's generation or beyond (R56). -/
def State.touchCurrent (s : State) (tid : Nat) (t : Task) (x : Tensor) (k : Nat) (write : Bool) (l : List Word)
    (h : HistEntry) : State × Except EngFault Touch :=
  match s.tileBit tid t x k, tlrEnc l, tlrStale l, Enc.of h.fmt h.blk with
  | .error f, _, _, _ => (s, .error f)
  | .ok stale, some cur, some old, some mine =>
    if tlrGen l == h.gen then
      if stale then
        match s.reEncode tid t x k old cur with
        | (s, some f) => (s, .error f)
        | (s, none) => match s.clearTileBit tid t x k with
          | (s, some f) => (s, .error f)
          | (s, none) => (s, .ok { enc := cur, raw := none })
      else (s, .ok { enc := cur, raw := none })
    else if write then (s, .error (EngFault.at_ 7 (tsrBase x.tsr + 65536 * k)))
    else (s, .ok { enc := mine, raw := some (if stale then old else cur) })
  | .ok _, _, _, _ => (s, .error (EngFault.at_ 1 (tsrTlr x.tsr).toNat))

/-- A touch of tile `k` of a tensor by a task, under the tile's lock (R56); ungoverned and pinned tensors stand in the
encoding of the fork's copy (R55, R57). -/
def State.touch (s : State) (tid : Nat) (t : Task) (x : Tensor) (k : Nat) (write : Bool) :
    State × Except EngFault Touch :=
  let rec1 := EngFault.at_ 1 (tsrTlr x.tsr).toNat
  if !isGoverned x.tlr then
    match tlrEnc x.tlr with
    | some e => (s, .ok { enc := e, raw := none })
    | none => (s, .error rec1)
  else match (s.psr (psrKey (tlrLayer x.tlr) (tlrRole x.tlr))).captured (s.lrec t.lr).epoch, s.loadTlr tid t x with
    | none, _ => (s, .error rec1)
    | _, .error f => (s, .error f)
    | some h, .ok l =>
      let s := s.keepVa t (tsrTlr x.tsr).toNat 64
      match s.touchBad t x k l h with
      | some f => (s, .error f)
      | none =>
        match if staleGen (tlrGen l) h.gen then s.renew tid t x l h else (s, none) with
        | (s, some f) => (s, .error f)
        | (s, none) => match s.loadTlr tid t x with
          | .error f => (s, .error f)
          | .ok l => s.touchCurrent tid t x k write l h

/-- The encoding in which an operation writes a tensor: of a governed one the captured encoding when its record in memory is
older, else that of the record in memory (R55, R56). -/
def State.writeEnc (s : State) (tid : Nat) (t : Task) (x : Tensor) : Except EngFault Enc :=
  let rec1 := EngFault.at_ 1 (tsrTlr x.tsr).toNat
  if !isGoverned x.tlr then (tlrEnc x.tlr).elim (.error rec1) .ok
  else match (s.psr (psrKey (tlrLayer x.tlr) (tlrRole x.tlr))).captured (s.lrec t.lr).epoch, s.loadTlr tid t x with
    | none, _ => .error rec1
    | _, .error f => .error f
    | some h, .ok l => (if staleGen (tlrGen l) h.gen then Enc.of h.fmt h.blk else tlrEnc l).elim (.error rec1) .ok

/-! ### Reading one element -/

/-- An element read: its code and scale as the access sees them, the encoding, and its block's number. -/
structure Elem where
  code : Nat
  scale : Nat
  enc : Enc
  block : Nat
  deriving DecidableEq, Repr

/-- The exact value of an element read. -/
def Elem.value (e : Elem) : Ext := blockValue e.enc.ty e.enc.blk e.scale e.code

/-- The number of an element's block: by its linear index, and in the core-local window by its number in the walk (R59,
R272). -/
def Tensor.blockOf (x : Tensor) (e : Enc) (n walk : Nat) : Nat := (if x.inWindow then walk else n) / blockLen e.blk

/-- The element of linear index `n` and number `walk` as it stands in one encoding. -/
def State.elemAs (s : State) (tid : Nat) (t : Task) (x : Tensor) (e : Enc) (n walk : Nat) : Except EngFault Elem :=
  match s.elemCode tid t x e n, s.elemScale tid t x e n walk with
  | .ok c, .ok sc => .ok { code := c, scale := sc, enc := e, block := x.blockOf e n walk }
  | .error f, _ => .error f
  | _, .error f => .error f

/-- The element as an older launch sees it: its tile stands in `r`, and is delivered converted to `e` (R56). -/
def State.elemOlder (s : State) (tid : Nat) (t : Task) (x : Tensor) (e r : Enc) (n walk : Nat) : Except EngFault Elem :=
  let b := blockLen e.blk
  match s.elemValues tid t x r ((List.range b).map fun i => (n / b * b + i, walk / b * b + i)) with
  | .error f => .error f
  | .ok vs =>
    let g := e.group vs
    .ok { code := g.2.getD (n % b) 0, scale := g.1, enc := e, block := x.blockOf e n walk }

/-- Read the element of linear index `n`; `walk` is its position in the walk (R51, R52, R56, R272). -/
def State.readElem (s : State) (tid : Nat) (t : Task) (x : Tensor) (n : Int) (walk : Nat) :
    State × Except EngFault Elem :=
  let i := n.toNat
  let k := i / x.te
  if n < 0 || tlrNtile x.tlr ≤ k then (s, .error (EngFault.at_ 4 0))
  else match s.touch tid t x k false with
    | (s, .error f) => (s, .error f)
    | (s, .ok { enc := e, raw := none }) => (s.keepVa t (x.bitOf e i / 8) 1, s.elemAs tid t x e i walk)
    | (s, .ok { enc := e, raw := some r }) => (s.keepVa t (x.bitOf r i / 8) 1, s.elemOlder tid t x e r i walk)

end Sys2Proof.Machine
end

