-- ==== Sys2Proof/Machine/Matrix.lean ====
section
/-! DEFINITION. The matrix engine: operands (R201, R210, R217, R218), group sums (R203), group steps (R205), chunks (R200),
skew (R222), and the retirement of batches (R219). -/

namespace Sys2Proof.Machine

/-! ### Operands (R201, R218) -/

/-- The scratchpad offset of the scale word of group `g` of a panel row. -/
def Desc.scaleOff (d : Desc) (i g : Nat) : Nat := d.soff + 4 * (i * d.gpr + g)

/-- The element of a panel row at stored position `p`, whose logical position is `k`; rows and positions past the panel are
zero elements. -/
def Task.panelElem (t : Task) (d : Desc) (i k p : Nat) : Ext :=
  if d.rows ≤ i || d.klen ≤ k then .zero
  else
    let w := d.ty.width
    let bit := (d.eoff + i * d.pitch) * 8 + p * w
    let code := leNat (readBytes t.spad (bit / 8) (max 1 (w / 8))) / 2 ^ (bit % 8) % 2 ^ w
    let sc := if d.blk == 0 then 0 else leNat (readBytes t.spad (d.scaleOff i (k / blockLen d.blk)) 1)
    blockValue d.ty d.blk sc code

/-- The metadata nibble of row `i` and run `q` of an operation (R210, R218). -/
def Task.nibble (t : Task) (o : MatOp) (i q : Nat) : Nat :=
  let n := o.nibbles + i * (o.logical / 4) + q
  leNat (readBytes t.md (n / 2) 1) / 2 ^ (4 * (n % 2)) % 16

/-- The elements of an A row in logical positions `lo` up to `lo + n`, each with its logical position, in ascending order of
these: every one, or the stored ones of a compressed panel. -/
def Task.rowOf (t : Task) (o : MatOp) (i lo n : Nat) : List (Nat × Ext) :=
  let d := o.a.desc
  if o.sparse then
    (List.range (n / 4)).flatMap fun r =>
      let run := lo / 4 + r
      let nib := t.nibble o i (run - o.a.cur / 4)
      let x := (4 * run + nib % 4, t.panelElem d i (4 * run) (2 * run))
      let y := (4 * run + nib / 4, t.panelElem d i (4 * run) (2 * run + 1))
      if y.1 < x.1 then [y, x] else [x, y]
  else (List.range n).map fun p => (lo + p, t.panelElem d i (lo + p) (lo + p))

/-- The elements of a B column in logical positions `lo` up to `lo + n`. -/
def Task.columnOf (t : Task) (o : MatOp) (j lo n : Nat) : List Ext :=
  (List.range n).map fun p => t.panelElem o.b.desc j (lo + p) (lo + p)

/-- The products of one output word from one stretch of the reduction. -/
def productsOf (a : List (Nat × Ext)) (b : List Ext) (lo : Nat) : List Ext := a.map fun e => e.2.mul (b.getD (e.1 - lo) .zero)

/-! ### Group sums (R203) -/

/-- The group sum of some products: G and Eg; none when every product is zero. -/
def groupSum (ps : List Ext) : Option (Int × Int) :=
  let fins := ps.filterMap fun p => match p with
    | .fin s m e => if m == 0 then none else some (s, m, e)
    | _ => none
  match fins with
  | [] => none
  | (_, m, e) :: r =>
    let eg := r.foldl (fun x y => max x (topExp y.2.1 y.2.2)) (topExp m e)
    some ((fins.map fun y =>
      let a : Int := scaleDown y.2.1 (y.2.2 - (eg - 27))
      if y.1 then -a else a).sum, eg)

/-! ### Group steps (R205) -/

/-- TruncZ(G × 2^k). -/
def truncScale (g : Int) (k : Int) : Int := if 0 ≤ k then g * 2 ^ k.toNat else truncShift g (-k).toNat

/-- The bound on any one contribution of a step. -/
def stepBound (n : Nat) (ek x : Int) : Nat := n * 2 ^ (max 0 (ek + 1 - x)).toNat

/-- Add a group step to a tile: the products of each word written, in ascending order of words, and the number of products
of a group. A NaN in the step sets NAN alone, as the procedure of R205 has it, though R206 says of OVF that a NaN product sets
it (DESIGN CHOICE, assumption 68). -/
def Tile.addStep (x : Tile) (n : Nat) (words : List (Nat × List Ext)) : Tile :=
  let sums := words.filterMap fun w => match groupSum w.2 with
    | some (g, eg) => if g = 0 then none else some (w.1, g, eg)
    | none => none
  let ek := match sums with
    | [] => none
    | s :: r => some (r.foldl (fun e y => max e y.2.2) s.2.2)
  let uk := match ek with
    | some e => stepBound n e x.x
    | none => 0
  let all := words.flatMap (·.2)
  let inf := all.findSome? fun p => match p with
    | .inf s => some s
    | _ => none
  let y :=
    if all.contains .nan then { x with nan := true }
    else match inf with
      | some s => if x.ovf then x else { x with ovf := true, osgn := s }
      | none =>
        if !x.ovf && decide (x.head < uk) then
          { x with ovf := true, osgn := match sums.find? fun s => some s.2.2 == ek with
              | some s => decide (s.2.1 < 0)
              | none => false }
        else x
  let add (m : Assoc Word) (s : Nat × Int × Int) : Assoc Word :=
    Assoc.set 0 m s.1 (Assoc.get 0 m s.1 + BitVec.ofInt 64 (truncScale s.2.1 (s.2.2 - 27 - x.x)))
  { y with head := x.head - uk, m := sums.foldl add x.m }

/-! ### Chunks (R199, R200, R202) -/

/-- The logical positions of one chunk. -/
def MatOp.chunk (o : MatOp) : Nat := o.k0 * (if o.sparse then 2 else 1)

/-- The logical length of a group: a scale block, or a chunk. -/
def MatOp.groupLen (o : MatOp) : Nat := if o.a.desc.blk == 0 then o.chunk else blockLen o.a.desc.blk

/-- The products of a group: a compressed row holds half as many. -/
def MatOp.groupCount (o : MatOp) : Nat := o.groupLen / (if o.sparse then 2 else 1)

/-- The first logical positions of the groups that chunk `d` of an operation completes. -/
def MatOp.groupsIn (o : MatOp) (d : Nat) : List Nat :=
  let lo := o.a.cur + d * o.chunk
  let hi := lo + o.chunk
  if o.a.desc.blk == 0 then [lo]
  else ((List.range (o.chunk / o.groupLen + 1)).map fun i => (lo / o.groupLen + i) * o.groupLen).filter fun g =>
    decide (lo < g + o.groupLen) && decide (g + o.groupLen ≤ hi)

/-- Add one group to every tile of a product (R199, R205). -/
def Task.addGroup (t : Task) (o : MatOp) (lo : Nat) : Task :=
  let across := ceilDiv o.n 64
  let rows := (List.range o.m).map fun i => t.rowOf o i lo o.groupLen
  let cols := (List.range o.n).map fun j => t.columnOf o j lo o.groupLen
  (List.range (blockTiles o.m o.n)).foldl (fun u k =>
    let i0 := 16 * (k / across)
    let j0 := 64 * (k % across)
    let words := (List.range 16).flatMap fun r => (List.range (min 64 (o.n - j0))).map fun c =>
      (64 * r + c, productsOf (rows.getD (i0 + r) []) (cols.getD (j0 + c) []) lo)
    u.setTile (o.t0 + k) ((u.tile (o.t0 + k)).addStep o.groupCount words)) t

/-- Whether a scale word's tag of one side differs from the stream's in the group from `lo` on (R222). -/
def Task.skewed (t : Task) (d : Desc) (rows lo : Nat) : Bool :=
  d.blk != 0 && decide (lo < d.klen) && (List.range (min rows d.rows)).any fun i =>
    let g := lo / blockLen d.blk
    leNat (readBytes t.spad (d.scaleOff i g + 1) 2) != (d.tag0 + i * d.gpr + g) % 2 ^ 16

/-- Whether a product adds into a word of the accumulator sector that starts at word `w` of a task's tiles. -/
def MatOp.addsTo (o : MatOp) (w : Nat) : Bool :=
  o.tiles.contains (w / 1024) && decide (w % 64 < o.n - 64 * ((w / 1024 - o.t0) % ceilDiv o.n 64))

/-- Whether a poisoned sector lies in what chunk `d` of an operation reads: its panels, its metadata, and the tiles it adds to
(R371, R373). -/
def State.chunkPoisoned (s : State) (tid : Nat) (o : MatOp) (d : Nat) : Bool :=
  let c := o.a.cur + d * o.chunk
  let part : MatOp := { o with a := { o.a with cur := c }, b := { o.b with cur := c }, depth := 1 }
  s.poison.any fun e => match e.1 with
    | .scratch u off => u == tid && part.ranges.any fun r => overlaps r off (off + 64)
    | .md u off => u == tid && (o.mdPart c o.chunk).any fun r => overlaps r off (off + 64)
    | .acc u w => u == tid && !(o.groupsIn d).isEmpty && o.addsTo w
    | _ => false

/-! ### Batches (R219, R222, R371) -/

/-- Set PSN in the tiles of some operations. -/
def Task.poisonTiles (t : Task) (ops : List MatOp) : Task :=
  (ops.flatMap (·.tiles)).foldl (fun t k => t.setTile k { t.tile k with psn := true }) t

/-- The faults of a batch for its join. -/
def batchFaults (n : BitVec 32) (ops : List MatOp) : List Unreported :=
  let f (cls cause : Nat) : Unreported :=
    { engine := none, seq := 3, num := n, cls := cls, fault := { cause := cause, addr := 0, fchk := 0 } }
  (if ops.any (·.skew) then [f 11 0] else []) ++ (if ops.any (·.poison) then [f 15 1] else [])

/-- Record the faults of a batch's products, each kind once (R222, R223). -/
def Task.addBatchFaults (t : Task) (n : BitVec 32) (ops : List MatOp) : Task :=
  let new := (batchFaults n ops).filter fun f => !t.faults.any fun g => g.engine.isNone && g.num == f.num && g.cls == f.cls
  { t with faults := t.faults ++ new }

/-- Retire committed batches in order, while the oldest has finished. -/
def Task.retireBatches (fuel : Nat) (t : Task) : Task :=
  match fuel with
  | 0 => t
  | fuel + 1 =>
    match t.batches with
    | b :: rest =>
      if b.ops.all (·.finished) then
        let u := if b.ops.any fun o => o.skew || o.poison then t.poisonTiles b.ops else t
        Task.retireBatches fuel (({ u with batches := rest } : Task).addBatchFaults (b.num.getD 0) b.ops).unreserve
      else t
    | [] => t

/-- Commit the open batch (R230). -/
def Task.commit (t : Task) : Task :=
  let n := t.batchCtr + 1
  ({ t with batchCtr := n, batches := t.batches ++ [{ t.openBatch with num := some n }],
            openBatch := { num := none, ops := [], planned := 0 } } : Task).retireBatches (t.batches.length + 1)

/-- Change a product of a task, by name. -/
def Task.modMat (t : Task) (uid : Nat) (f : MatOp → MatOp) : Task :=
  let g (l : List MatOp) : List MatOp := l.map fun o => if o.uid == uid then f o else o
  { t with openBatch := { t.openBatch with ops := g t.openBatch.ops },
           batches := t.batches.map fun b => { b with ops := g b.ops },
           sync := t.sync.map fun m => if m.op.uid == uid then { m with op := f m.op } else m }

/-- The product that runs: the first in issue order that has not finished (R219). -/
def Task.runningMat (t : Task) : Option MatOp :=
  (t.reserving.filter fun o => !o.finished).foldl (fun b o =>
    match b with
    | none => some o
    | some x => if o.uid < x.uid then some o else some x) none

/-- A synchronous product that has finished: its tiles are poisoned by a fault. A detached one is over, unless it has met a skew,
which the C-seq's next turn takes as a trap (R222). -/
def Task.finishSync (t : Task) : Task :=
  match t.sync with
  | some m =>
    if !m.op.finished then t
    else
      let t := if m.op.skew || m.op.poison then t.poisonTiles [m.op] else t
      if m.detached && !m.op.skew then { t.unreserve with sync := none } else t.unreserve
  | none => t

/-- The matrix engine completes a chunk of a task's product (R200): the groups it completes are added, lots that `lotrel`
returned leave, and what has finished retires. -/
def State.matrixChunk (s : State) (tid : Nat) : State :=
  match Assoc.find s.tasks tid with
  | none => s
  | some t =>
    match if s.moves t then t.runningMat else none with
    | none => s
    | some o =>
      if !t.clear o.after then s
      else
        let gs := o.groupsIn o.done
        let skew := gs.any fun g => t.skewed o.a.desc o.m g || t.skewed o.b.desc o.n g
        let bad := s.chunkPoisoned tid o o.done
        let t := gs.foldl (fun t g => t.addGroup o g) t
        let t := t.modMat o.uid fun o => { o with done := o.done + 1, skew := o.skew || skew, poison := o.poison || bad }
        let note := bad && t.sync.any fun m => m.op.uid == o.uid && m.op.finished
        let t := ({ t with leaving := 0 } : Task).finishSync
        let s := s.setTask tid (t.retireBatches t.batches.length)
        let s := if note then s.noteCheck tid 1 0 else s
        s.tickStore tid

/-- `MATRIX_CHUNK` (R200). -/
def execMatrixChunk (t : Nat) (s : State) : Host.Outcome State Fault Refusal := .next (s.matrixChunk t)

end Sys2Proof.Machine
end

