-- ==== Sys2Proof/Machine/Walk.lean ====
section
/-! DEFINITION. The walk of an address generator (R257, R258, R266): its stream, its operands, their checks, and their
delivery or writing. -/

namespace Sys2Proof.Machine

/-! ### The stream (R257) -/

/-- A bound of a parameter set. -/
def AgParams.boundAt (p : AgParams) (d : Nat) : Nat := Assoc.get 1 p.bound d

/-- The number of chunks a walk moves. -/
def AgParams.chunks (p : AgParams) : Nat := ((List.range 6).map p.boundAt).foldl (· * ·) 1

/-- Bytes of a chunk. -/
def AgParams.chunkBytes (p : AgParams) : Nat := 2 ^ p.chunk

/-- Bytes of the stream. -/
def AgParams.bytes (p : AgParams) : Nat := p.chunks * p.chunkBytes

/-- The address of chunk `i`, level 0 innermost. -/
def AgParams.chunkAddr (p : AgParams) (i : Nat) : Nat :=
  let off := ((List.range 6).foldl (fun (acc : Int × Nat) d =>
    (acc.1 + (acc.2 % p.boundAt d : Nat) * Assoc.get 0 p.stride d, acc.2 / p.boundAt d)) (0, i)).1
  wrap 64 (p.base.toNat + off)

/-- Bits of a period and lanes it yields. -/
def AgParams.period (p : AgParams) : Nat := p.per + 1
def AgParams.lanes (p : AgParams) : Nat := p.nf + 1

/-- The lanes of a whole walk with the pattern. -/
def AgParams.totalLanes (p : AgParams) : Nat := ceilDiv (8 * p.bytes) p.period * p.lanes

/-- The number of operands of a walk. -/
def AgParams.operands (p : AgParams) : Nat := if p.unp then ceilDiv p.totalLanes 1024 else ceilDiv p.bytes 4096

/-- The bytes of the stream, first and past last, that operand `j` of a load needs. -/
def AgParams.span (p : AgParams) (j : Nat) : Nat × Nat :=
  if p.unp then
    let last := ceilDiv (min (1024 * (j + 1)) p.totalLanes) p.lanes
    (1024 * j / p.lanes * p.period / 8, min p.bytes (ceilDiv (last * p.period) 8))
  else (4096 * j, min p.bytes (4096 * (j + 1)))

/-- The bytes of the stream that operand `j` of a store completes. -/
def AgParams.storeSpan (p : AgParams) (j : Nat) : Nat × Nat :=
  if p.unp then
    let lo := 1024 * j / p.lanes * p.period / 8
    let hi := if p.operands ≤ j + 1 then p.bytes else 1024 * (j + 1) / p.lanes * p.period / 8
    (lo, min p.bytes hi)
  else (4096 * j, min p.bytes (4096 * (j + 1)))

/-- A piece of an operand: its chunk's address, its own address and its length. -/
structure Piece where
  chunk : Nat
  va : Nat
  len : Nat
  deriving DecidableEq, Repr

/-- The pieces of stream bytes from `lo` up to `hi`. -/
def AgParams.pieces (fuel : Nat) (p : AgParams) (lo hi : Nat) : List Piece :=
  match fuel with
  | 0 => []
  | fuel + 1 =>
    if hi ≤ lo then []
    else
      let off := lo % p.chunkBytes
      let n := min (hi - lo) (p.chunkBytes - off)
      let a := p.chunkAddr (lo / p.chunkBytes)
      { chunk := a, va := (a + off) % 2 ^ 64, len := n } :: AgParams.pieces fuel p (lo + n) hi

/-- The pieces of an operand. -/
def AgParams.operandPieces (p : AgParams) (store : Bool) (j : Nat) : List Piece :=
  let (lo, hi) := if store then p.storeSpan j else p.span j
  p.pieces (hi - lo) lo hi

/-! ### Checks (R242, R243, R257, R258) -/

/-- The fault a piece meets, with its address (R264): 1 alignment, 2 address, 3 translation, and 5 for a poisoned entry of a TLB
(R375, R376). A chunk of the core-local window
that passes the end of scratchpad names a region that generators are refused (R243). -/
def State.pieceFault (s : State) (t : Task) (p : AgParams) (need : Need) (x : Piece) : Option AgHalt :=
  let n := p.chunkBytes
  let refused := regionOf x.chunk == 1 && decide (0x100000 < x.chunk % 2 ^ 48 + n)
  if x.chunk % min n 64 != 0 then some ⟨1, BitVec.ofNat 64 x.chunk⟩
  else if regionOf x.chunk == 4 || regionOf x.chunk != regionOf (x.chunk + n - 1) || refused then
    some ⟨2, BitVec.ofNat 64 x.chunk⟩
  else match s.checkVa t x.va x.len need with
    | .ok () => none
    | .error e => match e.why with
      | .translation c => some ⟨if poisonedEntry 0 ≤ c then 5 else 3, BitVec.ofNat 64 e.addr⟩
      | _ => some ⟨2, BitVec.ofNat 64 e.addr⟩

/-- What a generator's walk needs of its pages. -/
def genNeed (g : Nat) : Need := if g < 4 then .read else .write

/-- The first fault of an operand. -/
def State.operandFault (s : State) (t : Task) (g : Nat) (p : AgParams) (j : Nat) : Option AgHalt :=
  (p.operandPieces (decide (4 ≤ g)) j).findSome? (s.pieceFault t p (genNeed g))

/-- The first poisoned sector an operand of a load reads: array code and address. -/
def State.operandPoison (s : State) (tid : Nat) (t : Task) (p : AgParams) (j : Nat) : Option (Nat × Nat) :=
  (p.operandPieces false j).findSome? fun x => s.poisonSeenIn tid t x.va x.len

/-- The array code of the poisoned TLB entry that an address needs. -/
def State.entryPoison (s : State) (t : Task) (va : Nat) (need : Need) : Nat :=
  match s.resolve t va need with
  | .error (.translation c) => c - poisonedEntry 0
  | _ => 0

/-- The sectors of some pieces: address and length. -/
def pieceSectors (ps : List Piece) : List (Nat × Nat) := ps.flatMap fun x => sectors (x.len / 64 + 2) x.va x.len

/-- A part of an accepted operand: its address, its length, and the place it goes to. -/
structure Part where
  va : Nat
  len : Nat
  pl : Place
  deriving DecidableEq, Repr

/-- The parts of some pieces that resolve. -/
def State.partsOf (s : State) (t : Task) (need : Need) (ps : List Piece) : List Part :=
  (pieceSectors ps).filterMap fun e => match s.resolve t e.1 need with
    | .ok pl => some { va := e.1, len := e.2, pl := pl }
    | .error _ => none

/-- The parts of the operand a generator is inside: each by the translation of now, or, when its mapping is lost, by the one with
which the operand was accepted (R156, R301). -/
def State.begunParts (s : State) (t : Task) (g : Nat) : List Part :=
  match (t.gen g).active with
  | none => []
  | some a => ((pieceSectors (a.par.operandPieces (decide (4 ≤ g)) (t.gen g).pos)).zip (t.gen g).begun).map fun e =>
    { va := e.1.1, len := e.1.2, pl := match s.resolve t e.1.1 (genNeed g) with
        | .ok pl => pl
        | .error _ => e.2 }

/-- Whether an operand passes the generator front: some of it lies in scratchpad (R245). -/
def AgParams.inSpad (p : AgParams) (store : Bool) (j : Nat) : Bool :=
  (p.operandPieces store j).any fun x => regionOf x.va == 1

/-- The page walks that an operand's accesses start leave their results in the TLBs (R251). -/
def State.keepPieces (s : State) (t : Task) (ps : List Piece) : State := ps.foldl (fun s x => s.keepVa t x.va x.len) s

/-- Whether a write of some parts is held on a reservation (R221). -/
def Task.partsHeld (t : Task) (l : List Part) : Bool := l.any fun e => t.holdsWrite e.pl e.len

/-! ### Delivering and writing -/

/-- Lanes from bytes: four to a lane, little-endian (R171). -/
def lanesOf (bs : List Byte) (n : Nat) : List (BitVec 32) :=
  (List.range n).map fun k => BitVec.ofNat 32 (leNat ((bs.drop (4 * k)).take 4))

/-- The lanes of operand `j` from the bytes of its span, through the pattern (R257). -/
def AgParams.unpack (p : AgParams) (j : Nat) (bs : List Byte) : List (BitVec 32) :=
  let v := leNat bs
  let base := 8 * (p.span j).1
  (List.range (min 1024 (p.totalLanes - 1024 * j))).map fun k =>
    let l := 1024 * j + k
    let f := Assoc.get { off := 0, wid := 0, sgn := false } p.fields (l % p.lanes)
    let x := v / 2 ^ (l / p.lanes * p.period + f.off - base) % 2 ^ (f.wid + 1)
    if f.sgn then BitVec.ofInt 32 (signed (f.wid + 1) x) else BitVec.ofNat 32 x

/-- One period's bits from its lanes: a later field wins over an earlier one. -/
def AgParams.packPeriod (p : AgParams) (ls : List (BitVec 32)) : Nat :=
  (ls.zipIdx).foldl (fun (v : BitVec 128) e =>
    let f := Assoc.get { off := 0, wid := 0, sgn := false } p.fields e.2
    let m : BitVec 128 := BitVec.ofNat 128 ((2 ^ (f.wid + 1) - 1) * 2 ^ f.off)
    (v &&& ~~~m) ||| (BitVec.ofNat 128 (e.1.toNat * 2 ^ f.off) &&& m)) 0 |>.toNat

/-- The bits of whole periods, the first lowest, above `acc`, which holds `n` bits. -/
def AgParams.packAll (fuel : Nat) (p : AgParams) (ls : List (BitVec 32)) (acc n : Nat) : Nat × Nat × List (BitVec 32) :=
  match fuel with
  | 0 => (acc, n, ls)
  | fuel + 1 =>
    if ls.length < p.lanes then (acc, n, ls)
    else AgParams.packAll fuel p (ls.drop p.lanes) (acc + p.packPeriod (ls.take p.lanes) % 2 ^ p.period * 2 ^ n)
      (n + p.period)

/-- Read the parts of an operand in order. -/
def State.readParts (s : State) (t : Task) (l : List Part) : List Byte × State :=
  l.foldl (fun acc e => let (b, s) := acc.2.readPlace t e.pl e.len true
                        (acc.1 ++ b, s)) ([], s)

/-- Write the parts of an operand in order. -/
def State.writeParts (s : State) (tid : Nat) (l : List Part) (bs : List Byte) : State :=
  (l.foldl (fun (acc : State × List Byte) e => (acc.1.writePlace tid e.pl (acc.2.take e.len) true, acc.2.drop e.len)) (s, bs)).1

/-- The place `n` bytes further in the same sector. -/
def Place.plus (pl : Place) (n : Nat) : Place :=
  match pl with
  | .spad o => .spad (o + n)
  | .acc o => .acc (o + n)
  | .md o => .md (o + n)
  | .cluster o => .cluster (o + n)
  | .stripe o => .stripe (o + n)
  | .phys a st => .phys (a + n) st

/-- Write a run of bytes inside one sector, those for which `on` holds: whole when it holds for every one (R373). -/
def State.writeRun (s : State) (tid : Nat) (pl : Place) (bs : List Byte) (on : Nat → Bool) : State :=
  if (List.range bs.length).all on then s.writePlace tid pl bs true
  else bs.zipIdx.foldl (fun s b => if on b.2 then s.writePlace tid (pl.plus b.2) [b.1] true else s) s

/-- Write only the four bytes of each active lane (R266). The accumulator holds the operand's bytes that are left and the number
of those that are done. -/
def State.writeMasked (s : State) (tid : Nat) (l : List Part) (bs : List Byte) (mask : Mask) : State :=
  (l.foldl (fun (acc : State × List Byte × Nat) e =>
    (acc.1.writeRun tid e.pl (acc.2.1.take e.len) fun i => mask.getLsbD ((acc.2.2 + i) / 4), acc.2.1.drop e.len,
      acc.2.2 + e.len)) (s, bs, 0)).1

/-! ### The last period of a stopped walk (R156, R257, R258, R263) -/

/-- The bytes of the stream, first and past last, that hold lanes of the first `j` operands of a store and that these do not
complete: those of a period that goes on into the next operand. -/
def AgParams.tailSpan (p : AgParams) (j : Nat) : Nat × Nat :=
  if p.unp && decide (0 < j) && decide (j < p.operands) then
    ((p.storeSpan (j - 1)).2, min p.bytes (ceilDiv (ceilDiv (1024 * j) p.lanes * p.period) 8))
  else (0, 0)

/-- The bits of a period that some of its lanes give, and which bits those are. -/
def AgParams.partPeriod (p : AgParams) (ls : List (BitVec 32)) : Nat × Nat :=
  (p.packPeriod ls, p.packPeriod (ls.map fun _ => BitVec.allOnes 32))

/-- The bits that the lanes of a walk's written operands give in its tail, and which bits those are. -/
def Gen.tailBits (x : Gen) (p : AgParams) : Nat × Nat :=
  let r := 1024 * x.pos / p.lanes * p.period % 8
  let (v, m) := p.partPeriod x.carry
  (x.cbits % 2 ^ r + v * 2 ^ r, 2 ^ r - 1 + m * 2 ^ r)

/-- The parts of the tail of a store walk that resolve. -/
def State.tailParts (s : State) (t : Task) (x : Gen) (p : AgParams) : List Part :=
  let (lo, hi) := p.tailSpan x.pos
  s.partsOf t .write (p.pieces (hi - lo) lo hi)

/-- A byte with the bits of `v` where `m` is set, and its own elsewhere. -/
def mergeByte (old v m : Nat) : Byte := (BitVec.ofNat 8 old &&& ~~~(BitVec.ofNat 8 m)) ||| (BitVec.ofNat 8 v &&& BitVec.ofNat 8 m)

/-- Write the tail of a store walk that goes no further: the bits that its written lanes give, and no other (DESIGN CHOICE,
assumption 94: the spec has an operand written whole, and does not say what becomes of the rest of a period it leaves incomplete).
The accumulator holds the bits that are left and their mask. -/
def State.writeTail (s : State) (tid : Nat) (t : Task) (x : Gen) (p : AgParams) : State :=
  let (v, m) := x.tailBits p
  ((s.tailParts t x p).foldl (fun (acc : State × Nat × Nat) e =>
    let old := (acc.1.readPlace t e.pl e.len true).1
    let bs := old.zipIdx.map fun b => mergeByte b.1.toNat (acc.2.1 / 2 ^ (8 * b.2)) (acc.2.2 / 2 ^ (8 * b.2))
    (acc.1.writePlace tid e.pl bs true, acc.2.1 / 2 ^ (8 * e.len), acc.2.2 / 2 ^ (8 * e.len))) (s, v, m)).1

/-- The bytes of an operand's lanes. -/
def laneBytes (v : VReg) : List Byte := (Assoc.dense 0 v 0 1024).flatMap fun x => toBytes 4 x.toNat

/-- A generator without a walk. -/
def Gen.idle (x : Gen) : Gen :=
  { x with active := none, pos := 0, busy := false, held := false, stopping := false, carry := [], cbits := 0, begun := [] }

/-- A generator whose walk has ended takes its queued set; empty walks end at once. -/
def Gen.nextSet (x : Gen) : Gen :=
  let y := x.idle
  match x.queued with
  | some a => if a.par.operands == 0 then { y with queued := none, ops := 0 }
              else { y with active := some a, queued := none, ops := 0 }
  | none => y

/-- Queue a set on a generator that has room (R257). -/
def Gen.queue (x : Gen) (a : AgSet) : Gen :=
  match x.active with
  | none => ({ x with queued := some a } : Gen).nextSet
  | some _ => { x with queued := some a }

/-- An operand of the active walk is done. -/
def Gen.advance (x : Gen) (total : Nat) : Gen :=
  let y := { x with pos := x.pos + 1, busy := false, held := false, ops := x.ops + 1, begun := [] }
  if total ≤ y.pos then y.nextSet else y

end Sys2Proof.Machine
end

