-- ==== Sys2Proof/Machine/Ag.lean ====
section
/-! DEFINITION. The AG and PORTMEM groups (R260 to R266), and the generators' events (R245, R257, R258). -/

namespace Sys2Proof.Machine

/-! ### AG: the shadow set (R261) -/

/-- Change the shadow set of a generator. -/
def Task.modShadow (t : Task) (g : Nat) (f : AgParams → AgParams) : Task :=
  let x := t.gen g
  t.setGen g { x with shadow := f x.shadow }

/-- `agbase agN, xa` (R261). -/
def execAgbase (w : Stall) (a : SReg) (g : Fin 8) (s : State) : Host.Outcome State Fault Refusal :=
  s.issue w (scalars [a]) fun s tid q t =>
    let v := (t.sq q).rd a
    .done (s.modTask tid (·.modShadow g.val fun p => { p with base := v }))

/-- `aglev agN, level, xa, xd` (R261): D is the stride's source. -/
def execAglev (w : Stall) (d a : SReg) (l : Fin 6) (g : Fin 8) (s : State) : Host.Outcome State Fault Refusal :=
  s.issue w (scalars [d, a]) fun s tid q t =>
    let n := ((t.sq q).rd a).toNat % 2 ^ 32
    let k := signed 40 ((t.sq q).rd d).toNat
    .done (s.modTask tid (·.modShadow g.val fun p =>
      { p with bound := Assoc.set 1 p.bound l.val n, stride := Assoc.set 0 p.stride l.val k }))

/-- The zero field of a pattern. -/
def AgField.zero : AgField := { off := 0, wid := 0, sgn := false }

/-- One field of a pattern from the bits of xa, starting at bit `lo` (R261). -/
def AgField.ofBits (v lo : Nat) : AgField :=
  { off := bits v (lo + 6) lo, wid := bits v (lo + 11) (lo + 7), sgn := bitAt v (lo + 12) }

/-- A write of `agpat` (R261). -/
def AgParams.pattern (p : AgParams) (sel v : Nat) : AgParams :=
  if sel == 0 then { p with chunk := bits v 3 0, unp := bitAt v 4, per := bits v 11 5, nf := bits v 14 12 }
  else
    let i := 2 * (sel - 1)
    { p with fields := Assoc.set AgField.zero (Assoc.set AgField.zero p.fields i (AgField.ofBits v 0)) (i + 1)
                         (AgField.ofBits v 16) }

/-- `agpat agN, sel, xa` (R261). -/
def execAgpat (w : Stall) (a : SReg) (l : Fin 5) (g : Fin 8) (s : State) : Host.Outcome State Fault Refusal :=
  s.issue w (scalars [a]) fun s tid q t =>
    let v := ((t.sq q).rd a).toNat
    .done (s.modTask tid (·.modShadow g.val fun p => p.pattern l.val v))

/-! ### Queueing and waiting (R262, R263) -/

/-- Whether `aggo` refuses a shadow set (R262). -/
def AgParams.refused (p : AgParams) : Bool :=
  decide (12 < p.chunk) || (p.unp && (List.range p.lanes).any fun i =>
    let f := Assoc.get AgField.zero p.fields i
    decide (p.per < f.off + f.wid))

/-- The class of the accesses of a generator's walk (R294). -/
def genClass (g : Nat) : Class := if g < 4 then .ld else .st

/-- A halted generator whose fault has not been raised is cleared by an `aggo` (R262). -/
def Gen.cleared (x : Gen) : Gen :=
  if x.halt.isSome && !x.raised then
    { x.idle with queued := none, halt := none }
  else x

/-- Queue a set on a generator, or wait at issue while both of its places are occupied (R262). -/
def State.queueSet (s : State) (tid : Nat) (q : Seq) (t : Task) (g : Nat) (x : Gen) (p : AgParams) : Eff :=
  if x.active.isSome && x.queued.isSome then .hold s .ag
  else
    let (uid, s) := s.newUid
    .done (s.modTask tid (·.setGen g (x.queue
      { par := p, uid := uid, after := (t.sq q).holders [genClass g], xl := (t.sq q).xlFences })))

/-- Whether the tail of a walk that goes no further stands held on a reservation (R221). -/
def Gen.tailWaits (x : Gen) : Bool := x.active.isSome && x.held && !x.busy

/-- `aggo agN` (R262). -/
def execAggo (w : Stall) (g : Fin 8) (s : State) : Host.Outcome State Fault Refusal :=
  s.issue w (scalars []) fun s tid q t =>
    let p := (t.gen g.val).shadow
    if p.refused then .trap s { Trap.ofClass 2 with cspace := 2, cause := 4 }
    else if (t.gen g.val).tailWaits then .hold s .ag
    else s.queueSet tid q t g.val (t.gen g.val).cleared { p with masked := false }

/-- A generator stops at its next operand boundary; one that a fault has halted has no operand to end, and the tail of its walk has
been written as it halted (R156 step 2, R258, R263). -/
def Gen.stop (x : Gen) : Gen :=
  let y := { x with queued := none, halt := none, raised := false, stopping := x.active.isSome }
  if x.halt.isSome && !x.tailWaits then { y with pos := 0, carry := [], cbits := 0 } else y

/-- The tail of a store walk that goes no further is written; held on a reservation, it waits for it, which HOLDCNT counts
(R221). -/
def State.landTail (s : State) (tid g : Nat) : State :=
  match Assoc.find s.tasks tid with
  | none => s
  | some t =>
    let x := t.gen g
    match if 4 ≤ g then x.active else none with
    | none => s
    | some a =>
      if t.partsHeld (s.tailParts t x a.par) then (s.tickHeld tid).modTask tid fun t => t.setGen g { t.gen g with held := true }
      else (s.writeTail tid t x a.par).modTask tid fun t => t.setGen g { t.gen g with held := false }

/-- The end of a walk that is to stop, at an operand boundary: its tail is written, and the generator is idle. -/
def State.endWalk (s : State) (tid g : Nat) : State :=
  match Assoc.find s.tasks tid with
  | none => s
  | some t =>
    if !(t.gen g).stopping || (t.gen g).busy then s
    else (s.landTail tid g).modTask tid fun t => if (t.gen g).held then t else t.setGen g (t.gen g).idle

/-- Whether a generator of a task walks. -/
def State.walking (s : State) (tid g : Nat) : Bool := (Assoc.find s.tasks tid).any fun t => (t.gen g).active.isSome

/-- `agstop agN` (R263). -/
def execAgstop (w : Stall) (g : Fin 8) (s : State) : Host.Outcome State Fault Refusal :=
  s.issue w (scalars []) fun s tid _ t =>
    let s := (s.modTask tid (·.setGen g.val (t.gen g.val).stop)).endWalk tid g.val
    if s.walking tid g.val then .wait s .ag else .done s

/-- The trap of a generator fault (R264, R367). -/
def AgHalt.trap (h : AgHalt) (g : Nat) : Trap :=
  let cls := if h.cause == 1 then 5 else if h.cause == 2 then 6 else if h.cause == 3 then 10 else 15
  { Trap.ofClass cls with cspace := 2, cause := h.cause, addr := h.addr.toNat, info := g }

/-- Raise the fault of a halted generator, once (R258, R263); poisoned data has been raised as a machine check (R375). -/
def Gen.fault (x : Gen) : Option AgHalt :=
  match x.halt with
  | some h => if h.cause == 5 then none else some h
  | none => none

/-- `agwait agN` (R263). -/
def execAgwait (w : Stall) (g : Fin 8) (s : State) : Host.Outcome State Fault Refusal :=
  s.issue w (scalars []) fun s tid _ t =>
    let x := t.gen g.val
    match x.fault with
    | some h => .trap (s.modTask tid (·.setGen g.val { x with raised := true })) (h.trap g.val)
    | none => if x.active.isSome || x.queued.isSome then .wait s .ag else .done s

/-- The value of `agstat` (R263). -/
def Gen.status (x : Gen) : Word :=
  BitVec.ofNat 64 ((if x.active.isSome then 2 ^ 62 else 0) + (if x.queued.isSome then 2 ^ 61 else 0) + x.ops.toNat)

/-- `agstat xd, agN` (R263). -/
def execAgstat (w : Stall) (d : SReg) (g : Fin 8) (s : State) : Host.Outcome State Fault Refusal :=
  s.issue w (scalars [d]) fun s tid q t =>
    let x := t.gen g.val
    match x.fault with
    | some h => .trap (s.modTask tid (·.setGen g.val { x with raised := true })) (h.trap g.val)
    | none => .done (s.result tid q 1 d x.status)

/-! ### PORTMEM (R265, R266) -/

/-- A PORTMEM instruction: its address checks, and its implicit set on a generator. -/
def State.portSet (s : State) (w : Stall) (g : Nat) (a : SReg) (m : BitVec 8) (unit : Nat) (p : AgParams) :
    Host.Outcome State Fault Refusal :=
  s.issue w (scalars [a]) fun s tid q t =>
    let va := (t.sq q).rd a + m.signExtend 64 * BitVec.ofNat 64 unit
    if 2 ^ 60 ≤ va.toNat then .trap s { Trap.ofClass 6 with addr := va.toNat }
    else if va.toNat % 64 != 0 then .trap s { Trap.ofClass 5 with addr := va.toNat }
    else s.queueSet tid q t g (t.gen g) { p with base := va }

/-- `ldq lqN, imm(xa)` (R265). -/
def execLdq (w : Stall) (p : Fin 4) (a : SReg) (m : BitVec 8) (s : State) : Host.Outcome State Fault Refusal :=
  s.portSet w p.val a m 4096 AgParams.start

/-- `ldqb lqN, imm(xa)` (R265). -/
def execLdqb (w : Stall) (p : Fin 4) (a : SReg) (m : BitVec 8) (s : State) : Host.Outcome State Fault Refusal :=
  s.portSet w p.val a m 256 { AgParams.start with chunk := 8, bound := [(0, 16)] }

/-- `stq sqN, imm(xa)` (R265). -/
def execStq (w : Stall) (p : Fin 4) (a : SReg) (m : BitVec 8) (s : State) : Host.Outcome State Fault Refusal :=
  s.portSet w (4 + p.val) a m 4096 AgParams.start

/-- `stqm sqN, imm(xa)` (R265, R266). -/
def execStqm (w : Stall) (p : Fin 4) (a : SReg) (m : BitVec 8) (s : State) : Host.Outcome State Fault Refusal :=
  s.portSet w (4 + p.val) a m 4096 { AgParams.start with masked := true }

/-! ### Ports and the generators' events -/

/-- The entries of a load port. -/
def Task.loadPort (t : Task) (j : Nat) : List Operand := Assoc.get [] t.loadPorts j

/-- The entries of a store port. -/
def Task.storePort (t : Task) (j : Nat) : List SqEntry := Assoc.get [] t.storePorts j

/-- Whether the port side lets a generator begin an operand: room in a load port, a filled head in a store port (R174,
R257). -/
def Task.portReady (t : Task) (g : Nat) : Bool :=
  if g < 4 then decide ((t.loadPort g).length < 4)
  else match t.storePort (g - 4) with
    | e :: _ => e.op.isSome
    | [] => false

/-- Halt a generator before the operand that needs the fault's address (R258): what its written operands leave of a period is
written. -/
def State.haltGen (s : State) (tid g : Nat) (h : AgHalt) : State :=
  (s.modTask tid fun t => t.setGen g { t.gen g with halt := some h, busy := false, begun := [] }).landTail tid g

/-- Halt a generator on poisoned data: a machine check is noted (R375). In a walk that is to stop nothing follows it. -/
def State.haltPoisoned (s : State) (tid g code addr : Nat) : State :=
  (s.haltGen tid g ⟨5, BitVec.ofNat 64 addr⟩).modTask tid fun t =>
    let x := { t.gen g with raised := true }
    { t.setGen g (if x.stopping then { x.idle with halt := none, raised := false } else x) with
      checks := t.checks ++ [{ array := code, cspace := 2, cause := 5, addr := BitVec.ofNat 64 addr }] }

/-- The walk whose next operand a generator can begin: it is not halted or inside one, no barrier holds the walk, and its port is
ready (R174, R257, R295). -/
def Task.nextOperand (t : Task) (g : Nat) : Option AgSet :=
  let x := t.gen g
  x.active.filter fun a => t.life == .running && x.halt.isNone && !x.busy && !x.stopping && t.clear a.after && t.portReady g

/-- The walk whose next operand a generator begins: no fence holds a page walk that it needs (R295). -/
def State.nextOperand (s : State) (t : Task) (g : Nat) : Option AgSet :=
  if !s.moves t then none
  else (t.nextOperand g).filter fun a =>
    a.xl.isEmpty || !((a.par.operandPieces (decide (4 ≤ g)) (t.gen g).pos).any fun x => s.walkHeldBy t a.xl x.va x.len)

/-- Whether a generator's request waits for the generator front: its next operand lies in scratchpad (R245). -/
def State.frontPending (s : State) (t : Task) (g : Nat) : Bool :=
  (s.nextOperand t g).any fun a => a.par.inSpad (decide (4 ≤ g)) (t.gen g).pos

/-- The requests that wait for the front of a core, in the order of its task slots, then of their generators. -/
def State.frontWants (s : State) (die core : Nat) : List (Nat × Nat) :=
  (List.range 4).flatMap fun slot =>
    (s.tasks.filter fun e => e.2.die == die && e.2.core == core && e.2.slot == slot).flatMap fun e =>
      ((List.range 8).filter (s.frontPending e.2)).map fun g => (e.1, g)

/-- New requests join those that wait for the front of a core, and requests that are over leave (R245). -/
def State.frontUpdate (s : State) (die core : Nat) : State :=
  let c := s.core die core
  let want := s.frontWants die core
  let old := c.agQ.filter want.contains
  let q := old ++ want.filter fun r => !old.contains r
  if q == c.agQ then s else s.setCore die core { c with agQ := q }

/-- A generator begins its next operand: the front accepts its request, which has waited longest, or it starts on its own path
(R245). It halts on a fault (R258). -/
def State.agAccept (s : State) (tid g : Nat) : State :=
  match Assoc.find s.tasks tid with
  | none => s
  | some t =>
    let pos := (t.gen g).pos
    match s.nextOperand t g with
    | none => s
    | some a =>
      let spad := a.par.inSpad (decide (4 ≤ g)) pos
      let c := s.core t.die t.core
      if spad && c.agQ.head? != some (tid, g) then s
      else
        let s := if spad then s.setCore t.die t.core { c with agQ := c.agQ.drop 1 } else s
        match s.operandFault t g a.par pos with
        | some h =>
          if h.cause == 5 then s.haltPoisoned tid g (s.entryPoison t h.addr.toNat (genNeed g)) h.addr.toNat else s.haltGen tid g h
        | none =>
          match if g < 4 then s.operandPoison tid t a.par pos else none with
          | some (code, addr) => s.haltPoisoned tid g code addr
          | none =>
            let ps := a.par.operandPieces (decide (4 ≤ g)) pos
            (s.keepPieces t ps).modTask tid
              (·.setGen g { t.gen g with busy := true, begun := (s.partsOf t (genNeed g) ps).map (·.pl) })

/-- The first poisoned part of a load's accepted operand: array code and address. -/
def State.partPoison (s : State) (tid : Nat) (t : Task) (l : List Part) : Option (Nat × Nat) :=
  l.findSome? fun e => (s.poisonSeen tid t e.pl).map fun c => (c, e.va)

/-- Deliver an accepted operand to its load port (R257). -/
def State.agDeliver (s : State) (tid g : Nat) (t : Task) (x : Gen) (p : AgParams) : State :=
  let (bs, s) := s.readParts t (s.begunParts t g)
  let lanes := if p.unp then p.unpack x.pos bs else lanesOf bs 1024
  let op : Operand := { data := Assoc.ofList 0 lanes 0, mask := BitVec.allOnes 1024 }
  s.modTask tid fun t => { t.setGen g (x.advance p.operands) with
    loadPorts := Assoc.set [] t.loadPorts g (t.loadPort g ++ [op]) }

/-- Write an accepted operand, the head of its store port (R257, R266). -/
def State.agStore (s : State) (tid g : Nat) (t : Task) (x : Gen) (p : AgParams) (op : Operand) (rest : List SqEntry) : State :=
  let ps := s.begunParts t g
  if p.unp then
    let ls := x.carry ++ ((Assoc.dense 0 op.data 0 1024).take (p.totalLanes - 1024 * x.pos))
    let lead := (1024 * x.pos / p.lanes * p.period) % 8
    let (acc, n, left) := p.packAll 1025 ls (x.cbits % 2 ^ lead) lead
    let bytes := (ps.map (·.len)).sum
    let s := s.writeParts tid ps (toBytes bytes acc)
    s.modTask tid fun t => { t.setGen g (({ x with carry := left, cbits := acc / 2 ^ (n / 8 * 8) } : Gen).advance p.operands) with
      storePorts := Assoc.set [] t.storePorts (g - 4) rest }
  else
    let bs := laneBytes op.data
    let s := if p.masked then s.writeMasked tid ps bs op.mask else s.writeParts tid ps bs
    s.modTask tid fun t => { t.setGen g (x.advance p.operands) with
      storePorts := Assoc.set [] t.storePorts (g - 4) rest }

/-- Write an accepted operand of a store; one that meets a reserved range stays held, which HOLDCNT counts (R221). -/
def State.agLand (s : State) (tid g : Nat) (t : Task) (a : AgSet) : State :=
  let x := t.gen g
  match t.storePort (g - 4) with
  | ⟨_, some op⟩ :: rest =>
    if t.partsHeld (s.begunParts t g) then (s.tickHeld tid).modTask tid (·.setGen g { x with held := true })
    else (s.agStore tid g t x a.par op rest).endWalk tid g
  | _ => s.modTask tid (·.setGen g { x with busy := false, held := false, begun := [] })

/-- An accepted operand is delivered or written, whatever has become of its mapping since (R156, R301). Data that has been poisoned
meanwhile halts the generator (R373, R375). -/
def State.agComplete (s : State) (tid g : Nat) : State :=
  match Assoc.find s.tasks tid with
  | none => s
  | some t =>
    let x := t.gen g
    match x.active with
    | none => s
    | some a =>
      if !x.busy || !s.moves t then s
      else if g < 4 then
        match s.partPoison tid t (s.begunParts t g) with
        | some (code, addr) => s.haltPoisoned tid g code addr
        | none => (s.agDeliver tid g t x a.par).endWalk tid g
      else s.agLand tid g t a

/-- A held store operand, or tail, whose last reservation has ended lands (R221, R286). -/
def State.agRelease (s : State) (tid g : Nat) : State :=
  match Assoc.find s.tasks tid with
  | none => s
  | some t =>
    let x := t.gen g
    match x.active.filter fun a =>
        x.held && !t.partsHeld (if x.busy then s.begunParts t g else s.tailParts t x a.par) with
    | some _ => if x.busy then s.agComplete tid g else if x.stopping then s.endWalk tid g else s.landTail tid g
    | none => s

/-- What the generators of a task that moves have to do between turns. -/
def State.agSettle (s : State) (tid : Nat) : State := [4, 5, 6, 7].foldl (fun s g => s.agRelease tid g) s

/-- `AG_OPERAND_ACCEPT` (R245). -/
def execAgOperandAccept (t : Nat) (g : Fin 8) (s : State) : Host.Outcome State Fault Refusal := .next (s.agAccept t g.val)

/-- `AG_OPERAND_COMPLETE` (R257). -/
def execAgOperandComplete (t : Nat) (g : Fin 8) (s : State) : Host.Outcome State Fault Refusal :=
  .next (s.agComplete t g.val)

/-- Whether a wait is for a port. -/
def Wait.isPort : Wait → Bool
  | .pop _ => true
  | .push _ => true
  | _ => false

/-- A sequencer that waits for one of some reasons has its turn next. -/
def State.wake (s : State) (tid : Nat) (q : Seq) (why : Wait → Bool) : State :=
  match Assoc.find s.tasks tid with
  | some t => match (t.sq q).wait with
    | some r => if why r then { s with agenda := .issue tid q :: s.agenda } else s
    | none => s
  | none => s

/-- `PORT_WAIT_COMPLETE` (R174): a waiting pop or push is tried again. -/
def execPortWaitComplete (t : Nat) (q : Seq) (s : State) : Host.Outcome State Fault Refusal := .next (s.wake t q Wait.isPort)

end Sys2Proof.Machine
end

