-- ==== Sys2Proof/Machine/Flags.lean ====
section
/-! DEFINITION. The conditions the HX9 tests. It has no flag register: a comparison writes 0 or 1, a branch tests two
registers, and a predicate register holds one bit per lane. -/

namespace Sys2Proof.Machine

/-- A comparison's result (R157). -/
def flag (b : Bool) : Word := if b then 1 else 0

/-- Signed less than. -/
def ltS (a b : Word) : Bool := decide (a.toInt < b.toInt)
/-- Unsigned less than. -/
def ltU (a b : Word) : Bool := decide (a.toNat < b.toNat)

/-- The active lanes of an instruction with a predicate prefix (R122, R173). -/
def Task.active (t : Task) (p : Pfx) : Mask :=
  if p.p = 0 then BitVec.allOnes 1024 else if p.pn then ~~~t.preg p.p.val else t.preg p.p.val

end Sys2Proof.Machine
end

