-- ==== Sys2Proof/Machine/Operands.lean ====
section
/-! DEFINITION. Vector operands: names under rotation (R172), ports (R125, R174), the shared vector unit (R154, R175), lane
activity (R173), and the ways results are formed lane by lane, element by element and value by value (R171, R176). -/

namespace Sys2Proof.Machine

/-! ### Names (R172) -/

/-- NROT. -/
def Task.nrot (t : Task) : Nat := 16 * t.tt.vreg

/-- The physical register a name names. -/
def Task.physOf (t : Task) (i : Nat) : Nat := if i < 16 then i else 16 + (i - 16 + t.rofs) % max 1 t.nrot

/-- The registers of vector sources. -/
def srcNames (t : Task) (l : List VSrc) : List RegName :=
  l.filterMap fun a => match a with
    | .v n => some (.v (t.physOf n.val))
    | .lq _ => none

/-- The register of a vector destination. -/
def dstNames (t : Task) (d : VDst) : List RegName :=
  match d with
  | .v n => [.v (t.physOf n.val)]
  | .sq _ => []

/-- The register of a predicate prefix; p0 is never pending. -/
def pfxNames (p : Pfx) : List RegName := if p.p = 0 then [] else [.p p.p.val]

/-! ### Ports (R125, R174) -/

/-- The load ports that sources name, in field order. -/
def portsOf (l : List VSrc) : List Nat :=
  l.filterMap fun a => match a with
    | .lq n => some n.val
    | .v _ => none

/-- Whether each load port holds the operands an instruction pops. -/
def Task.popsReady (t : Task) (l : List VSrc) : Bool :=
  (portsOf l).all fun j => decide ((portsOf l).count j ≤ (t.loadPort j).length)

/-- The wait of an instruction whose load ports lack an operand, in field order (R332). -/
def Task.popWait (t : Task) (l : List VSrc) : Wait :=
  .pop (((portsOf l).filter fun j => decide ((t.loadPort j).length < (portsOf l).count j)).map (32 + ·))

/-- The wait of an instruction whose store port is full. -/
def pushWait : VDst → Wait
  | .sq n => .push (36 + n.val)
  | .v _ => .push 36

/-- Whether a destination can be written: a store port has a free entry. -/
def Task.pushReady (t : Task) (d : VDst) : Bool :=
  match d with
  | .v _ => true
  | .sq n => decide ((t.storePort n.val).length < 4)

/-- Read the sources in field order, popping load ports. -/
def Task.readSrcs (t : Task) : List VSrc → Task × List VReg
  | [] => (t, [])
  | .v n :: r =>
    let (t', vs) := t.readSrcs r
    (t', t.vreg (t.physOf n.val) :: vs)
  | .lq n :: r =>
    let es := t.loadPort n.val
    let (t', vs) := Task.readSrcs { t with loadPorts := Assoc.set [] t.loadPorts n.val (es.drop 1) } r
    (t', (match es with
      | e :: _ => e.data
      | [] => []) :: vs)

/-- The mask a result carries: the lanes written for a register, the activity mask for a store-port entry (R173, R266). -/
def resultMask (d : VDst) (active written : Mask) : Mask :=
  match d with
  | .v _ => written
  | .sq _ => active

/-- Pend a result of the C-seq, `lat` cycles from now: a register, or a store-port entry reserved here (R149, R174). -/
def State.vecResult (s : State) (tid : Nat) (t : Task) (lat : Nat) (d : VDst) (mask : Mask) (data : VReg) : State :=
  match d with
  | .v n => s.modSq tid .c (·.pend lat (.vreg (t.physOf n.val) mask data))
  | .sq n =>
    let (id, s) := s.newUid
    (s.modTask tid fun t => { t with
      storePorts := Assoc.set [] t.storePorts n.val (t.storePort n.val ++ [{ id := id, op := none }]) }).modSq tid .c
        (·.pend lat (.sq n.val id { data := data, mask := mask }))

/-! ### The vector unit (R154, R175) -/

/-- Whether a task's instruction is held for the vector unit: it is occupied, or another has been ready longer. -/
def State.vecHeld (s : State) (tid : Nat) (t : Task) : Bool :=
  let c := s.core t.die t.core
  c.vecBusy || (match c.vecQ with
    | h :: _ => h != tid
    | [] => false)

/-- A task joins those that are ready for the unit. A held cycle does not advance its issue clock (R147). -/
def State.vecWait (s : State) (tid : Nat) (t : Task) : State :=
  let c := s.core t.die t.core
  let s := s.modSq tid .c fun x => { x with wait := none, waited := 0, hung := false }
  if c.vecQ.contains tid then s else s.setCore t.die t.core { c with vecQ := c.vecQ ++ [tid] }

/-- The unit accepts a task's instruction, and is occupied until `VECTOR_UNIT_OCCUPANCY_END`. -/
def State.vecTake (s : State) (tid : Nat) (t : Task) : State :=
  let c := s.core t.die t.core
  s.setCore t.die t.core { c with vecBusy := true, vecQ := c.vecQ.filter (· != tid) }

/-- The accumulator port, shared in the same way (R216). -/
def State.accHeld (s : State) (tid : Nat) (t : Task) : Bool :=
  let c := s.core t.die t.core
  c.accBusy || (match c.accQ with
    | h :: _ => h != tid
    | [] => false)

/-- A task joins those that are ready for the accumulator port. -/
def State.accWait (s : State) (tid : Nat) (t : Task) : State :=
  let c := s.core t.die t.core
  let s := s.modSq tid .c fun x => { x with wait := none, waited := 0, hung := false }
  if c.accQ.contains tid then s else s.setCore t.die t.core { c with accQ := c.accQ ++ [tid] }

/-- The accumulator port accepts a task's instruction. -/
def State.accTake (s : State) (tid : Nat) (t : Task) : State :=
  let c := s.core t.die t.core
  s.setCore t.die t.core { c with accBusy := true, accQ := c.accQ.filter (· != tid) }

/-- A task whose instruction is not ready leaves those that are ready for the accumulator port (R154). -/
def State.accLeave (s : State) (tid : Nat) (t : Task) : State :=
  let c := s.core t.die t.core
  if c.accQ.contains tid then s.setCore t.die t.core { c with accQ := c.accQ.filter (· != tid) } else s

/-- The unit or the port can accept an instruction again; the task that has been ready longest has its turn next. -/
def State.occupancyEnd (s : State) (die core : Nat) (acc : Bool) : State :=
  let c := s.core die core
  let c := if acc then { c with accBusy := false } else { c with vecBusy := false }
  let s := s.setCore die core c
  match if acc then c.accQ else c.vecQ with
  | t :: _ => { s with agenda := .issue t .c :: s.agenda }
  | [] => s

/-- `VECTOR_UNIT_OCCUPANCY_END` (R175, R216). -/
def execVectorUnitOccupancyEnd (die core : Nat) (acc : Bool) (s : State) : Host.Outcome State Fault Refusal :=
  .next (s.occupancyEnd die core acc)

/-! ### Issuing a vector instruction -/

/-- A C-seq instruction issued with RND = rsr advances SRNDCNT (R37, R126). -/
def State.countRnd (s : State) (tid : Nat) (r : Rnd) : State :=
  if r == .rsr then s.modTask tid fun t => { t with srnd := t.srnd + 1 } else s

/-- The draw of a lane's element for a task (R36). -/
def Task.draw (t : Task) (lane e : Nat) : Nat := randU32 t.wid t.srnd.toNat (lane / 64) (lane % 64) e

/-- What a vector instruction reads and writes. `every` marks the one form that writes whatever its predicate holds. -/
structure VForm where
  pfx : Pfx
  rnd : Rnd
  dsts : List VDst
  srcs : List VSrc
  every : Bool

/-- The registers of a form. -/
def VForm.names (f : VForm) (t : Task) : List RegName :=
  pfxNames f.pfx ++ srcNames t f.srcs ++ f.dsts.flatMap (dstNames t)

/-- Issue a vector instruction: it waits for its ports, and then for the unit; with no active lane it pops, pushes and
writes nothing (R173 to R175). -/
def State.vecIssue (s : State) (w : Stall) (f : VForm) (k : State → Nat → Task → Mask → List VReg → State) :
    Host.Outcome State Fault Refusal :=
  s.issue w f.names fun s tid _ t =>
    let m := t.active f.pfx
    let live := f.every || m != 0
    if live && !t.popsReady f.srcs then .hold s (t.popWait f.srcs)
    else if live && !f.dsts.all t.pushReady then .hold s ((f.dsts.find? fun d => !t.pushReady d).elim (.push 36) pushWait)
    else if s.vecHeld tid t then .held (s.vecWait tid t)
    else
      let s := s.vecTake tid t
      let s := if live then
          let (t', vs) := t.readSrcs f.srcs
          k (s.setTask tid t') tid t m vs
        else s
      .done (s.countRnd tid f.rnd)

/-- A vector instruction with one vector result, written in the lanes of the mask its function gives. -/
def State.vecOne (s : State) (w : Stall) (f : VForm) (lat : Nat) (d : VDst)
    (k : Task → Mask → VReg → VReg → VReg → Mask × VReg) : Host.Outcome State Fault Refusal :=
  s.vecIssue w { f with dsts := [d] } fun s tid t m vs =>
    let (m, v) := k t m (vs.getD 0 []) (vs.getD 1 []) (vs.getD 2 [])
    s.vecResult tid t lat d m v

/-- The plain form: a prefix, a rounding and some sources. -/
def VForm.of (p : Pfx) (r : Rnd) (srcs : List VSrc) : VForm :=
  { pfx := p, rnd := r, dsts := [], srcs := srcs, every := false }

/-! ### Lanes -/

/-- The lanes of a register as numbers, in order. -/
def laneVals (v : VReg) : List Nat := (Assoc.dense 0 v 0 1024).map (·.toNat)

/-- A register from its lanes. -/
def VReg.of (l : List Nat) : VReg := Assoc.ofList 0 (l.map (BitVec.ofNat 32)) 0

/-- Numbers with their positions, from `k` on. -/
def numbered {α : Type} (k : Nat) : List α → List (Nat × α)
  | [] => []
  | a :: r => (k, a) :: numbered (k + 1) r

/-- Apply a function to corresponding members of three lists, with their position. -/
def zip3 {α : Type} (f : Nat → Nat → Nat → Nat → α) (a b c : List Nat) : List α :=
  (numbered 0 (a.zip (b.zip c))).map fun e => f e.1 e.2.1 e.2.2.1 e.2.2.2

/-- A register formed lane by lane: 0 in inactive lanes. -/
def mapLanes (m : Mask) (f : Nat → Nat → Nat → Nat → Nat) (a b c : VReg) : VReg :=
  VReg.of (zip3 (fun k x y z => if m.getLsbD k then f k x y z else 0) (laneVals a) (laneVals b) (laneVals c))

/-- Element `e` of storage width `w` of a lane (R25). -/
def element (w e x : Nat) : Nat := x / 2 ^ (w * e) % 2 ^ w

/-- A lane from its elements, for which a function gives bits of width `w` (R25). -/
def packLane (w : Nat) (f : Nat → Nat) : Nat := ((List.range (32 / w)).map fun e => f e % 2 ^ w * 2 ^ (w * e)).sum

/-- A register formed element by element (R171). -/
def mapElements (m : Mask) (w : Nat) (f : Nat → Nat → Nat → Nat → Nat → Nat) (a b c : VReg) : VReg :=
  mapLanes m (fun k x y z => packLane w fun e => f k e (element w e x) (element w e y) (element w e z)) a b c

/-- The lanes that hold the low halves of fxa values. -/
def evenLanes : Mask := BitVec.ofNat 1024 ((2 ^ 1024 - 1) / 3)

/-- Both lanes of every fxa value whose lower lane is in a set (R173). -/
def pairMask (m : Mask) : Mask := (m &&& evenLanes) ||| ((m &&& evenLanes) <<< 1)

/-- The fxa values of a list of lanes (R25). -/
def pairs : List Nat → List Nat
  | x :: y :: r => (x + 2 ^ 32 * y) :: pairs r
  | _ => []

/-- The lanes of fxa values. -/
def unpairs (l : List Nat) : List Nat := l.flatMap fun v => [v % 2 ^ 32, v / 2 ^ 32 % 2 ^ 32]

/-- A register formed value by value (R171): value `i` stands in lanes 2i and 2i + 1. -/
def mapValues (m : Mask) (f : Nat → Nat → Nat → Nat → Nat) (a b c : VReg) : VReg :=
  VReg.of (unpairs (zip3 (fun i x y z => if m.getLsbD (2 * i) then f (2 * i) x y z else 0)
    (pairs (laneVals a)) (pairs (laneVals b)) (pairs (laneVals c))))

/-! ### Elements by type (R176) -/

/-- A typed instruction: its exact element function, rounded into its type under RND and SAT, for floats, integers and
fxa values alike. -/
def typed (t : Task) (ty : NumType) (rnd : Rnd) (sat : Bool) (f : Ext → Ext → Ext → Ext) (m : Mask) (a b c : VReg) :
    Mask × VReg :=
  let out (k e x y z : Nat) : Nat := convert ty (f (valOf ty x) (valOf ty y) (valOf ty z)) rnd sat (t.draw k e)
  if ty == .fxa then (pairMask m, mapValues m (fun k x y z => out k 0 x y z) a b c)
  else (m, mapElements m ty.width out a b c)

/-- An elementwise instruction of a type. -/
def State.vecTyped (s : State) (w : Stall) (p : Pfx) (ty : NumType) (r : Rnd) (u : Bool) (lat : Nat) (d : VDst)
    (srcs : List VSrc) (f : Ext → Ext → Ext → Ext) : Host.Outcome State Fault Refusal :=
  s.vecOne w (VForm.of p r srcs) lat d fun t m a b c => typed t ty r u f m a b c

/-- A bitwise instruction on whole lanes. -/
def State.vecBits (s : State) (w : Stall) (p : Pfx) (lat : Nat) (d : VDst) (srcs : List VSrc) (f : Nat → Nat → Nat → Nat → Nat) :
    Host.Outcome State Fault Refusal :=
  s.vecOne w (VForm.of p .rne srcs) lat d fun _ m a b c => (m, mapLanes m f a b c)

/-- An elementwise instruction on raw bits of a width. -/
def State.vecElems (s : State) (w : Stall) (p : Pfx) (n lat : Nat) (d : VDst) (srcs : List VSrc) (f : Nat → Nat → Nat → Nat) :
    Host.Outcome State Fault Refusal :=
  s.vecOne w (VForm.of p .rne srcs) lat d fun _ m a b c => (m, mapElements m n (fun _ _ x y z => f x y z) a b c)

/-! ### Predicate results (R173) -/

/-- A set of lanes from a test of each. -/
def maskOf (f : Nat → Bool) (n : Nat) : Mask :=
  BitVec.ofNat 1024 ((List.range n).foldr (fun k acc => (if f k then 2 ^ k else 0) + acc) 0)

/-- The lanes of three lists for which a test holds, among those of a set. -/
def testLanes (m : Mask) (f : Nat → Nat → Bool) (a b : VReg) : Mask :=
  BitVec.ofNat 1024 ((zip3 (fun k x y _ => if m.getLsbD k && f x y then 2 ^ k else 0) (laneVals a) (laneVals b) (laneVals b)).sum)

/-- Pend the write of a predicate of the C-seq. -/
def State.predResult (s : State) (tid lat n : Nat) (mask b : Mask) : State := s.modSq tid .c (·.pend lat (.preg n mask b))

/-- A comparison into a predicate (R181). -/
def State.vecTest (s : State) (w : Stall) (p : Pfx) (d : Fin 16) (srcs : List VSrc) (f : Nat → Nat → Bool) :
    Host.Outcome State Fault Refusal :=
  s.issue w (fun t => .p d.val :: (VForm.of p .rne srcs).names t) fun s tid _ t =>
    let m := t.active p
    if m != 0 && !t.popsReady srcs then .hold s (t.popWait srcs)
    else if s.vecHeld tid t then .held (s.vecWait tid t)
    else
      let s := s.vecTake tid t
      if m == 0 then .done s
      else
        let (t', vs) := t.readSrcs srcs
        .done ((s.setTask tid t').predResult tid 4 d.val m (testLanes m f (vs.getD 0 []) (vs.getD 1 [])))

end Sys2Proof.Machine
end

