-- ==== Sys2Proof/Machine/MSet.lean ====
section
/-! DEFINITION. The MSET group (R214 to R217, R224 to R228) and `LOT_GRANT` (R101). -/

namespace Sys2Proof.Machine

/-! ### Issue through the accumulator port (R214, R216) -/

/-- Whether a tile has a write of an earlier synchronous instruction pending. -/
def Task.tilePending (t : Task) (n : Nat) : Bool := decide (t.cq.clk < Assoc.get 0 t.tileReady n)

/-- Whether a selector is pending (R225). -/
def Task.selPending (t : Task) (n : Nat) : Bool := decide (t.cq.clk < Assoc.get 0 t.selReady n)

/-- The tile writes of an instruction are complete 4 c after its issue. -/
def Task.markTiles (t : Task) (ns : List Nat) : Task :=
  { t with tileReady := ns.foldl (fun m n => Assoc.put m n (t.cq.clk + 4)) t.tileReady }

/-- The port has accepted an instruction, if this is the first time it comes to it. -/
def State.tookPort (u : State) (first : Bool) (tid : Nat) (t : Task) : State := if first then u.accTake tid t else u

/-- An instruction issues through the accumulator port, which accepts it once: the first time it does not wait at issue. One
that is blocked at issue is not ready, and leaves the others that are (R154, R216). -/
def State.throughPort (s : State) (tid : Nat) (t : Task) (first : Bool) (e : Eff) : Eff :=
  let take (u : State) : State := u.tookPort first tid t
  match e with
  | .hold u why => .hold (u.accLeave tid t) why
  | .fate u r => .fate u r
  | e =>
    if first && s.accHeld tid t then .held (s.accWait tid t)
    else match e with
      | .done u => .done (take u)
      | .jump u pc => .jump (take u) pc
      | .wait u why => .wait (take u) why
      | .over u => .over (take u)
      | e => e

/-- Issue an instruction of the matrix groups: a tile code at or above ACCD is unavailable (R131, R214); a pending tile or
selector holds it; then it goes through the shared port with its own effect. -/
def State.accIssue (s : State) (w : Stall) (names : Task → List RegName) (codes tiles sels : List Nat)
    (f : State → Nat → Seq → Task → Eff) : Host.Outcome State Fault Refusal :=
  s.issue w names fun s tid q t =>
    if codes.any fun n => decide (t.tt.accd ≤ n) then .fate s (Trap.ofClass 4)
    else s.throughPort tid t (t.sq q).atIssue.isNone
      (if tiles.any t.tilePending || sels.any t.selPending then .hold s .interlock else f s tid q t)

/-- The first poisoned sector of a tile that holds a word an instruction reads: array code and address (R373). -/
def State.tilePoison (s : State) (tid n : Nat) (reads : Nat → Bool) : Option (Nat × Nat) :=
  s.poison.findSome? fun e => match e.1 with
    | .acc t w => if t == tid && w / 1024 == n && (List.range 8).any (fun i => reads (w % 1024 + i)) then
        some (e.2, accAddr n (w % 1024)) else none
    | _ => none

/-- An instruction reads a tile: a poisoned sector makes a machine check due, and it takes nothing (R375, assumption 77). -/
def State.readTile (s : State) (tid n : Nat) (reads : Nat → Bool) (e : Eff) : Eff :=
  match s.tilePoison tid n reads with
  | some (code, addr) => .done (s.noteCheck tid code addr)
  | none => e

/-- Tiles written whole: the marks of their sectors are cleared (R373). -/
def State.cleanTiles (s : State) (tid : Nat) (ns : List Nat) : State :=
  { s with poison := s.poison.filter fun e => match e.1 with
      | .acc t w => !(t == tid && ns.contains (w / 1024))
      | _ => true }

/-- The accumulator-busy trap. -/
def Trap.busy : Trap := Trap.ofClass 7

/-! ### Shapes (R224) -/

/-- Whether a task has an open or unretired operation of the matrix engine. -/
def Task.matrixIdle (t : Task) : Bool := t.reserving.isEmpty

/-- `mshape lcN, m, n` (R224). -/
def execMshape (w : Stall) (d : Fin 4) (m : Fin 3) (n : Fin 64) (s : State) : Host.Outcome State Fault Refusal :=
  s.accIssue w (scalars [.lc d]) [] [] [] fun s tid q t =>
    if (s.core t.die t.core).mode == 0 then .trap s (Trap.matrix 8)
    else if !t.matrixIdle then .hold s .interlock
    else
      let e := (s.lrec t.lr).epoch
      let v := shapeWord m.val n.val (s.widthCode e t.tt) (s.shapeCells e t.tt) t.lots
      .done ((s.modTask tid fun t => { t with shape := v }).result tid q 1 (.lc d) v)

/-! ### Descriptors (R217, R225) -/

/-- The fields of a descriptor's words. -/
def Desc.ofWords (w : List Word) (ty : NumType) : Desc :=
  { moff := field w 125 111, sparse := field w 110 110 == 1, tag0 := field w 109 94, soff := field w 93 74,
    eoff := field w 73 54, pitch := field w 53 38, klen := field w 37 18, rows := field w 17 8, side := field w 7 7 == 1,
    blk := field w 6 5, ty := ty }

/-- The Descriptor checks on words that name a type. -/
def Desc.ok (d : Desc) (w : List Word) : Bool :=
  field w 255 126 == 0 && (gangOf d.ty).isSome && (d.blk == 0 || scalable d.ty) && (d.soff == 0 || d.blk != 0) &&
  d.eoff % 16 == 0 && d.soff % 4 == 0 && d.pitch % 16 == 0 && d.pitch != 0 &&
  !(d.sparse && (d.side || d.klen % 4 != 0)) && (d.moff == 0 || d.sparse) && d.klen != 0 && d.rows != 0

/-- The descriptor of some words, if it passes. -/
def Desc.parse (w : List Word) : Option Desc :=
  match NumType.ofCode (field w 4 0) with
  | some ty => let d := Desc.ofWords w ty; if d.ok w then some d else none
  | none => none

/-- The first byte past a descriptor's element panel and its scale panel, and past its metadata extent. -/
def Desc.elemEnd (d : Desc) : Nat :=
  d.eoff + d.pitch * (d.rows - 1) + 16 * ceilDiv ((if d.sparse then d.klen / 2 else d.klen) * d.ty.width) 128
def Desc.scaleEnd (d : Desc) : Nat := d.soff + 4 * d.rows * d.gpr
def Desc.metaEnd (d : Desc) : Nat := d.moff + ceilDiv (d.rows * d.klen) 8

/-- The address trap of a descriptor whose extents pass the task's allocation. -/
def Desc.extentTrap (d : Desc) (tt : TaskType) : Option Trap :=
  let bad (off : Nat) : Option Trap := some { Trap.ofClass 6 with addr := windowAddr off }
  if 32768 * tt.spd < d.elemEnd then bad d.eoff
  else if d.blk != 0 && decide (32768 * tt.spd < d.scaleEnd) then bad d.soff
  else if d.sparse && decide (4096 * tt.mdd < d.metaEnd) then bad (0x140000 + d.moff)
  else none

/-- `mtile moD, off` (R225). Poisoned words leave the selector as it was, and a machine check is due (R375). -/
def execMtile (w : Stall) (d : Fin 4) (o : BitVec 12) (s : State) : Host.Outcome State Fault Refusal :=
  s.accIssue w (scalars []) [] [] [d.val] fun s tid q t =>
    let off := 256 * o.toNat
    if !((t.sq q).holders [.ld]).isEmpty then .hold s .fence
    else if 32768 * t.tt.spd < off + 32 then .trap s { Trap.ofClass 6 with addr := windowAddr off }
    else if (s.poisonAt (.scratch tid (off / 64 * 64))).isSome then .done (s.noteCheck tid 1 (windowAddr off))
    else match Desc.parse (wordsOf (readBytes t.spad off 32) 4) with
      | none => .trap s (Trap.matrix 1)
      | some e =>
        match e.extentTrap t.tt with
        | some tr => .trap s tr
        | none => .done (s.modTask tid fun t => { t with
            selectors := Assoc.put t.selectors d.val { desc := e, cur := 0 },
            selReady := Assoc.put t.selReady d.val (t.cq.clk + 8) })

/-! ### Tiles (R226, R227) -/

/-- `asetx accT, x, ote` (R226). -/
def execAsetx (w : Stall) (d : Fin 32) (e : Bool) (x : BitVec 12) (s : State) : Host.Outcome State Fault Refusal :=
  s.accIssue w (scalars []) [d.val] [d.val] [] fun s tid _ t =>
    if t.tileBusy d.val then .trap s Trap.busy
    else .done ((s.modTile tid d.val fun y => { y with x := x.toInt, ote := e }).modTask tid (·.markTiles [d.val]))

/-- A tile zeroed: X and OTE stay. -/
def Tile.zeroed (x : Tile) : Tile := { Tile.start with x := x.x, ote := x.ote }

/-- `azero accT, count` (R227). -/
def execAzero (w : Stall) (d : Fin 32) (n : BitVec 6) (s : State) : Host.Outcome State Fault Refusal :=
  let ts := (List.range n.toNat).map (d.val + ·)
  s.accIssue w (scalars []) [d.val] ts [] fun s tid _ t =>
    if n = 0 || decide (t.tt.accd < d.val + n.toNat) then .trap s (Trap.matrix 3)
    else if ts.any t.tileBusy then .trap s Trap.busy
    else .done ((s.cleanTiles tid ts).modTask tid fun t =>
      (ts.foldl (fun t k => t.setTile k (t.tile k).zeroed) t).markTiles ts)

/-! ### Lots (R101, R228) -/

/-- `lotreq n` (R228): it posts its request, and completes at the grant. -/
def execLotreq (w : Stall) (n : Fin 33) (s : State) : Host.Outcome State Fault Refusal :=
  s.accIssue w (scalars []) [] [] [] fun s tid _ t =>
    let q := s.lotQueue t.die t.core
    if q.any (·.task == tid) then .wait s .lotreq
    else if 32 < t.lots + t.leaving + n.val then .trap s (Trap.matrix 7)
    else .wait (s.setLotQueue t.die t.core (insertLot { task := tid, n := n.val, prio := t.prio, stall := w } q)) .lotreq

/-- The arbiter grants the head request whole, when the pool holds it; its `lotreq` completes. -/
def State.grantLots (s : State) (die core : Nat) : State :=
  match s.lotQueue die core with
  | r :: rest =>
    match Assoc.find s.tasks r.task with
    | some t =>
      if s.freeLots die core < r.n || !s.moves t then s
      else
        let s := s.setLotQueue die core rest
        let s := s.modTask r.task fun t => { t with lots := t.lots + r.n }
        s.complete r.task .c r.stall (t.cq.nextPc .c)
    | none => s.setLotQueue die core rest
  | [] => s

/-- `LOT_GRANT` (R101). -/
def execLotGrant (die core : Nat) (s : State) : Host.Outcome State Fault Refusal := .next (s.grantLots die core)

/-- `lotrel n` (R228): lots leave at the end of the chunk in progress, or at once when there is none. -/
def execLotrel (w : Stall) (n : Fin 33) (s : State) : Host.Outcome State Fault Refusal :=
  s.accIssue w (scalars []) [] [] [] fun s tid _ t =>
    if t.lots < t.demand + n.val || (t.lots == n.val && !t.matrixIdle) then .trap s (Trap.matrix 7)
    else .done (s.modTask tid fun t =>
      { t with lots := t.lots - n.val, leaving := if t.runningMat.isSome then t.leaving + n.val else 0 })

end Sys2Proof.Machine
end

