-- ==== Sys2Proof/Machine/AccOp.lean ====
section
/-! DEFINITION. The ACCOP group: working on accumulator tiles (R207 to R209, R233 to R238). -/

namespace Sys2Proof.Machine

/-! ### On tiles alone -/

/-- A tile divided by 2^s, truncating toward zero (R207). -/
def Tile.norm (x : Tile) (k : Nat) : Tile := ({ x.mapWords (truncShift · k) with x := x.x + k } : Tile).rehead

/-- `anorm accT, s` (R233). -/
def execAnorm (w : Stall) (d : Fin 32) (n : Fin 64) (s : State) : Host.Outcome State Fault Refusal :=
  s.accIssue w (scalars []) [d.val] [d.val] [] fun s tid _ t =>
    let x := t.tile d.val
    if t.tileBusy d.val then .trap s Trap.busy
    else if x.psn then .trap s (Trap.matrix 10)
    else if 32767 < x.x + n.val then .trap s (Trap.matrix 11)
    else s.readTile tid d.val (fun _ => true)
      (.done ((s.modTile tid d.val (·.norm n.val)).modTask tid (·.markTiles [d.val])))

/-- The sum of two tiles, word by word, with the flags of R235. -/
def Tile.plus (x y : Tile) : Tile :=
  let ks := (List.range 1024).filter fun k => x.word k != 0 || y.word k != 0
  let out (k : Nat) : Bool :=
    let v := (x.word k).toInt + (y.word k).toInt
    v < -(2 ^ 63) || decide ((2 ^ 63 : Int) ≤ v)
  let first := ks.find? out
  let sum : Assoc Word := ks.filterMap fun k => let v := x.word k + y.word k; if v = 0 then none else some (k, v)
  let z : Tile := { x with m := sum, nan := x.nan || y.nan, ovf := x.ovf || y.ovf || first.isSome,
                           osgn := if x.ovf then x.osgn else if y.ovf then y.osgn else match first with
                             | some k => decide ((x.word k).toInt + (y.word k).toInt < 0)
                             | none => x.osgn }
  z.rehead

/-- `aadd accD, accA` (R235). -/
def execAadd (w : Stall) (d a : Fin 32) (s : State) : Host.Outcome State Fault Refusal :=
  s.accIssue w (scalars []) [d.val, a.val] [d.val, a.val] [] fun s tid _ t =>
    if t.tileBusy d.val || t.tileBusy a.val then .trap s Trap.busy
    else if (t.tile d.val).psn || (t.tile a.val).psn then .trap s (Trap.matrix 10)
    else s.readTile tid d.val (fun _ => true) (s.readTile tid a.val (fun _ => true)
      (.done ((s.modTile tid d.val (·.plus (t.tile a.val))).modTask tid (·.markTiles [d.val]))))

/-- `amov accD, accA` (R238); a tile moved to itself is unchanged. -/
def execAmov (w : Stall) (d a : Fin 32) (s : State) : Host.Outcome State Fault Refusal :=
  s.accIssue w (scalars []) [d.val, a.val] [d.val, a.val] [] fun s tid _ t =>
    if t.tileBusy d.val || t.tileBusy a.val then .trap s Trap.busy
    else if (t.tile a.val).psn then .trap s (Trap.matrix 10)
    else if d = a then .done s
    else s.readTile tid a.val (fun _ => true)
      (.done (((s.cleanTiles tid [d.val]).modTile tid d.val fun _ =>
        ({ t.tile a.val with psn := false } : Tile).rehead).modTask tid (·.markTiles [d.val])))

/-! ### To and from vectors -/

/-- The fxa words of row r: 32 from va and 32 from vb (R236). -/
def loadWords (a b : VReg) : List Word :=
  let rows (v : VReg) : List (List Nat) := (List.range 16).map fun r => pairs ((laneVals v).drop (64 * r) |>.take 64)
  ((rows a).zipWith (· ++ ·) (rows b)).flatten.map (BitVec.ofNat 64)

/-- A tile with new mantissa words (R207, R236). -/
def Tile.load (x : Tile) (ws : List Word) : Tile := ({ x.zeroed with m := Assoc.ofList 0 ws 0 } : Tile).rehead

/-- `ald accT, va, vb` (R236). -/
def execAld (w : Stall) (d : Fin 32) (a b : VSrc) (s : State) : Host.Outcome State Fault Refusal :=
  s.accIssue w (fun t => srcNames t [a, b]) [d.val] [d.val] [] fun s tid _ t =>
    if !t.popsReady [a, b] then .hold s (t.popWait [a, b])
    else if t.tileBusy d.val then .trap s Trap.busy
    else
      let (t', vs) := t.readSrcs [a, b]
      .done ((((s.setTask tid t').cleanTiles tid [d.val]).modTile tid d.val (·.load (loadWords (vs.getD 0 []) (vs.getD 1 [])))).modTask tid
        (·.markTiles [d.val]))

/-- Issue an instruction that reads words of a tile into a vector destination: it waits for the destination's port, and traps on
a busy or a poisoned tile. One that issues counts its draws, also when its words are poisoned (R37). -/
def State.accRead (s : State) (w : Stall) (names : Task → List RegName) (live : Task → Bool) (d : VDst) (a : Fin 32)
    (r : Rnd) (reads : Nat → Bool) (f : State → Nat → Task → Tile → Eff) : Host.Outcome State Fault Refusal :=
  s.accIssue w (fun t => dstNames t d ++ names t) [a.val] [a.val] [] fun s tid _ t =>
    if live t && !t.pushReady d then .hold s (pushWait d)
    else if t.tileBusy a.val then .trap s Trap.busy
    else if (t.tile a.val).psn then .trap s (Trap.matrix 10)
    else match s.readTile tid a.val reads (f s tid t (t.tile a.val)) with
      | .done s => .done (s.countRnd tid r)
      | e => e

/-- Word `k` of a tile converted into a type (R208). -/
def Tile.convertWord (x : Tile) (ty : NumType) (rnd : Rnd) (sat : Bool) (draw k : Nat) : Nat :=
  if x.nan then ty.nanCode
  else if x.ovf then convert ty (.inf x.osgn) rnd sat draw
  else convert ty (x.value k) rnd sat draw

/-- `acvt.T vd, accT` (R208, R234). -/
def execAcvt (w : Stall) (p : Pfx) (t : NumType) (r : Rnd) (u : Bool) (d : VDst) (a : Fin 32) (s : State) :
    Host.Outcome State Fault Refusal :=
  s.accRead w (fun _ => pfxNames p) (fun tk => tk.active p != 0) d a r (fun _ => true) fun s tid tk x =>
    let m := tk.active p
    if !x.nan && x.ovf && x.ote then .trap s (Trap.matrix 9)
    else
      .done (if m == 0 then s else s.vecResult tid tk 6 d m
        (mapLanes m (fun k _ _ _ => x.convertWord t r u (tk.draw k 0) k) [] [] []))

/-- `ast vd, accT, h` (R236): value j of row r is word (r, 32h + j). -/
def execAst (w : Stall) (p : Pfx) (d : VDst) (a : Fin 32) (h : Bool) (s : State) : Host.Outcome State Fault Refusal :=
  s.accRead w (fun _ => pfxNames p) (fun tk => tk.active p != 0) d a .rne (fun k => k / 32 % 2 == h.toNat) fun s tid tk x =>
    let m := tk.active p
    if m == 0 then .done s
    else
      let half := if h then 32 else 0
      .done (s.vecResult tid tk 6 d (pairMask m)
        (mapValues m (fun k _ _ _ => (x.word (k / 64 * 64 + half + k % 64 / 2)).toNat) [] [] []))

/-- `ahdr vd, accT` (R237): the exponent and guard words in the first four lanes, and 0 elsewhere. -/
def execAhdr (w : Stall) (d : VDst) (a : Fin 32) (s : State) : Host.Outcome State Fault Refusal :=
  s.accRead w (fun _ => []) (fun _ => true) d a .rne (fun _ => false) fun s tid tk x =>
    .done (s.vecResult tid tk 4 d (BitVec.allOnes 1024) (VReg.of (unpairs [x.expWord.toNat, x.guardWord.toNat])))

end Sys2Proof.Machine
end

