-- ==== Sys2Proof/Machine/Alu.lean ====
section
/-! DEFINITION. The ALU and MULDIV groups and the immediate forms (R157 to R160). -/

namespace Sys2Proof.Machine

/-- An instruction that computes xd from xa and xb with a fixed latency. -/
def State.binary (s : State) (w : Stall) (lat : Nat) (d a b : SReg) (f : Word → Word → Word) :
    Host.Outcome State Fault Refusal :=
  s.issue w (scalars [d, a, b]) fun s tid q t => .done (s.result tid q lat d (f ((t.sq q).rd a) ((t.sq q).rd b)))

/-- An instruction that computes xd from xa. -/
def State.unary (s : State) (w : Stall) (lat : Nat) (d a : SReg) (f : Word → Word) : Host.Outcome State Fault Refusal :=
  s.issue w (scalars [d, a]) fun s tid q t => .done (s.result tid q lat d (f ((t.sq q).rd a)))

/-- An instruction that writes xd from no register. -/
def State.nullary (s : State) (w : Stall) (d : SReg) (v : Word) : Host.Outcome State Fault Refusal :=
  s.issue w (scalars [d]) fun s tid q _ => .done (s.result tid q 1 d v)

/-- xb[5:0], the amount of a shift. -/
def amount (b : Word) : Nat := b.toNat % 64

/-! ### ALU (R157) -/

/-- `add xd, xa, xb` (R157). -/
def execAdd (w : Stall) (d a b : SReg) (s : State) : Host.Outcome State Fault Refusal :=
  s.binary w 1 d a b fun x y => x + y

/-- `sub xd, xa, xb` (R157). -/
def execSub (w : Stall) (d a b : SReg) (s : State) : Host.Outcome State Fault Refusal :=
  s.binary w 1 d a b fun x y => x - y

/-- `and xd, xa, xb` (R157). -/
def execAnd (w : Stall) (d a b : SReg) (s : State) : Host.Outcome State Fault Refusal :=
  s.binary w 1 d a b fun x y => x &&& y

/-- `or xd, xa, xb` (R157). -/
def execOr (w : Stall) (d a b : SReg) (s : State) : Host.Outcome State Fault Refusal :=
  s.binary w 1 d a b fun x y => x ||| y

/-- `xor xd, xa, xb` (R157). -/
def execXor (w : Stall) (d a b : SReg) (s : State) : Host.Outcome State Fault Refusal :=
  s.binary w 1 d a b fun x y => x ^^^ y

/-- `shl xd, xa, xb` (R157). -/
def execShl (w : Stall) (d a b : SReg) (s : State) : Host.Outcome State Fault Refusal :=
  s.binary w 1 d a b fun x y => x <<< amount y

/-- `shr xd, xa, xb` (R157). -/
def execShr (w : Stall) (d a b : SReg) (s : State) : Host.Outcome State Fault Refusal :=
  s.binary w 1 d a b fun x y => x >>> amount y

/-- `sra xd, xa, xb` (R157). -/
def execSra (w : Stall) (d a b : SReg) (s : State) : Host.Outcome State Fault Refusal :=
  s.binary w 1 d a b fun x y => x.sshiftRight (amount y)

/-- `min xd, xa, xb` (R157). -/
def execMin (w : Stall) (d a b : SReg) (s : State) : Host.Outcome State Fault Refusal :=
  s.binary w 1 d a b fun x y => if ltS y x then y else x

/-- `max xd, xa, xb` (R157). -/
def execMax (w : Stall) (d a b : SReg) (s : State) : Host.Outcome State Fault Refusal :=
  s.binary w 1 d a b fun x y => if ltS x y then y else x

/-- `minn xd, xa, xb` (R157). -/
def execMinn (w : Stall) (d a b : SReg) (s : State) : Host.Outcome State Fault Refusal :=
  s.binary w 1 d a b fun x y => if ltU y x then y else x

/-- `maxn xd, xa, xb` (R157). -/
def execMaxn (w : Stall) (d a b : SReg) (s : State) : Host.Outcome State Fault Refusal :=
  s.binary w 1 d a b fun x y => if ltU x y then y else x

/-- `slt xd, xa, xb` (R157). -/
def execSlt (w : Stall) (d a b : SReg) (s : State) : Host.Outcome State Fault Refusal :=
  s.binary w 1 d a b fun x y => flag (ltS x y)

/-- `sltn xd, xa, xb` (R157). -/
def execSltn (w : Stall) (d a b : SReg) (s : State) : Host.Outcome State Fault Refusal :=
  s.binary w 1 d a b fun x y => flag (ltU x y)

/-- `seq xd, xa, xb` (R157). -/
def execSeq (w : Stall) (d a b : SReg) (s : State) : Host.Outcome State Fault Refusal :=
  s.binary w 1 d a b fun x y => flag (x == y)

/-- `sne xd, xa, xb` (R157). -/
def execSne (w : Stall) (d a b : SReg) (s : State) : Host.Outcome State Fault Refusal :=
  s.binary w 1 d a b fun x y => flag (x != y)

/-! ### MULDIV (R158) -/

/-- The number of leading zero bits; 64 for 0. -/
def clz64 (a : Word) : Word := if a = 0 then 64 else BitVec.ofNat 64 (63 - a.toNat.log2)

/-- The number of trailing zero bits; 64 for 0. -/
def ctz64 (a : Word) : Word := BitVec.ofNat 64 (((List.range 64).find? a.getLsbD).getD 64)

/-- The number of one bits. -/
def popc64 (a : Word) : Word := BitVec.ofNat 64 ((List.range 64).filter a.getLsbD).length

/-- Bit i moved to bit 63 − i. -/
def brev64 (a : Word) : Word :=
  BitVec.ofNat 64 ((List.range 64).foldl (fun n k => 2 * n + (if a.getLsbD k then 1 else 0)) 0)

/-- The high half of a product of two exact integers. -/
def high64 (x : Int) : Word := BitVec.ofInt 64 (x / (2 ^ 64 : Nat))

/-- TruncZ of a signed quotient; all ones for a divisor of 0. -/
def divS (a b : Word) : Word := if b = 0 then BitVec.allOnes 64 else BitVec.ofInt 64 (Int.tdiv a.toInt b.toInt)
/-- The unsigned quotient; all ones for a divisor of 0. -/
def divU (a b : Word) : Word := if b = 0 then BitVec.allOnes 64 else BitVec.ofNat 64 (a.toNat / b.toNat)
/-- The signed remainder, with the dividend's sign; the dividend for a divisor of 0. -/
def remS (a b : Word) : Word := if b = 0 then a else BitVec.ofInt 64 (Int.tmod a.toInt b.toInt)
/-- The unsigned remainder; the dividend for a divisor of 0. -/
def remU (a b : Word) : Word := if b = 0 then a else BitVec.ofNat 64 (a.toNat % b.toNat)

/-- `mul xd, xa, xb` (R158). -/
def execMul (w : Stall) (d a b : SReg) (s : State) : Host.Outcome State Fault Refusal :=
  s.binary w 3 d a b fun x y => x * y

/-- `mulh xd, xa, xb` (R158). -/
def execMulh (w : Stall) (d a b : SReg) (s : State) : Host.Outcome State Fault Refusal :=
  s.binary w 3 d a b fun x y => high64 (x.toInt * y.toInt)

/-- `mulhn xd, xa, xb` (R158). -/
def execMulhn (w : Stall) (d a b : SReg) (s : State) : Host.Outcome State Fault Refusal :=
  s.binary w 3 d a b fun x y => high64 (x.toNat * y.toNat)

/-- `div xd, xa, xb` (R158). -/
def execDiv (w : Stall) (d a b : SReg) (s : State) : Host.Outcome State Fault Refusal :=
  s.binary w 18 d a b fun x y => divS x y

/-- `divn xd, xa, xb` (R158). -/
def execDivn (w : Stall) (d a b : SReg) (s : State) : Host.Outcome State Fault Refusal :=
  s.binary w 18 d a b fun x y => divU x y

/-- `rem xd, xa, xb` (R158). -/
def execRem (w : Stall) (d a b : SReg) (s : State) : Host.Outcome State Fault Refusal :=
  s.binary w 18 d a b fun x y => remS x y

/-- `remn xd, xa, xb` (R158). -/
def execRemn (w : Stall) (d a b : SReg) (s : State) : Host.Outcome State Fault Refusal :=
  s.binary w 18 d a b fun x y => remU x y

/-- `clz xd, xa` (R158). -/
def execClz (w : Stall) (d a : SReg) (s : State) : Host.Outcome State Fault Refusal :=
  s.unary w 1 d a clz64

/-- `ctz xd, xa` (R158). -/
def execCtz (w : Stall) (d a : SReg) (s : State) : Host.Outcome State Fault Refusal :=
  s.unary w 1 d a ctz64

/-- `popc xd, xa` (R158). -/
def execPopc (w : Stall) (d a : SReg) (s : State) : Host.Outcome State Fault Refusal :=
  s.unary w 1 d a popc64

/-- `brev xd, xa` (R158). -/
def execBrev (w : Stall) (d a : SReg) (s : State) : Host.Outcome State Fault Refusal :=
  s.unary w 1 d a brev64

/-- `lea2 xd, xa, xb` (R158). -/
def execLea2 (w : Stall) (d a b : SReg) (s : State) : Host.Outcome State Fault Refusal :=
  s.binary w 1 d a b fun x y => x + 2 * y

/-- `lea4 xd, xa, xb` (R158). -/
def execLea4 (w : Stall) (d a b : SReg) (s : State) : Host.Outcome State Fault Refusal :=
  s.binary w 1 d a b fun x y => x + 4 * y

/-- `lea8 xd, xa, xb` (R158). -/
def execLea8 (w : Stall) (d a b : SReg) (s : State) : Host.Outcome State Fault Refusal :=
  s.binary w 1 d a b fun x y => x + 8 * y

/-! ### Immediate forms (R159, R160) -/

/-- SignExt(IMM10, 10). -/
def imm10 (m : BitVec 10) : Word := m.signExtend 64

/-- `addi xd, xa, imm` (R159). -/
def execAddi (w : Stall) (d a : SReg) (m : BitVec 10) (s : State) : Host.Outcome State Fault Refusal :=
  s.unary w 1 d a fun x => x + imm10 m

/-- `andi xd, xa, imm` (R159). -/
def execAndi (w : Stall) (d a : SReg) (m : BitVec 10) (s : State) : Host.Outcome State Fault Refusal :=
  s.unary w 1 d a fun x => x &&& imm10 m

/-- `ori xd, xa, imm` (R159). -/
def execOri (w : Stall) (d a : SReg) (m : BitVec 10) (s : State) : Host.Outcome State Fault Refusal :=
  s.unary w 1 d a fun x => x ||| imm10 m

/-- `xori xd, xa, imm` (R159). -/
def execXori (w : Stall) (d a : SReg) (m : BitVec 10) (s : State) : Host.Outcome State Fault Refusal :=
  s.unary w 1 d a fun x => x ^^^ imm10 m

/-- `slti xd, xa, imm` (R159). -/
def execSlti (w : Stall) (d a : SReg) (m : BitVec 10) (s : State) : Host.Outcome State Fault Refusal :=
  s.unary w 1 d a fun x => flag (ltS x (imm10 m))

/-- `sltni xd, xa, imm` (R159). -/
def execSltni (w : Stall) (d a : SReg) (m : BitVec 10) (s : State) : Host.Outcome State Fault Refusal :=
  s.unary w 1 d a fun x => flag (ltU x (imm10 m))

/-- `shli xd, xa, imm` (R159). -/
def execShli (w : Stall) (d a : SReg) (n : BitVec 6) (s : State) : Host.Outcome State Fault Refusal :=
  s.unary w 1 d a fun x => x <<< n.toNat

/-- `shri xd, xa, imm` (R159). -/
def execShri (w : Stall) (d a : SReg) (n : BitVec 6) (s : State) : Host.Outcome State Fault Refusal :=
  s.unary w 1 d a fun x => x >>> n.toNat

/-- `srai xd, xa, imm` (R159). -/
def execSrai (w : Stall) (d a : SReg) (n : BitVec 6) (s : State) : Host.Outcome State Fault Refusal :=
  s.unary w 1 d a fun x => x.sshiftRight n.toNat

/-- `lui xd, imm` (R160). -/
def execLui (w : Stall) (d : SReg) (m : BitVec 16) (s : State) : Host.Outcome State Fault Refusal :=
  s.nullary w d (BitVec.ofInt 64 (signed 32 (m.toNat * 2 ^ 16)))

/-- `lsh xd, imm` (R160): D is read and written. -/
def execLsh (w : Stall) (d : SReg) (m : BitVec 16) (s : State) : Host.Outcome State Fault Refusal :=
  s.unary w 1 d d fun x => (x <<< 16) + BitVec.ofNat 64 m.toNat

end Sys2Proof.Machine
end

