-- ==== Sys2Proof/Machine/CFlow.lean ====
section
/-! DEFINITION. CFLOW: C-seq control (R196, R197). -/

namespace Sys2Proof.Machine

/-- A target of the C-seq: PC + 8 × SignExt(offset). -/
def targetC {n : Nat} (pc : Word) (o : BitVec n) : Word := pc + 8 * o.signExtend 64

/-- Pend a whole predicate register of the C-seq, 1 cycle from now. -/
def State.setStage (s : State) (tid n : Nat) (v : Mask) : State := s.predResult tid 1 n (BitVec.allOnes 1024) v

/-- The stage predicates after a shift (R197): p8 all `b`, and each other the one below it. -/
def Task.shifted (t : Task) (b : Bool) (n : Nat) : Mask :=
  if n = 8 then (if b then BitVec.allOnes 1024 else 0) else t.preg (n - 1)

/-- `cloop lcN, label` (R197). Its writes land 1 cycle after issue. -/
def execCloop (w : Stall) (d : Fin 4) (o : BitVec 12) (s : State) : Host.Outcome State Fault Refusal :=
  s.issue w (scalars [.lc d]) fun s tid q t =>
    let x := t.sq q
    let n := x.rd (.lc d)
    let more := decide (1 < n.toNat)
    let s := s.result tid q 1 (.lc d) (if more then n - 1 else 0)
    let s := s.modTask tid fun t => { t with rofs := (t.rofs + t.nrot - 1) % max 1 t.nrot }
    let s := ((List.range 8).map (· + 8)).foldl (fun s k => s.setStage tid k (t.shifted more k)) s
    if (List.range t.sdepth).any fun k => t.shifted more (8 + k) != 0 then .jump s (targetC x.pc o) else .done s

/-- A branch of the C-seq on a predicate. -/
def State.branchC (s : State) (w : Stall) (a : Fin 16) (o : BitVec 12) (taken : Mask → Bool) :
    Host.Outcome State Fault Refusal :=
  s.issue w (fun _ => if a = 0 then [] else [.p a.val]) fun s _ q t =>
    if taken (t.preg a.val) then .jump s (targetC (t.sq q).pc o) else .done s

/-- `cbrany pa, label` (R196): when any lane is 1. -/
def execCbrany (w : Stall) (a : Fin 16) (o : BitVec 12) (s : State) : Host.Outcome State Fault Refusal :=
  s.branchC w a o fun m => m != 0

/-- `cbrall pa, label` (R196): when every lane is 1. -/
def execCbrall (w : Stall) (a : Fin 16) (o : BitVec 12) (s : State) : Host.Outcome State Fault Refusal :=
  s.branchC w a o fun m => m == BitVec.allOnes 1024

/-- `cj label` (R196). -/
def execCj (w : Stall) (o : BitVec 18) (s : State) : Host.Outcome State Fault Refusal :=
  s.issue w (scalars []) fun s _ q t => .jump s (targetC (t.sq q).pc o)

/-- `clcset lcN, imm` (R196). -/
def execClcset (w : Stall) (d : Fin 4) (m : BitVec 18) (s : State) : Host.Outcome State Fault Refusal :=
  s.issue w (scalars [.lc d]) fun s tid q _ => .done (s.result tid q 1 (.lc d) (m.setWidth 64))

/-- `cstage n` (R196). -/
def execCstage (w : Stall) (n : Fin 9) (s : State) : Host.Outcome State Fault Refusal :=
  s.issue w (scalars []) fun s tid _ _ =>
    let s := s.modTask tid fun t => { t with sdepth := n.val }
    .done (((List.range 8).map (· + 8)).foldl (fun s k => s.setStage tid k (if k = 8 then BitVec.allOnes 1024 else 0)) s)

end Sys2Proof.Machine
end

