-- ==== Sys2Proof/Machine/Engines.lean ====
section
/-! DEFINITION. Engine operations in general: the fork, EVT, starting, retiring and joining (R269 to R273, R275, R297, R298,
R371). -/

namespace Sys2Proof.Machine

/-! ### The command block (R270) -/

/-- The 128 bytes of an engine command block, as 16 words. -/
def State.blockWords (s : State) (t : Task) (off : Nat) : List Word := wordsOf (s.readPlace t (.spad off) 128 false).1 16

/-- The traps of a fork that names a block: address, then alignment (R273). -/
def blockTrap (t : Task) (x : Nat) : Option Trap :=
  if 2 ^ 20 ≤ x || 32768 * t.tt.spd < x + 128 then some (Trap.ofClass 6)
  else if x % 128 != 0 then some (Trap.ofClass 5)
  else none

/-- WAIT and SIGNAL of a block. -/
def blockWait (w : List Word) : Word := BitVec.ofNat 64 (field w 63 0)
def blockSignal (w : List Word) : Word := BitVec.ofNat 64 (field w 127 64)

/-- Whether a block's common part is bad for a KIND: another KIND, or a nonzero reserved field (R270). -/
def blockBad (w : List Word) (kind : Nat) : Bool := field w 195 192 != kind || field w 511 196 != 0

/-- Whether a poisoned sector lies in a block. -/
def State.blockPoisoned (s : State) (tid off : Nat) : Bool :=
  (s.poisonAt (.scratch tid (off / 64 * 64))).isSome || (s.poisonAt (.scratch tid (off / 64 * 64 + 64))).isSome

/-! ### Forking (R273, R297) -/

/-- The operations of a sequencer that count against its limit of 8: its copies, `mdld` and histograms. -/
def Task.forked (t : Task) (q : Seq) : List EngOp :=
  t.eng.filter fun o => o.seq == q.code && (o.engine == .copy || o.engine == .hist)

/-- What a fork waits behind: the fences, marks and forks that hold engine operations, and every earlier load and store of the
sequencer (R295, R297). -/
def Task.forkAfter (t : Task) (q : Seq) : List Nat := (t.sq q).holders [.eng] ++ t.outstandingOf q 0b00011

/-- A new operation, not started. -/
def EngOp.new (uid : Nat) (e : Engine) (q : Seq) (num : BitVec 32) (block : Option Nat) (job : EngJob) (after : List Nat) :
    EngOp :=
  { uid := uid, engine := e, seq := q.code, num := num, block := block, waitMask := 0, signal := 0, job := job,
    started := false, pos := 0, lossy := 0, fault := none, armed := none, sent := [],
    after := after, xl := [], kept := none, held := false, reserve := [] }

/-- Whether an operation has not taken its copies. -/
def EngJob.isPending : EngJob → Bool
  | .pending _ => true
  | _ => false

/-- Add an operation to a task's engines. -/
def State.addOp (s : State) (tid : Nat) (o : EngOp) : State := s.modTask tid fun t => { t with eng := t.eng ++ [o] }

/-- Whether a fork waits at issue: 8 operations are unretired (R273). -/
def Task.forkBlocked (t : Task) (q : Seq) : Bool := decide (8 ≤ (t.forked q).length)

/-- Change an operation of a task. -/
def Task.modOp (t : Task) (uid : Nat) (f : EngOp → EngOp) : Task :=
  { t with eng := t.eng.map fun o => if o.uid == uid then f o else o }

/-- What an engine makes of a command block and the records it names: the state with the record cache after the look-ups, the
job, and the fault that ends the operation at its fork. -/
abbrev TakeJob := State → Nat → Task → List Word → State × EngJob × Option EngFault

/-- The copies an operation takes at its fork: its block, and the records it names (R270, R285). A poisoned block ends it with
cause 16 (R371); a GEMV operation never takes that cause: a machine check is noted, and it retires with no effect (DESIGN
CHOICE, assumption 67). One that its fork ends is no longer armed. -/
def State.copies (s : State) (tid : Nat) (t : Task) (o : EngOp) (job : TakeJob) : State × EngOp :=
  match o.job with
  | .pending off =>
    let b := s.blockWords t off
    let (s, j, f) :=
      if !s.blockPoisoned tid off then job s tid t b
      else if o.engine == .gemv then (s.noteCheck tid 1 (windowAddr off), .none, none)
      else (s, .none, some (EngFault.at_ 16 0))
    (s, { o with waitMask := blockWait b, signal := blockSignal b, job := j, fault := f,
                 armed := if f.isSome then none else o.armed })
  | _ => (s, o)

/-- The copies that an operation would take now, as a step whose page walks a fence may hold. -/
def State.tryCopies (s : State) (tid : Nat) (t : Task) (o : EngOp) (job : TakeJob) : State × EngOp :=
  let (u, o) := { s with noWalks := !t.clear o.xl }.copies tid t o job
  ({ u with noWalks := false }, o)

/-- A pending operation takes its copies; none while a fence holds a page walk that they need. -/
def State.takeCopies (s : State) (tid : Nat) (o : EngOp) (job : TakeJob) : Option State :=
  match Assoc.find s.tasks tid with
  | some t =>
    let (u, x) := s.tryCopies tid t o job
    if x.fault.any EngFault.isWait then none else some (u.modTask tid (·.modOp x.uid fun _ => x))
  | none => none

/-- Fork an operation (R297). It takes its copies at once when nothing that it follows is outstanding, and no fence holds a page
walk that they need (R295). Else it is pending, with what its block names reserved if it is a GEMV operation (R240): the
later accesses and forks of its sequencer wait until it has taken them (R285, R364). -/
def State.forkOp (s : State) (tid : Nat) (q : Seq) (t : Task) (o : EngOp) (job : TakeJob) : State :=
  let after := t.forkAfter q
  let o := { o with xl := (t.sq q).xlFences }
  let (u, x) := s.tryCopies tid t o job
  let waits := x.fault.any EngFault.isWait
  if t.clear after && !waits then u.addOp tid x
  else
    let o := { o with reserve := x.ranges }
    let (id, s) := s.newUid
    let b : Barrier :=
      { id := id, preds := after ++ (if waits then o.xl else []), holds := 0b00111, wb := false, inv := false, scope := 0,
        partner := none, k := 0, fork := some o.uid }
    (s.addOp tid { o with after := [id] }).modSq tid q fun x => { x with barriers := x.barriers ++ [b] }

/-- Whether a sequencer has forked an operation that has not taken its copies. -/
def SeqState.forking (x : SeqState) : Bool := x.barriers.any (·.fork.isSome)

/-- Fork an operation on the counter of `cego` and `hist`, and write its number. -/
def State.fork (s : State) (tid : Nat) (q : Seq) (t : Task) (d : SReg) (e : Engine) (off : Nat) (job : TakeJob) : State :=
  let n := (t.sq q).forks + 1
  let (uid, s) := s.newUid
  ((s.modSq tid q fun x => { x with forks := n }).forkOp tid q t (EngOp.new uid e q n (some off) (.pending off) []) job).result
    tid q 1 d (n.setWidth 64)

/-! ### Starting (R269) -/

/-- The engines tested before another in one core cycle. -/
def enginesBefore : Engine → List Engine
  | .copy => [] | .hist => [.copy] | .gemv => [.copy, .hist] | .tmu => [.copy, .hist, .gemv]

/-- The oldest unstarted operation of an engine. -/
def Task.unstarted (t : Task) (e : Engine) : Option EngOp :=
  t.eng.find? fun o => o.engine == e && !o.started && o.fault.isNone && o.armed.isNone

/-- Whether an engine's test succeeds: its operation has taken its copies, what it follows is performed, and its bits of EVT are
set. -/
def Task.starts (t : Task) (e : Engine) : Bool :=
  match t.unstarted e with
  | some o => !o.job.isPending && t.evt &&& o.waitMask == o.waitMask && t.clear o.after
  | none => false

/-- Start the oldest unstarted operation of an engine, whose bits it consumes, when no engine tested earlier in the cycle
would consume first. -/
def Task.startEngine (t : Task) (e : Engine) : Task :=
  match t.unstarted e with
  | none => t
  | some o =>
    if t.resident && t.starts e && !(enginesBefore e).any t.starts then
      { t.modOp o.uid (fun o => { o with started := true }) with evt := t.evt &&& ~~~o.waitMask }
    else t

/-- The operation an engine works on: its oldest, when that has started or a fault has ended it at its fork. One engine's
operations retire in fork order (R275, R285). -/
def Task.running (t : Task) (e : Engine) : Option EngOp :=
  (t.eng.find? fun o => o.engine == e).filter fun o => o.started || o.fault.isSome

/-- Start an engine of a task whose die's clock runs. -/
def State.startEngine (s : State) (tid : Nat) (e : Engine) : State :=
  match Assoc.find s.tasks tid with
  | none => s
  | some t => if s.moves t then s.setTask tid (t.startEngine e) else s

/-- `ENGINE_START` (R269). -/
def execEngineStart (t : Nat) (e : Engine) (s : State) : Host.Outcome State Fault Refusal := .next (s.startEngine t e)

/-! ### Retiring (R269, R271) -/

/-- STATUS of R271. -/
def EngOp.status (o : EngOp) : Word :=
  let f := match o.fault with
    | some f => 2 ^ 62 + f.cause * 2 ^ 48 + f.fchk
    | none => 0
  BitVec.ofNat 64 (2 ^ 63 + f + min 65535 o.lossy * 2 ^ 32)

/-- The class of a faulted operation (R365). -/
def EngOp.cls (o : EngOp) : Nat :=
  match o.engine with
  | .copy | .gemv => 12
  | .hist => 13
  | .tmu => 14

/-- An operation leaves its engine: a fault stays to be reported, and without one it signals. -/
def Task.dropOp (t : Task) (o : EngOp) : Task :=
  let t := { t with eng := t.eng.filter fun x => x.uid != o.uid, holding := t.holding && o.engine != Engine.gemv }
  match o.fault with
  | some f =>
    let u : Unreported := { engine := some o.engine, seq := o.seq, num := o.num, cls := o.cls, fault := f }
    { t with faults := t.faults ++ [u] }
  | none => { t with evt := t.evt ||| o.signal }

/-- A write of an operation is found held on a reservation (R221). -/
def State.holdOp (s : State) (tid uid : Nat) : State :=
  (s.tickHeld tid).modTask tid (·.modOp uid fun o => { o with held := true })

/-- Retire an operation: STATUS lands in its block, subject to R221, and it signals. -/
def State.retireOp (s : State) (tid : Nat) (o : EngOp) : State :=
  match Assoc.find s.tasks tid with
  | none => s
  | some t =>
    let u := t.dropOp o
    match o.block with
    | none => s.setTask tid u
    | some b =>
      if u.spadReserved (b + 16) (b + 24) then s.holdOp tid o.uid
      else (s.setTask tid u).writePlace tid (.spad (b + 16)) (toBytes 8 o.status.toNat) false

/-- A fault ends an operation at a chunk: it retires with the fault. One that waits is marked with what it waits for. -/
def State.faultOp (s : State) (tid : Nat) (o : EngOp) (f : EngFault) (chunk : Nat) : State :=
  let f := { f with fchk := if f.isWait then 0 else chunk }
  let s := s.modTask tid fun t => t.modOp o.uid fun o => { o with fault := some f }
  if f.isWait then s else s.retireOp tid { o with fault := some f }

/-- One step of an engine for an operation, whose page walks a fence may hold: a step that has to wait does nothing, and a write
found held is counted (R221, R295). -/
def State.tryStep (s : State) (tid : Nat) (t : Task) (o : EngOp) (step : State → State) : State :=
  let u := { step { s with noWalks := !t.clear o.xl } with noWalks := false }
  match (((Assoc.find u.tasks tid).bind fun t => t.eng.find? fun x => x.uid == o.uid).bind (·.fault)).filter EngFault.isWait with
  | some f => if f == EngFault.held then s.holdOp tid o.uid else s
  | none => u

/-! ### Joining (R273, R298, R371) -/

/-- Whether a number counts as handed out, retired and joined whatever has run: 0, and the number exactly 2^31 from its counter
(R219, R273, R412). -/
def joinedAlready (ctr n : BitVec 32) : Bool := n == 0 || n - ctr == 2 ^ 31

/-- Whether a number follows its counter: a join or poll of it traps (R231, R273, R412). -/
def follows (ctr n : BitVec 32) : Bool := !joinedAlready ctr n && precedes ctr n

/-- Whether the operation numbered `num` is covered by a join up to `n` (R273, R412). -/
def covered (ctr num n : BitVec 32) : Bool := !joinedAlready ctr n && notLater num n

/-- The oldest of some unreported faults, by number (R371). -/
def oldestFault (l : List Unreported) : Option Unreported := firstOf l
where
  firstOf : List Unreported → Option Unreported
    | [] => none
    | a :: r => match firstOf r with
      | some b => if precedes b.num a.num then some b else some a
      | none => some a

/-- The trap that reports a fault at a join (R367, R371). -/
def Unreported.trap (u : Unreported) : Trap :=
  let base := { Trap.ofClass u.cls with words := false, addr := u.fault.addr.toNat }
  if u.cls == 11 then { base with info := u.num.toNat }
  else if u.cls == 15 then { base with cspace := 6, cause := u.fault.cause, info := u.fault.cause }
  else { base with cspace := 4, cause := u.fault.cause, info := u.num.toNat + u.fault.fchk * 2 ^ 32 }

/-- Note a fault as reported. -/
def Task.reported (t : Task) (u : Unreported) : Task := { t with faults := t.faults.erase u }

/-- Join every operation numbered up to `n`, by a counter, among some engines of a sequencer: wait for them, then report one
fault at a time. -/
def State.join (s : State) (tid : Nat) (t : Task) (mine : Engine → Nat → Bool) (ctr n : BitVec 32) (why : Wait) : Eff :=
  if t.eng.any fun o => mine o.engine o.seq && covered ctr o.num n then .wait s why
  else match oldestFault (t.faults.filter fun u => (match u.engine with
      | some e => mine e u.seq
      | none => false) && covered ctr u.num n) with
    | some u => .trap (s.modTask tid (·.reported u)) u.trap
    | none => .done s

end Sys2Proof.Machine
end

