-- ==== Sys2Proof/Machine/Superstep.lean ====
section
/-! DEFINITION. The SSMON group: superstep barriers (R323, R324) and the monitor (R328, R329), with its events. -/

namespace Sys2Proof.Machine

/-! ### Superstep barriers -/

/-- The barrier xa names, when it is bound to the task's context (R324). -/
def State.barrierHandle (s : State) (t : Task) (x : Word) : Option Nat :=
  if 16 ≤ x.toNat then none
  else if (s.barrier x.toNat).ctx == some t.ctx then some x.toNat else none

/-- Bind a barrier that is free of any launch to a launch (R323). -/
def Superstep.bindTo (b : Superstep) (lr : Nat) : Superstep :=
  match b.lr with
  | some _ => b
  | none => { b with lr := some lr, step := 0, arrived := [], retired := 0, cur := 0, next := 0 }

/-- Record a member's arrival: ARR grows, and the step may end (R324). -/
def State.arriveAt (s : State) (tid k : Nat) (b : Superstep) : State :=
  ((s.setBarrier k { b with arrived := b.arrived ++ [tid] }).modTask tid fun t =>
    { t with ssArrived := Assoc.put t.ssArrived k b.step }).stepEnd k

/-- `ssarr xd, xa` (R324): an arrival is a release (R296, R299). -/
def execSsarr (w : Stall) (d a : SReg) (s : State) : Host.Outcome State Fault Refusal :=
  s.issue w (scalars [d, a]) fun s tid q t =>
    match s.barrierHandle t ((t.sq q).rd a) with
    | none => .trap s (Trap.sync 1)
    | some k =>
      if !(s.lrec t.lr).gang then .trap s (Trap.sync 6)
      else
        let b := (s.barrier k).bindTo t.lr
        if b.lr != some t.lr then .trap s (Trap.sync 7)
        else if t.unreleased || b.arrived.contains tid then .wait (s.setBarrier k b) .superstep
        else .done ((s.arriveAt tid k b).interlock tid q d (b.step.setWidth 64))

/-- Whether the step of an arrival has ended, or the barrier has left the task's launch. -/
def Superstep.ended (b : Superstep) (lr : Nat) (st : BitVec 32) : Bool := b.lr != some lr || precedes st b.step

/-- `sswait xd, xa` (R324). -/
def execSswait (w : Stall) (d a : SReg) (s : State) : Host.Outcome State Fault Refusal :=
  s.issue w (scalars [d, a]) fun s tid q t =>
    match s.barrierHandle t ((t.sq q).rd a) with
    | none => .trap s (Trap.sync 1)
    | some k =>
      match Assoc.find t.ssArrived k with
      | none => .trap s (Trap.sync 2)
      | some st =>
        if (s.barrier k).ended t.lr st then .done (s.interlock tid q d (st.setWidth 64)) else .wait s .superstep

/-- The word of `ssqry`: a barrier free of any launch shows only STEP. -/
def Superstep.word (b : Superstep) : Word :=
  let st := b.step.toNat % 2 ^ 24
  match b.lr with
  | some _ => BitVec.ofNat 64 (b.cur % 2 ^ 28 * 2 ^ 36 + b.arr % 2 ^ 11 * 2 ^ 25 + 2 ^ 24 + st)
  | none => BitVec.ofNat 64 st

/-- `ssqry xd, xa` (R324). -/
def execSsqry (w : Stall) (d a : SReg) (s : State) : Host.Outcome State Fault Refusal :=
  s.issue w (scalars [d, a]) fun s tid q t =>
    match s.barrierHandle t ((t.sq q).rd a) with
    | none => .trap s (Trap.sync 1)
    | some k => .done (s.interlock tid q d (s.barrier k).word)

/-! ### The monitor -/

/-- Whether a monitor may be armed on a place (R328): not streaming or host memory, the accumulator or the metadata. -/
def Place.watchable : Place → Bool
  | .spad _ | .cluster _ | .stripe _ => true
  | .acc _ | .md _ => false
  | .phys pa st => !st && !isHostPa pa

/-- `monarm xa` (R328). -/
def execMonarm (w : Stall) (a : SReg) (s : State) : Host.Outcome State Fault Refusal :=
  s.issue w (scalars [a]) fun s tid q t =>
    let va := ((t.sq q).rd a).toNat
    if 2 ^ 60 ≤ va then .trap s { Trap.ofClass 6 with addr := va }
    else match s.resolve t va .read with
      | .error e => .trap s (Trap.access e va)
      | .ok pl =>
        if pl.watchable then
          .done ((s.keepVa t va 1).modTask tid fun t => { t with mon := { t.mon with sector := sectorOf tid t pl, reason := 0 } })
        else .trap s { Trap.sync 10 with addr := va }

/-- `monwait xd` (R329). -/
def execMonwait (w : Stall) (d : SReg) (s : State) : Host.Outcome State Fault Refusal :=
  s.issue w (scalars [d]) fun s tid q t =>
    if t.mon.sector.isNone then .done (s.result tid q 1 d 0)
    else if t.mon.reason = 0 then .wait s .monitor
    else
      let s := s.modTask tid fun t => { t with mon := { t.mon with reason := 0 } }
      .done (s.result tid q 1 d (BitVec.ofNat 64 t.mon.reason))

/-- `monclr` (R329). -/
def execMonclr (w : Stall) (s : State) : Host.Outcome State Fault Refusal :=
  s.issue w (scalars []) fun s tid _ _ =>
    .done (s.modTask tid fun t => { t with mon := { t.mon with sector := none, reason := 0 } })

/-- `MONITOR_WAKE` (R329): a waiting `monwait` has its turn next, when its monitor holds the reason. The write, the eviction or the
spurious wake has recorded it. -/
def execMonitorWake (t : Nat) (reason : Fin 4) (s : State) : Host.Outcome State Fault Refusal :=
  let woken := (Assoc.find s.tasks t).any fun x => x.mon.sector.isSome && x.mon.reason != 0 && x.mon.reason == reason.val
  .next (if woken then s.wake t .k (· == .monitor) else s)

/-- The issue clock of the K-seq's stream: while a handler runs it stands (R368). -/
def Task.streamClk (t : Task) : Nat := (t.handler.map (·.clk)).getD t.kq.clk

/-- A spurious wake: at most one in any 2^20 c of the K-seq's issue clock; `spurious` holds the clock from which the next
is allowed (R329). -/
def Task.spuriousWake (t : Task) : Task :=
  if t.mon.sector.isSome && t.mon.spurious ≤ t.streamClk then
    { t with mon := { t.mon with reason := if t.mon.reason = 0 then 3 else t.mon.reason,
                                 spurious := t.streamClk + 2 ^ 20 } }
  else t

/-- `SPURIOUS_MONITOR_WAKE` (R329). -/
def execSpuriousMonitorWake (t : Nat) (s : State) : Host.Outcome State Fault Refusal :=
  .next (match (Assoc.find s.tasks t).filter s.moves with
    | some _ => (s.modTask t Task.spuriousWake).wake t .k (· == .monitor)
    | none => s)

end Sys2Proof.Machine
end

