-- ==== Sys2Proof/Machine/Collect.lean ====
section
/-! DEFINITION. The tensor-move unit (R336 to R352): walk records, the loop walker, landing and counting, triggered sends, and
`cwalk`, `cwait`, `trigarm`, `trigdis` and `rcvcnt`. -/

namespace Sys2Proof.Machine

/-! ### Walk records (R338, R339) -/

def walkBound (w : List Word) (d : Nat) : Nat := field w (192 * d + 543) (192 * d + 512)
def walkSstr (w : List Word) (d : Nat) : Int := sField w (192 * d + 544)
def walkDstr (w : List Word) (d : Nat) : Int := sField w (192 * d + 576)
def walkKind (w : List Word) (d : Nat) : Nat := field w (192 * d + 610) (192 * d + 608)
def walkField (w : List Word) (d : Nat) : Nat := field w (192 * d + 613) (192 * d + 611)
def walkPa (w : List Word) (d : Nat) : Int := signed 16 (field w (192 * d + 655) (192 * d + 640))
def walkPb (w : List Word) (d : Nat) : Int := signed 16 (field w (192 * d + 671) (192 * d + 656))
def walkMod (w : List Word) (d : Nat) : Nat := field w (192 * d + 687) (192 * d + 672)
def walkSbase (w : List Word) : Nat := field w 63 0
def walkDbase (w : List Word) : Nat := field w 127 64
def walkXfer (w : List Word) : Nat := field w 159 128
def walkOp (w : List Word) : Nat := field w 162 160
def walkRcnt (w : List Word) : Nat := field w 170 165
def walkSsb (w : List Word) : Nat := field w 174 171
def walkSse (w : List Word) : Bool := field w 175 175 == 1
def walkRoute (w : List Word) : Nat := field w 255 192

/-- The reserved fields of a walk record. -/
def walkReserved (w : List Word) : Bool :=
  field w 2047 1664 != 0 || field w 511 256 != 0 || field w 191 176 != 0 || field w 164 163 != 0 ||
  (List.range 6).any fun d => field w (192 * d + 703) (192 * d + 688) != 0 || field w (192 * d + 639) (192 * d + 614) != 0

/-- The Walk condition of R341, for a launch. -/
def walkBad (r : LaunchRec) (w : List Word) : Bool :=
  let levels (k : Nat) : List Nat := (List.range 6).filter fun d => walkKind w d == k
  let fields := (levels 1).map (walkField w)
  walkReserved w || decide (3 < walkOp w) || walkXfer w % 64 != 0 || walkXfer w < 64 || decide (2 ^ 20 < walkXfer w) ||
  !(walkRcnt w == 63 || (32 ≤ walkRcnt w && decide (walkRcnt w ≤ 47))) ||
  ((List.range 6).any fun d => decide (2 < walkKind w d)) ||
  ((levels 1 ++ levels 2).any fun d => walkMod w d == 0) || ((levels 2).any fun d => decide (64 < walkMod w d)) ||
  decide (1 < (levels 2).length) || (fields.any fun f => decide (5 < f) || r.width f == 0) || !decide fields.Nodup

/-- The alignment conditions of R341: cause 15 for an add f32 whose destination is not aligned to words, cause 2. -/
def walkAlign (w : List Word) : Option Nat :=
  let ds := (walkDbase w : Int) :: (List.range 6).map (walkDstr w)
  let ss := (walkSbase w : Int) :: (List.range 6).map (walkSstr w)
  if walkOp w == 3 && ds.any fun x => x % 8 != 0 then some 15
  else if (ds ++ ss).any (fun x => x % 64 != 0) || walkRoute w % 64 != 0 then some 2
  else none

/-- Read a walk or route record: it may lie wherever a walk reaches, the accumulator region among it (R243, R364). -/
def State.walkRead (s : State) (tid : Nat) (t : Task) (va n : Nat) : Except EngFault (List Byte) :=
  match (sectors (n / 64 + 2) va n).findSome? fun e =>
    match s.resolve t e.1 .read with
    | .error (.translation c) => some (EngFault.ofRefuse (.translation c) e.1)
    | .error _ => some (EngFault.at_ 3 e.1)
    | .ok (.md _) => some (EngFault.at_ 3 e.1)
    | .ok pl => if ((sectorOf tid t pl).bind s.poisonAt).isSome then some (EngFault.at_ 16 e.1) else none with
  | some f => .error f
  | none => match s.readVa t va n .read false with
    | .ok (bs, _) => .ok bs
    | .error e => .error (EngFault.at_ 9 e.addr)

/-- The checks of R341 on a walk record, as a cause. -/
def State.walkCheck (s : State) (t : Task) (w : List Word) : Option Nat :=
  if walkBad (s.lrec t.lr) w then some 11
  else match walkAlign w with
    | some c => some c
    | none => if walkSse w && (s.barrier (walkSsb w)).lr != some t.lr then some 14 else none

/-- The job of the records a walk block names, or the fault that ends the walk at its fork (R337, R341). -/
def State.walkRecords (s : State) (tid : Nat) (t : Task) (wrec : Nat) : Except EngFault EngJob :=
  if wrec % 64 != 0 then .error (EngFault.at_ 2 wrec)
  else match s.walkRead tid t wrec 256 with
    | .error f => .error f
    | .ok bs =>
      let w := wordsOf bs 32
      match s.walkCheck t w with
      | some c => .error (EngFault.at_ c wrec)
      | none =>
        if walkRoute w == 0 then .ok (.walk w [] false)
        else match s.walkRead tid t (walkRoute w) 512 with
          | .error f => .error f
          | .ok rs => .ok (.walk w (wordsOf rs 64) true)

/-- The job of a walk block. A poisoned record of its ends it with cause 16, and a KIND 8 record tells its context (R376). -/
def State.walkJob : TakeJob := fun s tid t b =>
  if blockBad b 3 || field b 1023 576 != 0 then (s, .none, some (EngFault.at_ 1 0))
  else match s.walkRecords tid t (field b 575 512) with
    | .ok j => (s, j, none)
    | .error f =>
      let seen := if f.cause == 16 then s.poisonIn tid t f.addr.toNat 64 .read else none
      (match seen with
        | some (code, addr) => s.postGraph t.ctx t.lr 7 code addr
        | none => s, .none, some f)

/-! ### Forks and joins (R346, R348 to R351) -/

/-- The walks of a task that have not retired. -/
def Task.walks (t : Task) : List EngOp := t.eng.filter fun o => o.engine == .tmu

/-- Whether a walk's fork blocks: 16 walks are unretired (R346). -/
def Task.walkBlocked (t : Task) : Bool := decide (16 ≤ t.walks.length)

/-- COUNT and EXPECT of a receive counter (R343). -/
def Task.counterOf (t : Task) (c : Nat) : BitVec 32 × BitVec 32 := Assoc.get (0, 0) t.rcv c

/-- Replace a receive counter. -/
def Task.setCounter (t : Task) (c : Nat) (v : BitVec 32 × BitVec 32) : Task := { t with rcv := Assoc.set (0, 0) t.rcv c v }

/-- Fork a walk, armed on a counter or not, and write its number (R348, R350). A walk whose threshold is reached already
is not armed: it has fired. -/
def State.forkWalk (s : State) (tid : Nat) (q : Seq) (t : Task) (d : SReg) (off : Nat) (arm : Option (Nat × Nat)) : State :=
  let armed := arm.filter fun a => decide ((t.counterOf a.1).1.toNat < a.2)
  let n := t.walkCtr + 1
  let (uid, s) := s.newUid
  let o := { EngOp.new uid .tmu q n (some off) (.pending off) [] with armed := armed }
  ((s.modTask tid fun t => { t with walkCtr := n }).forkOp tid q t o State.walkJob).result tid q 1 d (n.setWidth 64)

/-- `cwalk xd, xa` (R348). -/
def execCwalk (w : Stall) (d a : SReg) (s : State) : Host.Outcome State Fault Refusal :=
  s.issue w (scalars [d, a]) fun s tid q t =>
    let off := ((t.sq q).rd a).toNat
    match blockTrap t off with
    | some e => .trap s e
    | none => if t.walkBlocked then .hold s .cewait else .done (s.forkWalk tid q t d off none)

/-- `trigarm xd, xa, xb` (R350). -/
def execTrigarm (w : Stall) (d a b : SReg) (s : State) : Host.Outcome State Fault Refusal :=
  s.issue w (scalars [d, a, b]) fun s tid q t =>
    let off := ((t.sq q).rd a).toNat
    let x := ((t.sq q).rd b).toNat
    match blockTrap t off with
    | some e => .trap s e
    | none =>
      if 47 < bits x 5 0 then .trap s (Trap.ofClass 2)
      else if t.walkBlocked then .hold s .cewait
      else .done (s.forkWalk tid q t d off (some (bits x 5 0, bits x 63 32)))

/-- `cwait xa` (R349). -/
def execCwait (w : Stall) (a : SReg) (s : State) : Host.Outcome State Fault Refusal :=
  s.issue w (scalars [a]) fun s tid q t =>
    let n := ((t.sq q).rd a).setWidth 32
    if follows t.walkCtr n then .trap s (Trap.ofClass 2) else s.join tid t (fun e _ => e == .tmu) t.walkCtr n .cewait

/-- `trigdis xd, xa` (R351): a disarmed walk leaves without STATUS and without a signal. -/
def execTrigdis (w : Stall) (d a : SReg) (s : State) : Host.Outcome State Fault Refusal :=
  s.issue w (scalars [d, a]) fun s tid q t =>
    let n := ((t.sq q).rd a).setWidth 32
    if follows t.walkCtr n then .trap s (Trap.ofClass 2)
    else match t.walks.find? fun o => !joinedAlready t.walkCtr n && o.num == n && o.armed.isSome with
      | some o =>
        .done ((s.modTask tid fun t => { t with eng := t.eng.filter fun x => x.uid != o.uid }).interlock tid q d 1)
      | none => .done (s.interlock tid q d 0)

/-- RDY of R343. -/
def counterReady (c : BitVec 32 × BitVec 32) : Bool := c.2 != 0 && decide (c.2.toNat ≤ c.1.toNat)

/-- `rcvcnt xd, xa, xb` (R352). -/
def execRcvcnt (w : Stall) (d a b : SReg) (s : State) : Host.Outcome State Fault Refusal :=
  s.issue w (scalars [d, a, b]) fun s tid q t =>
    let x := ((t.sq q).rd a).toNat
    let c := bits x 5 0
    if 47 < c || bits x 63 7 != 0 then .trap s (Trap.ofClass 2)
    else
      let v := t.counterOf c
      let s := if bitAt x 6 then s.modTask tid (·.setCounter c (0, ((t.sq q).rd b).setWidth 32)) else s
      .done (s.interlock tid q d (BitVec.ofNat 64 ((if counterReady v then 2 ^ 63 else 0) + v.1.toNat)))

/-! ### The loop walker (R340) -/

/-- The number of transfers of a walk. -/
def walkTotal (w : List Word) : Nat := ((List.range 6).map (walkBound w)).foldl (· * ·) 1

/-- The indices of transfer `k`, i0 innermost. -/
def walkTuple (w : List Word) (k : Nat) : List Nat :=
  ((List.range 6).foldl (fun (acc : List Nat × Nat) d =>
    (acc.1 ++ [acc.2 % walkBound w d], acc.2 / walkBound w d)) ([], k)).1

/-- An origin plus the strides of a transfer, modulo 2^64. -/
def walkAddr (base : Nat) (str : Nat → Int) (i : List Nat) : Nat :=
  wrap 64 (base + ((List.range 6).map fun d => (i.getD d 0 : Int) * str d).sum)

/-- A coordinate after one level's peer expression. -/
def peerStep (w : List Word) (i : List Nat) (d x : Nat) : Nat :=
  (((x : Int) + walkPa w d * (i.getD d 0 : Int) + walkPb w d) % (walkMod w d : Int)).toNat

/-- The destination package of a transfer. -/
def walkPkg (w : List Word) (i : List Nat) (own : Nat) : Nat :=
  (List.range 6).foldl (fun p d => if walkKind w d == 2 then peerStep w i d p else p) own

/-- The destination's work identifier; none when a field reaches its extent (R341). -/
def walkWid (r : LaunchRec) (w : List Word) (i : List Nat) (own : Nat) : Option Nat :=
  (List.range 6).foldl (fun (acc : Option Nat) d =>
    match acc with
    | none => none
    | some x =>
      if walkKind w d != 1 then some x
      else
        let f := walkField w d
        let v := peerStep w i d (r.widField x f)
        if r.ext f ≤ v then none else some (x - r.widField x f * 2 ^ r.fieldPos f + v * 2 ^ r.fieldPos f)) (some own)

/-! ### Destinations (R336, R341, R342) -/

/-- Where a transfer's destination task stands. -/
inductive Target where
  | resident (tid : Nat)
  | absent
  | gone
  deriving DecidableEq, Repr

/-- The destination task of a transfer: that work identifier in the present arming of the launch (R336). -/
def State.destination (s : State) (lr : Nat) (wid : Word) : Target :=
  let r := s.lrec lr
  match s.tasks.find? fun e => e.2.lr == lr && e.2.arming == r.armcnt && e.2.wid == wid with
  | some e => if e.2.resident then .resident e.1 else .absent
  | none =>
    if !r.live then .gone
    else match r.indexOf wid.toNat with
      | some n => if n < r.next || r.placed.contains n then .gone else .absent
      | none => .gone

/-- Whether a destination range may take an operation (R341): cause 12 when an address is not open to writes or not
populated, 15 for an add outside the accumulator region. -/
def State.targetBad (s : State) (t : Task) (da n op : Nat) : Option Nat :=
  (sectors (n / 64 + 2) da n).findSome? fun e =>
    match s.resolve t e.1 .write with
    | .error _ => some 12
    | .ok (.md _) => some 12
    | .ok (.acc _) => none
    | .ok _ => if op == 0 then none else some 15

/-- Why a source range may not be read: an engine cause with its address (R341). -/
def State.sourceBad (s : State) (tid : Nat) (t : Task) (sa n : Nat) : Option (Nat × Nat) :=
  (sectors (n / 64 + 2) sa n).findSome? fun e =>
    match s.resolve t e.1 .read with
    | .error w => some ((EngFault.ofRefuse w e.1).cause, e.1)
    | .ok (.md _) => some (3, e.1)
    | .ok (.stripe _) => some (3, e.1)
    | .ok pl => if ((sectorOf tid t pl).bind s.poisonAt).isSome then some (16, e.1) else none

/-- Whether a range of a task names a busy tile. -/
def State.rangeBusy (s : State) (t : Task) (va n : Nat) : Bool :=
  (sectors (n / 64 + 2) va n).any fun e => match s.resolve t e.1 .nothing with
    | .ok (.acc o) => t.tileBusy (o / 8192)
    | _ => false

/-! ### Sending (R324, R340, R347) -/

/-- The job number of a context. -/
def State.jobOf (s : State) (ctx : Nat) : Nat :=
  match Assoc.find s.ctxs ctx with
  | some c => c.job
  | none => 0

/-- Whether a package belongs to a job: the own one, or one of the domain that is bound to it. -/
def State.inJob (s : State) (job pkg : Nat) : Bool :=
  pkg == s.pkgIndex || (decide (pkg < s.domain) && Assoc.has s.jobPkgs (65536 * job + pkg))

/-- Egress port, ROD and flow of a transfer to another package, or cause 13 (R341, R347). -/
def State.routeTo (s : State) (route : List Word) (routed : Bool) (pkg : Nat) : Option (Option Nat × Bool × Option Nat) :=
  if !routed then some (none, true, none)
  else
    let e := (route.getD pkg 0).toNat
    if !bitAt e 63 || bits e 61 20 != 0 || bits e 15 12 != 0 || !s.ports.getLsbD (bits e 19 16) then none
    else some (some (bits e 19 16), bitAt e 62, some (bits e 11 0))

/-- Bytes in pieces of `n`. -/
def cutInto (fuel n : Nat) (bs : List Byte) : List (List Byte) :=
  match fuel with
  | 0 => []
  | fuel + 1 => if bs.isEmpty then [] else bs.take n :: cutInto fuel n (bs.drop n)

/-- Count a transfer's bytes into its barrier: CUR, or NEXT when the sender has arrived (R324). -/
inductive Counted where
  | refused
  | full
  | ok (s : State) (sse : Option (Nat × BitVec 32))

/-- Count the bytes of a transfer of a member. -/
def State.countOut (s : State) (tid : Nat) (t : Task) (w : List Word) : Counted :=
  if !walkSse w then .ok s none
  else
    let k := walkSsb w
    let b := s.barrier k
    let n := walkXfer w
    if b.lr != some t.lr then .refused
    else if b.arrived.contains tid then
      (if 2 ^ 28 ≤ b.next + n then .full else .ok (s.setBarrier k { b with next := b.next + n }) (some (k, b.step + 1)))
    else if 2 ^ 28 ≤ b.cur + n then .full
    else .ok (s.setBarrier k { b with cur := b.cur + n }) (some (k, b.step))

/-- A walk ends with its fault of the lowest transfer (R341). -/
def EngOp.walkFaulted (o : EngOp) (f : EngFault) : EngOp :=
  match o.fault with
  | some g => if f.fchk < g.fchk then { o with fault := some f } else o
  | none => { o with fault := some f }

/-- A walk ends with a fault at its present transfer; it retires once its earlier transfers are performed. -/
def State.walkFault (s : State) (tid : Nat) (o : EngOp) (cause addr : Nat) : State :=
  let f : EngFault := { cause := cause, addr := BitVec.ofNat 64 addr, fchk := o.pos }
  s.modTask tid fun t => t.modOp o.uid (·.walkFaulted f)

/-- Put a transfer on its way. One to another package leaves as packets of at most 4,096 bytes (R361). -/
def State.sendOut (s : State) (tid : Nat) (t : Task) (o : EngOp) (w : List Word) (via : Option (Option Nat × Bool × Option Nat))
    (pkg : Nat) (wid : Word) (da : Nat) (bytes : List Byte) (sse : Option (Nat × BitVec 32)) : State :=
  let id := s.nextXfer
  let job := s.jobOf t.ctx
  let x : Xfer := { id := id, pkg := pkg, sender := some (tid, o.uid, o.pos), job := job, lrec := t.lr, wid := wid,
                    addr := BitVec.ofNat 64 da, op := walkOp w, rcnt := walkRcnt w, bytes := bytes, sse := sse,
                    part := none, rod := none }
  let out : List Egress := match via with
    | none => []
    | some (port, rod, flow) =>
      (cutInto (bytes.length + 1) 4096 bytes).zipIdx.map fun e =>
        { pkg := pkg, port := port, rod := rod, flow := flow, bytes := e.1,
          hdr := some { pkg := pkg, lrec := t.lr, wid := wid, addr := BitVec.ofNat 64 (da + 4096 * e.2), op := walkOp w,
                        rcnt := walkRcnt w, job := job, total := bytes.length, xid := id, walk := o.uid } }
  ({ s with xfers := s.xfers ++ [x], nextXfer := id + 1, egress := s.egress ++ out } : State).modTask tid fun t =>
    t.modOp o.uid fun o => { o with pos := o.pos + 1, sent := o.sent ++ [id] }

/-- Whether an operation may go to a destination of another package: an add needs the accumulator region (R243, R341). -/
def farOpBad (da n op : Nat) : Bool :=
  op != 0 && !(decide (0xFF0 * 2 ^ 48 + 0x100000 ≤ da) && decide (da + n ≤ 0xFF0 * 2 ^ 48 + 0x140000))

/-- Read, count and send the present transfer of a walk, whose destination is open; none while it is held, by a busy source tile,
a full counter, or a fence that holds its page walk. -/
def State.sendRead (s : State) (tid : Nat) (t : Task) (o : EngOp) (w : List Word) (via : Option (Option Nat × Bool × Option Nat))
    (pkg : Nat) (wid : Word) (sa da : Nat) : Option State :=
  if s.walkHeldBy t o.xl sa (walkXfer w) then none
  else match s.sourceBad tid t sa (walkXfer w) with
  | some (c, a) => some (s.walkFault tid o c a)
  | none =>
    if s.rangeBusy t sa (walkXfer w) then none
    else match s.readVa t sa (walkXfer w) .read false with
      | .error e => some (s.walkFault tid o 9 e.addr)
      | .ok (bytes, _) =>
        match (s.keepVa t sa (walkXfer w)).countOut tid t w with
        | .refused => some (s.walkFault tid o 14 0)
        | .full => none
        | .ok s sse => some (s.sendOut tid t o w via pkg wid da bytes sse)

/-- The task whose windows and context open a destination of this package: the destination itself, or the issuer for one that
is not placed yet, which demands the same. -/
def State.targetTask (s : State) (t : Task) (wid : Word) : Option Task :=
  match s.destination t.lr wid with
  | .gone => none
  | .absent => some t
  | .resident k => Assoc.find s.tasks k

/-- The present transfer of a walk (R340, R341); none while it is held. -/
def State.sendOne (s : State) (tid : Nat) (t : Task) (o : EngOp) (w route : List Word) (routed : Bool) : Option State :=
  let i := walkTuple w o.pos
  let sa := walkAddr (walkSbase w) (walkSstr w) i
  let da := walkAddr (walkDbase w) (walkDstr w) i
  let pkg := walkPkg w i s.pkgIndex
  let bad (c : Nat) : Option State := some (s.walkFault tid o c da)
  match walkWid (s.lrec t.lr) w i t.wid.toNat with
  | none => bad 12
  | some wid =>
    let wid := BitVec.ofNat 64 wid
    if !s.inJob (s.jobOf t.ctx) pkg then bad 12
    else if pkg == s.pkgIndex then
      match s.targetTask t wid with
      | none => bad 12
      | some p => match s.targetBad p da (walkXfer w) (walkOp w) with
        | some c => bad c
        | none => s.sendRead tid t o w none pkg wid sa da
    else if farOpBad da (walkXfer w) (walkOp w) then bad 15
    else match s.routeTo route routed pkg with
      | none => bad 13
      | some via => s.sendRead tid t o w (some via) pkg wid sa da

/-- Whether a walk has something to do: a transfer to send, or its retirement. -/
def EngOp.walkReady (o : EngOp) : Bool :=
  o.engine == .tmu &&
  (if o.fault.isSome then o.sent.isEmpty
   else o.started && match o.job with
     | .walk w _ _ => decide (o.pos < walkTotal w) || o.sent.isEmpty
     | _ => true)

/-- One walk moves: it sends a transfer, or retires when its transfers are all performed; none while it is held. A task that is
being cut sends nothing (R345). -/
def State.walkStep (s : State) (tid : Nat) (t : Task) (o : EngOp) : Option State :=
  match o.fault, o.job with
  | none, .walk w route routed =>
    if walkTotal w ≤ o.pos then some (s.retireOp tid o)
    else if t.life == .running || t.life == .ending then s.sendOne tid t o w route routed
    else none
  | _, _ => some (s.retireOp tid o)

/-- The tensor-move unit moves the oldest walk of a task that is not held: it holds nothing else meanwhile (R324). -/
def State.walkEngine (s : State) (tid : Nat) : State :=
  match Assoc.find s.tasks tid with
  | none => s
  | some t =>
    if s.moves t then ((t.eng.filter EngOp.walkReady).findSome? (s.walkStep tid t)).getD s else s

/-- `WALK_TRANSFER_SEND` (R340). -/
def execWalkTransferSend (t : Nat) (s : State) : Host.Outcome State Fault Refusal := .next (s.walkEngine t)

/-! ### Landing (R342 to R344) -/

/-- Add words to a receive counter, and fire the walks armed on it whose threshold is reached, in the order they were armed
(R343, R346). -/
def Task.count (t : Task) (c n : Nat) : Task :=
  let v := t.counterOf c
  let k := min (2 ^ 32 - 1) (v.1.toNat + n)
  let t := t.setCounter c (BitVec.ofNat 32 k, v.2)
  { t with eng := t.eng.map fun o => match o.armed with
      | some (d, thr) => if d == c && decide (thr ≤ k) then { o with armed := none } else o
      | none => o }

/-- The words a landing writes in each tile. -/
def State.wordsIn (s : State) (t : Task) (da n : Nat) : Assoc Nat :=
  (sectors (n / 64 + 2) da n).foldl (fun (m : Assoc Nat) e => match s.resolve t e.1 .write with
    | .ok (.acc o) => Assoc.set 0 m (o / 8192) (Assoc.get 0 m (o / 8192) + e.2 / 8)
    | _ => m) []

/-- Write a transfer's bytes at its destination task (R342). -/
def State.landBytes (s : State) (did : Nat) (da op : Nat) (bytes : List Byte) : State :=
  if op == 0 then s.writeVa did da bytes false
  else
    let base := da % 2 ^ 48 - 0x100000
    (wordsOf bytes (bytes.length / 8)).zipIdx.foldl (fun (s : State) e =>
      let o := base + 8 * e.2
      s.modTile did (o / 8192) fun x => (x.atomic 0 (op - 1) (o % 8192 / 8) e.1).1) s

/-- Count a landed transfer at its destination task (R343): at once when it is whole, else once every packet of it has
landed. -/
def State.countIn (s : State) (did : Nat) (x : Xfer) (words : Assoc Nat) : State :=
  let add (s : State) (n : Nat) (ws : Assoc Nat) : State := s.modTask did fun t =>
    let t := ws.foldl (fun (t : Task) e => t.count e.1 e.2) t
    if x.rcnt == 63 then t else t.count x.rcnt (n / 8)
  match x.part with
  | none => add s x.bytes.length words
  | some (src, xid, total) =>
    let mine (p : RxPart) : Bool := p.src == src && p.xid == xid
    let old := s.parts.find? mine
    let got := (old.map (·.got)).getD 0 + x.bytes.length
    let ws := words.foldl (fun m e => Assoc.set 0 m e.1 (Assoc.get 0 m e.1 + e.2)) ((old.map (·.words)).getD [])
    let rest := s.parts.filter fun p => !mine p
    if total ≤ got then add { s with parts := rest } total ws
    else { s with parts := rest ++ [{ src := src, xid := xid, got := got, words := ws }] }

/-- A transfer is performed: its sender's walk knows, and its bytes leave their superstep counter (R324, R344). -/
def State.performed (s : State) (x : Xfer) : State :=
  let s := { s with xfers := s.xfers.filter fun y => y.id != x.id }
  let s := match x.sender with
    | some (tid, uid, _) => s.modTask tid fun t => t.modOp uid fun o => { o with sent := o.sent.filter (· != x.id) }
    | none => s
  match x.sse with
  | none => s
  | some (k, st) =>
    let b := s.barrier k
    let n := x.bytes.length
    if b.lr != some x.lrec then s
    else if st == b.step then (s.setBarrier k { b with cur := b.cur - n }).stepEnd k
    else s.setBarrier k { b with next := b.next - n }

/-- A transfer that its destination turns out not to admit ends its walk at that transfer, also when a later one has faulted before
it (R341). -/
def State.landFault (s : State) (x : Xfer) (cause : Nat) : State :=
  let s := s.performed x
  match x.sender with
  | some (tid, uid, k) =>
    let f : EngFault := { cause := cause, addr := x.addr, fchk := k }
    s.modTask tid fun t => t.modOp uid (·.walkFaulted f)
  | none => s

/-- Whether two transfers belong to one walk whose transfers land in order: one of this package, or one that came under
ROD (R344). -/
def Xfer.sameWalk (x y : Xfer) : Bool :=
  match x.sender, y.sender with
  | some (a, b, _), some (c, d, _) => a == c && b == d
  | none, none => x.rod.isSome && x.rod == y.rod
  | _, _ => false

/-- Whether an earlier transfer of the same walk to the same task is still on its way within the package (R344). -/
def State.landsLater (s : State) (x : Xfer) : Bool :=
  (s.xfers.takeWhile fun y => y.id != x.id).any fun y =>
    y.pkg == s.pkgIndex && y.lrec == x.lrec && y.wid == x.wid && x.sameWalk y

/-- A transfer to another package is acknowledged: performed there, or refused by a destination that does not admit it, cause 12
(R341). Which of them is a free value: what stands at the other package is not of this one (DESIGN CHOICE, assumption 78). -/
def State.farAck (s : State) (x : Xfer) : State :=
  let refused := Config.freeChoice s.fresh % 2 == 1
  let s : State := { s with fresh := s.fresh + 1 }
  if refused then s.landFault x 12 else s.performed x

/-- Land a transfer at a resident task whose range admits it. -/
def State.landAt (s : State) (did : Nat) (p : Task) (x : Xfer) : State :=
  let da := x.addr.toNat
  let n := x.bytes.length
  let words := s.wordsIn p da n
  (((s.keepVa p da n).landBytes did da x.op x.bytes).countIn did x words).performed x

/-- A transfer lands (R342), unless it is held: by an earlier one of its walk, by its task's absence, or by a reservation
or a busy tile, which HOLDCNT counts. A destination that has retired meanwhile is cause 12 of its walk (R341), and an add that reads a
poisoned sector cause 16 (R371, R373). -/
def State.landXfer (s : State) (x : Xfer) : State :=
  if x.pkg != s.pkgIndex then s.farAck x
  else if s.landsLater x then s
  else match s.destination x.lrec x.wid with
    | .gone => s.landFault x 12
    | .absent => s
    | .resident did =>
      match Assoc.find s.tasks did with
      | none => s
      | some p =>
        if !s.moves p then s
        else match s.targetBad p x.addr.toNat x.bytes.length x.op with
          | some c => s.landFault x c
          | none =>
            if s.rangeHeld p x.addr.toNat x.bytes.length then s.tickHeld did
            else if x.op != 0 && (s.poisonIn did p x.addr.toNat x.bytes.length .write).isSome then s.landFault x 16
            else s.landAt did p x

/-- `TRANSFER_LAND` (R342). -/
def execTransferLand (n : Nat) (s : State) : Host.Outcome State Fault Refusal :=
  .next (match s.xfers.find? fun x => x.id == n with
    | some x => s.landXfer x
    | none => s)

end Sys2Proof.Machine
end

