-- ==== Sys2Proof/Machine/Control.lean ====
section
/-! DEFINITION. Branches, jumps and loops of the K-, L- and W-seq (R161 to R164). -/

namespace Sys2Proof.Machine

/-- The target of a branch, jump or loop: the instruction's own address plus 4 × SignExt(offset) (R120). -/
def target {n : Nat} (pc : Word) (o : BitVec n) : Word := pc + 4 * o.signExtend 64

/-- A branch (R161). -/
def State.branch (s : State) (w : Stall) (a b : SReg) (o : BitVec 9) (taken : Word → Word → Bool) :
    Host.Outcome State Fault Refusal :=
  s.issue w (scalars [a, b]) fun s _ q t =>
    let x := t.sq q
    if taken (x.rd a) (x.rd b) then .jump s (target x.pc o) else .done s

/-- `beq xa, xb, label` (R161). -/
def execBeq (w : Stall) (a b : SReg) (o : BitVec 9) (s : State) : Host.Outcome State Fault Refusal :=
  s.branch w a b o fun x y => x == y

/-- `bne xa, xb, label` (R161). -/
def execBne (w : Stall) (a b : SReg) (o : BitVec 9) (s : State) : Host.Outcome State Fault Refusal :=
  s.branch w a b o fun x y => x != y

/-- `blt xa, xb, label` (R161). -/
def execBlt (w : Stall) (a b : SReg) (o : BitVec 9) (s : State) : Host.Outcome State Fault Refusal :=
  s.branch w a b o fun x y => ltS x y

/-- `bge xa, xb, label` (R161). -/
def execBge (w : Stall) (a b : SReg) (o : BitVec 9) (s : State) : Host.Outcome State Fault Refusal :=
  s.branch w a b o fun x y => !ltS x y

/-- `bltn xa, xb, label` (R161). -/
def execBltn (w : Stall) (a b : SReg) (o : BitVec 9) (s : State) : Host.Outcome State Fault Refusal :=
  s.branch w a b o fun x y => ltU x y

/-- `bgen xa, xb, label` (R161). -/
def execBgen (w : Stall) (a b : SReg) (o : BitVec 9) (s : State) : Host.Outcome State Fault Refusal :=
  s.branch w a b o fun x y => !ltU x y

/-- `j label` (R162). -/
def execJ (w : Stall) (o : BitVec 22) (s : State) : Host.Outcome State Fault Refusal :=
  s.issue w (scalars []) fun s _ q t => .jump s (target (t.sq q).pc o)

/-- `jal xd, label` (R162). -/
def execJal (w : Stall) (d : SReg) (m : BitVec 16) (s : State) : Host.Outcome State Fault Refusal :=
  s.issue w (scalars [d]) fun s tid q t => .jump (s.result tid q 1 d ((t.sq q).pc + 4)) (target (t.sq q).pc m)

/-- A jump to a register's address: a misaligned one takes the alignment trap at the jump (R129, R162). -/
def jumpTo (s : State) (pc : Word) : Eff :=
  if pc.toNat % 4 != 0 then .trap s { Trap.ofClass 5 with addr := pc.toNat } else .jump s pc

/-- `jr xa` (R162). -/
def execJr (w : Stall) (a : SReg) (s : State) : Host.Outcome State Fault Refusal :=
  s.issue w (scalars [a]) fun s _ q t => jumpTo s ((t.sq q).rd a)

/-- `jalr xd, xa` (R162). -/
def execJalr (w : Stall) (d a : SReg) (s : State) : Host.Outcome State Fault Refusal :=
  s.issue w (scalars [d, a]) fun s tid q t =>
    let pc := (t.sq q).rd a
    if pc.toNat % 4 != 0 then .trap s { Trap.ofClass 5 with addr := pc.toNat }
    else .jump (s.result tid q 1 d ((t.sq q).pc + 4)) pc

/-- A loop counter as a scalar register (R123). -/
def lcReg (l : Fin 4) : SReg := .lc l

/-- `loop lcN, label` (R163). -/
def execLoop (w : Stall) (l : Fin 4) (o : BitVec 20) (s : State) : Host.Outcome State Fault Refusal :=
  s.issue w (scalars [lcReg l]) fun s tid q t =>
    let x := t.sq q
    let n := x.rd (lcReg l)
    if n = 0 then .done s
    else
      let s := s.result tid q 1 (lcReg l) (n - 1)
      if n - 1 = 0 then .done s else .jump s (target x.pc o)

/-- `lcset lcN, imm` (R164). -/
def execLcset (w : Stall) (d : Fin 4) (m : BitVec 16) (s : State) : Host.Outcome State Fault Refusal :=
  s.issue w (scalars [lcReg d]) fun s tid q _ => .done (s.result tid q 1 (lcReg d) (BitVec.ofNat 64 m.toNat))

end Sys2Proof.Machine
end

