-- ==== Sys2Proof/Machine/Copy.lean ====
section
/-! DEFINITION. The COPY group (R272 to R278) and the copy engine's progress (R58, R59, R274, R275). -/

namespace Sys2Proof.Machine

/-! ### Forks -/

/-- The checks of a copy's fork on the records it has looked up, after its block's own (R54, R272, R274): the source's, the
destination's, then their extents (DESIGN CHOICE, assumption 64). -/
def State.copyBad (s : State) (t : Task) (w : List Word) (x y : Tensor) : Option EngFault :=
  let ext (z : Tensor) : List Nat := (List.range 6).map (tsrExt z.tsr)
  if field w 1023 645 != 0 || decide (4 < field w 642 640) then some (EngFault.at_ 1 0)
  else match s.recordBad t (BitVec.ofNat 64 (field w 575 512)) x, s.recordBad t (BitVec.ofNat 64 (field w 639 576)) y with
    | some f, _ => some f
    | none, some f => some f
    | none, none =>
      if (if field w 644 644 == 1 then swap01 (ext x) else ext x) != ext y then some (EngFault.at_ 10 0) else none

/-- The job of a copy block, with the copies of its records, or the fault that ends it at the fork (R270, R272, R274). Both
records are looked up before either is checked. -/
def State.copyJob : TakeJob := fun s tid t w =>
  if blockBad w 0 then (s, .none, some (EngFault.at_ 1 0))
  else
    let (s, x) := s.takeRecords tid (BitVec.ofNat 64 (field w 575 512))
    let (s, y) := s.takeRecords tid (BitVec.ofNat 64 (field w 639 576))
    match x, y with
    | .error f, _ => (s, .none, some f)
    | .ok _, .error f => (s, .none, some f)
    | .ok x, .ok y => match s.copyBad t w x y with
      | some f => (s, .none, some f)
      | none =>
        (s, .copy x.tsr x.tlr y.tsr y.tlr (field w 644 644 == 1) (field w 643 643 == 1) (field w 642 640), none)

/-- `cego xd, xa` (R273, R274). -/
def execCego (w : Stall) (d a : SReg) (s : State) : Host.Outcome State Fault Refusal :=
  s.issue w (scalars [d, a]) fun s tid q t =>
    let off := ((t.sq q).rd a).toNat
    match blockTrap t off with
    | some e => .trap s e
    | none => if t.forkBlocked q then .hold s .cewait else .done (s.fork tid q t d .copy off State.copyJob)

/-- The operations that a scalar sequencer's joins cover (R273). -/
def ownForks (q : Seq) (e : Engine) (seq : Nat) : Bool := seq == q.code && (e == .copy || e == .hist)

/-- `cewait xa` (R273). -/
def execCewait (w : Stall) (a : SReg) (s : State) : Host.Outcome State Fault Refusal :=
  s.issue w (scalars [a]) fun s tid q t =>
    let n := ((t.sq q).rd a).setWidth 32
    if follows (t.sq q).forks n then .trap s (Trap.ofClass 2) else s.join tid t (ownForks q) (t.sq q).forks n .cewait

/-- `cepoll xd, xa` (R273). -/
def execCepoll (w : Stall) (d a : SReg) (s : State) : Host.Outcome State Fault Refusal :=
  s.issue w (scalars [d, a]) fun s tid q t =>
    let n := ((t.sq q).rd a).setWidth 32
    if follows (t.sq q).forks n then .trap s (Trap.ofClass 2)
    else
      let out := !joinedAlready (t.sq q).forks n && t.eng.any fun o => ownForks q o.engine o.seq && o.num == n
      .done (s.result tid q 1 d (if out then 0 else 1))

/-- `rcfence` (R276): it waits for the forks of its sequencer that have not taken their copies yet (DEDUCED, assumption 76);
every other fill is one step. -/
def execRcfence (w : Stall) (s : State) : Host.Outcome State Fault Refusal :=
  s.issue w (scalars []) fun s tid q t =>
    if (t.sq q).forking then .hold s .fence
    else
      let s := t.recs.foldl (fun s e => s.clearPoison (.rcache tid e.1.toNat)) s
      .done (s.modTask tid fun t => { t with recs := [] })

/-- The look-up of `tsrld`: on a hit the word lands 4 c after issue (R22, R277). A poisoned record is reported as any read of the
task is (R375). -/
def State.recordLoad (s : State) (tid : Nat) (q : Seq) (t : Task) (d : SReg) (va : Word) (k : Nat) : Eff :=
  let hit := t.recs.any fun e => e.1 == va
  match (if hit then .ok () else s.checkVa t va.toNat 64 .read) with
  | .error e => .trap s (Trap.access e.why e.addr)
  | .ok () =>
    match s.lookup tid t va with
    | (s, .ok r) => .done (if hit then s.interlockAt tid q d 4 (r.getD k 0) else s.interlock tid q d (r.getD k 0))
    | (s, .error _) =>
      match s.recordPoison tid t va.toNat with
      | some (code, addr) => .done (s.noteCheck tid code addr)
      | none => .trap s { Trap.ofClass 6 with addr := va.toNat }

/-- `tsrld xd, xa, idx` (R277): it looks up as a fork would, after the sequencer's earlier forks (assumption 76), behind its marks
whose pairs are not complete (R293), and behind a fence that holds its page walk (R295). -/
def execTsrld (w : Stall) (d a : SReg) (x : Fin 8) (s : State) : Host.Outcome State Fault Refusal :=
  s.issue w (scalars [d, a]) fun s tid q t =>
    let va := (t.sq q).rd a
    if 2 ^ 60 ≤ va.toNat then .trap s { Trap.ofClass 6 with addr := va.toNat }
    else if va.toNat % 64 != 0 then .trap s { Trap.ofClass 5 with addr := va.toNat }
    else if (t.sq q).forking || (t.sq q).marking || s.walkHeld t q va.toNat 64 then .hold s .fence
    else s.recordLoad tid q t d va x.val

/-- `mdld xd, xa, xb` (R278). -/
def execMdld (w : Stall) (d a b : SReg) (s : State) : Host.Outcome State Fault Refusal :=
  s.issue w (scalars [d, a, b]) fun s tid q t =>
    let va := (t.sq q).rd a
    let p := ((t.sq q).rd b).toNat
    let o := bits p 14 0
    let n := bits p 47 32
    if va.toNat % 64 != 0 || o % 64 != 0 || n % 64 != 0 || n < 64 || 32768 < n then
      .trap s { Trap.ofClass 5 with addr := va.toNat }
    else if 2 ^ 60 ≤ va.toNat || 4096 * t.tt.mdd < o + n then .trap s { Trap.ofClass 6 with addr := va.toNat }
    else if t.forkBlocked q then .hold s .cewait
    else
      let num := (t.sq q).forks + 1
      let (uid, s) := s.newUid
      let op := { EngOp.new uid .copy q num none (.mdld va o n) (t.forkAfter q) with xl := (t.sq q).xlFences }
      .done (((s.modSq tid q fun x => { x with forks := num }).addOp tid op).result tid q 1 d (num.setWidth 64))

/-! ### The walk of a copy (R58, R272, R274) -/

/-- A copy in progress: its tensors, TRANS, the destination's encoding, the rounding, and what its draws are named by. -/
structure CopyWalk where
  src : Tensor
  dst : Tensor
  trans : Bool
  enc : Enc
  rnd : Rnd
  sat : Bool
  deriving DecidableEq, Repr

/-- The elements of a destination group. -/
def CopyWalk.block (c : CopyWalk) : Nat := blockLen c.enc.blk

/-- The source index tuple of element `k`. A transposing copy into a scaled destination goes group by group, in the order
in which its walk first reaches the groups; every other copy goes in the order of the source's walk (DEDUCED,
assumption 14). -/
def CopyWalk.tuple (c : CopyWalk) (k : Nat) : List Nat :=
  if c.trans && c.enc.blk != 0 then
    let b := c.block
    let e0 := tsrExt c.src.tsr 0
    let rows := tsrExt c.src.tsr 1 / b
    let g := k / b
    let rest := c.src.tuple (g / e0 / rows * (e0 * tsrExt c.src.tsr 1))
    g % e0 :: (g / e0 % rows * b + k % b) :: rest.drop 2
  else c.src.tuple k

/-- The linear index of element `k` in the destination. -/
def CopyWalk.dstIndex (c : CopyWalk) (k : Nat) : Int :=
  c.dst.linear (if c.trans then swap01 (c.tuple k) else c.tuple k)

/-- Elements of a 4 KiB destination chunk. -/
def CopyWalk.chunkLen (c : CopyWalk) : Nat := 32768 / c.enc.ty.width

/-- Read the source elements of a chunk, in order. -/
def State.readElems (s : State) (tid : Nat) (t : Task) (c : CopyWalk) : List Nat → State × Except EngFault (List Elem)
  | [] => (s, .ok [])
  | k :: r =>
    let i := c.tuple k
    match s.readElem tid t c.src (c.src.linear i) (c.src.walkIndex i) with
    | (s, .error f) => (s, .error f)
    | (s, .ok e) => match State.readElems s tid t c r with
      | (s, .error f) => (s, .error f)
      | (s, .ok es) => (s, .ok (e :: es))

/-- Touch the destination tiles of a chunk for writing. -/
def State.touchDst (s : State) (tid : Nat) (t : Task) (c : CopyWalk) : List Nat → State × Option EngFault
  | [] => (s, none)
  | k :: r =>
    let n := c.dstIndex k
    let tile := n.toNat / c.dst.te
    if n < 0 || tlrNtile c.dst.tlr ≤ tile then (s, some (EngFault.at_ 4 0))
    else match s.touch tid t c.dst tile true with
      | (s, .error f) => (s, some f)
      | (s, .ok _) => State.touchDst s tid t c r

/-- The draw of an element (R38). -/
def CopyWalk.draw (c : CopyWalk) (wid : Word) (o : EngOp) (k : Nat) : Nat :=
  engDraw wid o.seq o.num.toNat (c.dstIndex k).toNat

/-- Whether a written value differs from the exact one it stands for. -/
def lossy (x y : Ext) : Bool := !(x == .nan) && !(y == .nan) && !x.eq y

/-- A destination group of elements from sources of the same format and block (R59): scale, codes, and lossy rescales. -/
def reBlock (ty : NumType) (es : List Elem) : Nat × List Nat × Nat :=
  let one := match es with
    | [] => true
    | e :: r => r.all fun x => x.block == e.block
  if one then ((es.head?.map (·.scale)).getD 0, es.map (·.code), 0)
  else
    let s : Nat := es.foldl (fun m e => max m e.scale) 0
    let out := es.map fun e =>
      let v := (valOf ty e.code).scale ((e.scale : Int) - (s : Int))
      let c := convert ty v .rne true 0
      (c, lossy (valOf ty c) v)
    (s, out.map (·.1), (out.filter (·.2)).length)

/-- The scale and codes of one group of destination elements, with the lossy rescales (R274). DESIGN CHOICE (assumption 66): no
field of a copy gives the exponent X of an fxa element (R31), which is taken as 0. -/
def CopyWalk.group (c : CopyWalk) (wid : Word) (o : EngOp) (ks : List Nat) (es : List Elem) : Nat × List Nat × Nat :=
  if es.all fun e => e.enc == c.enc then
    (if c.enc.blk == 0 then (0, es.map (·.code), 0) else reBlock c.enc.ty es)
  else if c.enc.blk == 0 then
    (0, (ks.zip es).map fun x => convert c.enc.ty x.2.value c.rnd c.sat (c.draw wid o x.1), 0)
  else
    let s := chooseScale c.enc.ty (es.map (·.value))
    (s, (ks.zip es).map fun x => groupElement c.enc.ty s x.2.value c.rnd c.sat (c.draw wid o x.1), 0)

/-! ### Writing a chunk -/

/-- A sparse image of the bytes a chunk writes, by virtual address. -/
abbrev Image := List (Nat × Byte)

/-- Put a code of `w` bits at a bit address; bits of a byte that the chunk does not write come from memory. -/
def State.putCode (s : State) (t : Task) (m : Image) (bit w code : Nat) : Image :=
  let a := bit / 8
  if 8 ≤ w then ((toBytes (w / 8) code).zipIdx).foldl (fun m e => Assoc.put m (a + e.2) e.1) m
  else
    let old := match Assoc.find m a with
      | some b => b.toNat
      | none => match s.readVa t a 1 .nothing false with
        | .ok (bs, _) => leNat bs
        | .error _ => 0
    let v := old - old / 2 ^ (bit % 8) % 2 ^ w * 2 ^ (bit % 8) + code * 2 ^ (bit % 8)
    Assoc.put m a (BitVec.ofNat 8 v)

/-- The runs of consecutive addresses of an image. -/
def runs (m : Image) : List (Nat × List Byte) :=
  m.foldr (fun e acc => match acc with
    | (a, bs) :: r => if e.1 + 1 == a then (e.1, e.2 :: bs) :: r else (e.1, [e.2]) :: acc
    | [] => [(e.1, [e.2])]) []

/-- The image of a chunk: elements, and the scale of each group. -/
def State.chunkImage (s : State) (tid : Nat) (t : Task) (c : CopyWalk) (ks : List Nat) (gs : List (Nat × List Nat × Nat)) :
    Image :=
  let t := (Assoc.find s.tasks tid).getD t
  let m := (ks.zip (gs.flatMap fun g => g.2.1)).foldl (fun m x =>
    s.putCode t m (c.dst.bitOf c.enc (c.dstIndex x.1).toNat) c.enc.ty.width x.2) []
  if c.enc.blk == 0 then m
  else ((groupsOf ks.length c.block ks).zip gs).foldl (fun m x =>
    match x.1 with
    | [] => m
    | k :: _ =>
      let (a, bs) := c.dst.scaleBytes c.enc (c.dstIndex k).toNat k x.2.1
      bs.zipIdx.foldl (fun m e => Assoc.put m (a + e.2) e.1) m) m

/-- Write the bytes of a chunk, by address, and go on to the next, or retire after the last. A write into a reservation is held: the
chunk stands with its bytes, and lands unchanged once the reservation has ended (R221). A translation that is lost meanwhile is met
as any other. -/
def State.landChunk (s : State) (tid : Nat) (o : EngOp) (k : Chunk) : State :=
  match Assoc.find s.tasks tid with
  | none => s
  | some t =>
    if k.bytes.any fun r => s.rangeHeld t r.1 r.2.length then
      (s.holdOp tid o.uid).modTask tid (·.modOp o.uid fun o => { o with kept := some k })
    else
      let (s, f) : State × Option EngFault := match o.job with
        | .mdld _ _ _ => (k.bytes.foldl (fun (s : State) (r : Nat × List Byte) => s.writeVa tid r.1 r.2 false) s, none)
        | _ => s.writeAll tid t k.bytes
      match f with
      | some f => s.faultOp tid o f o.pos
      | none =>
        let o := { o with pos := o.pos + 1, lossy := o.lossy + k.lossy, kept := none, held := false,
                          job := if k.last then .none else o.job }
        let s := s.modTask tid fun t => t.modOp o.uid fun _ => o
        if k.last then s.retireOp tid o else s

/-- Move one destination chunk of a copy (R274). -/
def State.copyStep (s : State) (tid : Nat) (t : Task) (o : EngOp) (c : CopyWalk) : State :=
  let total := c.src.count
  let lo := o.pos * c.chunkLen
  if total ≤ lo then s.retireOp tid o
  else
    let ks := (List.range (min c.chunkLen (total - lo))).map (lo + ·)
    match s.readElems tid t c ks with
    | (s, .error f) => s.faultOp tid o f o.pos
    | (s, .ok es) => match s.touchDst tid t c ks with
      | (s, some f) => s.faultOp tid o f o.pos
      | (s, none) =>
        let n := c.block
        let gs := ((groupsOf ks.length n ks).zip (groupsOf es.length n es)).map fun x => c.group t.wid o x.1 x.2
        s.landChunk tid o { bytes := runs (s.chunkImage tid t c ks gs), lossy := (gs.map fun g => g.2.2).sum,
                            last := decide (total ≤ lo + c.chunkLen) }

/-- The next step of a copy: an empty one completes without an access (R48). -/
def State.copyNext (s : State) (tid : Nat) (t : Task) (o : EngOp) (x y : Tensor) (tr sat : Bool) (rnd : Nat) : State :=
  if x.count == 0 then s.retireOp tid o
  else match s.writeEnc tid t y, Rnd.ofCode rnd with
    | .ok e, some r => s.copyStep tid t o { src := x, dst := y, trans := tr, enc := e, rnd := r, sat := sat }
    | .error f, _ => s.faultOp tid o f o.pos
    | _, none => s.faultOp tid o (EngFault.at_ 1 0) 0

/-- Move one 4 KiB chunk of an `mdld` (R278). -/
def State.mdldStep (s : State) (tid : Nat) (t : Task) (o : EngOp) (src dst len : Nat) : State :=
  let lo := 4096 * o.pos
  let n := min 4096 (len - lo)
  match s.engineRead tid t (src + lo) n with
  | .error f => s.faultOp tid o f o.pos
  | .ok bs =>
    (s.keepVa t (src + lo) n).landChunk tid o
      { bytes := [(windowAddr (0x140000 + dst + lo), bs)], lossy := 0, last := decide (len ≤ lo + n) }

/-- The copy engine moves one chunk of a task's operation. -/
def State.copyEngine (s : State) (tid : Nat) : State :=
  match Assoc.find s.tasks tid with
  | none => s
  | some t =>
    match if s.moves t then t.running .copy else none with
    | none => s
    | some o =>
      if o.fault.isSome then s.retireOp tid o
      else s.tryStep tid t o fun s => match o.kept with
        | some k => s.landChunk tid o k
        | none => match o.job with
          | .copy x xl y yl tr sat rnd => s.copyNext tid t o { tsr := x, tlr := xl } { tsr := y, tlr := yl } tr sat rnd
          | .mdld src dst len => s.mdldStep tid t o src.toNat dst len
          | _ => s.retireOp tid o

/-- `COPY_CHUNK` (R274). -/
def execCopyChunk (t : Nat) (s : State) : Host.Outcome State Fault Refusal := .next (s.copyEngine t)

end Sys2Proof.Machine
end

