-- ==== Sys2Proof/Machine/Mma.lean ====
section
/-! DEFINITION. The MMA group: products, batches and joins (R218 to R223, R229 to R232). -/

namespace Sys2Proof.Machine

/-- Whether two selectors are an A and a B that multiply under a shape, for the kind of product (R229). -/
def selectorsMatch (shape : Word) (sparse : Bool) (a b : Desc) : Bool :=
  !a.side && b.side && a.ty.width == b.ty.width && gangOf a.ty == gangOf b.ty && a.blk == b.blk &&
  128 / a.ty.width == shapeK0 shape && a.sparse == sparse

/-- The planned time of a product in m: its depth times the chunk time with the lots held (R200, R219). -/
def Task.plannedTime (t : Task) (a : Desc) (depth : Nat) : Nat :=
  depth * chunkTime (shapeM t.shape) (shapeN t.shape) (shapeK0 t.shape) (cellsPerMac ((gangOf a.ty).getD 2))
    (t.lots + t.leaving)

/-- A product as it issues. -/
def Task.product (t : Task) (q : Seq) (uid t0 : Nat) (a b : Selector) (depth : Nat) (sparse : Bool) : MatOp :=
  { uid := uid, t0 := t0, a := a, b := b, depth := depth, sparse := sparse, m := shapeM t.shape, n := shapeN t.shape,
    k0 := shapeK0 t.shape, done := 0, skew := false, poison := false, after := (t.sq q).holders [.eng] }

/-- The checks of R229 after the selectors, in order. -/
def Task.productTrap (t : Task) (o : MatOp) (sync : Bool) : Option Trap :=
  let blk := o.a.desc.blk
  let plan := t.plannedTime o.a.desc o.depth
  if t.tt.accd < o.t0 + blockTiles o.m o.n then some (Trap.matrix 3)
  else if o.depth == 0 || (blk != 0 && o.logical % blockLen blk != 0) || o.a.cur != o.b.cur || decide (4096 < plan) ||
      (!sync && decide (4096 < t.openBatch.planned + plan)) then some (Trap.matrix 4)
  else if sync && o.tiles.any t.tileBusy then some Trap.busy
  else if o.mdRanges.any fun r => decide (4096 * t.tt.mdd < r.2) then
    some { Trap.ofClass 6 with addr := windowAddr (0x140000 + 4096 * t.tt.mdd) }
  else none

/-- Advance the cursors of a product's selectors (R218). -/
def Task.advanceSel (t : Task) (a b dk : Nat) : Task :=
  let step (m : Assoc Selector) (n : Nat) : Assoc Selector := Assoc.modify m n fun x => { x with cur := x.cur + dk }
  { t with selectors := step (step t.selectors a) b }

/-- A product checked at its issue, in the order of R229. -/
def Task.checkProduct (t : Task) (q : Seq) (uid t0 : Nat) (a b : Fin 4) (depth : Nat) (sparse sync : Bool) :
    Except Trap MatOp :=
  if shapeWidth t.shape == 7 || t.lots + t.leaving == 0 then .error (Trap.matrix 5)
  else match Assoc.find t.selectors a.val, Assoc.find t.selectors b.val with
    | some x, some y =>
      if !selectorsMatch t.shape sparse x.desc y.desc then .error (Trap.matrix 2)
      else
        let o := t.product q uid t0 x y depth sparse
        match t.productTrap o sync with
        | some e => .error e
        | none => .ok o
    | _, _ => .error (Trap.matrix 2)

/-- The tiles an issuing product names: those it waits for while a synchronous write of one is pending. -/
def Task.productTiles (t : Task) (t0 : Nat) : List Nat :=
  if shapeWidth t.shape == 7 then [] else (List.range (blockTiles (shapeM t.shape) (shapeN t.shape))).map (t0 + ·)

/-- An asynchronous product joins the open batch (R219, R229). -/
def State.joinBatch (s : State) (w : Stall) (d : Fin 32) (a b : Fin 4) (n : BitVec 12) (sparse : Bool) :
    Host.Outcome State Fault Refusal :=
  s.accIssue w (scalars []) [d.val] [] [a.val, b.val] fun s tid q t =>
    if (t.productTiles d.val).any t.tilePending then .hold s .interlock
    else match t.checkProduct q s.uid d.val a b n.toNat sparse false with
      | .error e => .trap s e
      | .ok o =>
        let plan := t.plannedTime o.a.desc o.depth
        .done (s.newUid.2.modTask tid fun t =>
          { t.advanceSel a.val b.val o.logical with
              openBatch := { t.openBatch with ops := t.openBatch.ops ++ [o], planned := t.openBatch.planned + plan } })

/-- `mmaa accT, moA, moB, depth` (R229). -/
def execMmaa (w : Stall) (d : Fin 32) (a b : Fin 4) (n : BitVec 12) (s : State) : Host.Outcome State Fault Refusal :=
  s.joinBatch w d a b n false

/-- `mmas accT, moA, moB, depth` (R229, R210, R211). -/
def execMmas (w : Stall) (d : Fin 32) (a b : Fin 4) (n : BitVec 12) (s : State) : Host.Outcome State Fault Refusal :=
  s.joinBatch w d a b n true

/-- `mma accT, moA, moB, depth` (R229): it blocks until its group steps are added; a skew is then a trap of class 11 with the
saved PC past it (R222). -/
def execMma (w : Stall) (d : Fin 32) (a b : Fin 4) (n : BitVec 12) (s : State) : Host.Outcome State Fault Refusal :=
  s.accIssue w (scalars []) [d.val] [] [a.val, b.val] fun s tid q t =>
    match t.sync with
    | some m =>
      if !m.op.finished then .wait s .mcommit
      else
        let s := s.modTask tid fun t => { t with sync := none }
        if m.op.skew then
          .over ((s.complete tid q w ((t.sq q).nextPc q)).takeTrap tid q { Trap.ofClass 11 with words := false })
        else .done s
    | none =>
      if (t.productTiles d.val).any t.tilePending then .hold s .interlock
      else match t.checkProduct q s.uid d.val a b n.toNat false true with
        | .error e => .trap s e
        | .ok o =>
          .wait (s.newUid.2.modTask tid fun t =>
            { t.advanceSel a.val b.val o.logical with sync := some { op := o, stall := w.val, detached := false } }) .mcommit

/-- `mcommit lcN` (R230). -/
def execMcommit (w : Stall) (d : Fin 4) (s : State) : Host.Outcome State Fault Refusal :=
  s.accIssue w (scalars [.lc d]) [] [] [] fun s tid q t =>
    if 8 ≤ t.batches.length then .wait s .mcommit
    else .done ((s.modTask tid (·.commit)).result tid q 1 (.lc d) ((t.batchCtr + 1).setWidth 64))

/-- Whether a batch number follows a counter (R412). -/
def numberAhead (ctr : BitVec 32) (n : Word) : Bool := follows ctr (n.setWidth 32)

/-- Whether every batch numbered up to `n` has retired; number 0 has (R219, R412). -/
def Task.batchRetired (t : Task) (n : BitVec 32) : Bool :=
  !t.batches.any fun b => match b.num with
    | some k => covered t.batchCtr k n
    | none => false

/-- `mwait lcN` (R231). It notes the last batch joined, which the image holds (R223). -/
def execMwait (w : Stall) (a : Fin 4) (s : State) : Host.Outcome State Fault Refusal :=
  s.accIssue w (scalars [.lc a]) [] [] [] fun s tid q t =>
    let v := (t.sq q).rd (.lc a)
    let n := v.setWidth 32
    if numberAhead t.batchCtr v then .trap s (Trap.matrix 6)
    else if !t.batchRetired n then .wait s .mwait
    else match oldestFault (t.faults.filter fun u => u.engine.isNone && covered t.batchCtr u.num n) with
      | some u => .trap (s.modTask tid (·.reported u)) u.trap
      | none => .done (s.modTask tid fun t =>
          if !joinedAlready t.batchCtr n && precedes t.batchJoined n then { t with batchJoined := n } else t)

/-- `mpoll pd, lcN` (R232). -/
def execMpoll (w : Stall) (d : Fin 16) (a : Fin 4) (s : State) : Host.Outcome State Fault Refusal :=
  s.accIssue w (fun _ => [.p d.val, .s (SReg.lc a).code]) [] [] [] fun s tid q t =>
    let v := (t.sq q).rd (.lc a)
    if numberAhead t.batchCtr v then .trap s (Trap.matrix 6)
    else .done (s.predResult tid 1 d.val (BitVec.allOnes 1024)
      (if t.batchRetired (v.setWidth 32) then BitVec.allOnes 1024 else 0))

end Sys2Proof.Machine
end

