-- ==== Sys2Proof/Machine/Gemv.lean ====
section
/-! DEFINITION. The GEMV group (R212, R213, R239 to R241), and the retirement of its operations. -/

namespace Sys2Proof.Machine

/-! ### The fork (R239, R240) -/

/-- The stack a virtual address of a task lies on, or why not. -/
def State.stackAt (s : State) (t : Task) (va : Nat) : Except EngFault Nat :=
  match s.resolve t va .read with
  | .ok (.phys pa _) => if isHostPa pa then .error (EngFault.at_ 8 va) else .ok (stackOf pa)
  | .ok _ => .error (EngFault.at_ 8 va)
  | .error w => .error (EngFault.ofRefuse w va)

/-- Why the tiles of a tensor do not all lie on one stack. -/
def State.reachFault (s : State) (t : Task) (x : Tensor) : Option EngFault :=
  let addr (k : Nat) : Nat := tsrBase x.tsr + 65536 * k
  let first := s.stackAt t (addr 0)
  match first with
  | .error f => some f
  | .ok d => (List.range (tlrNtile x.tlr)).findSome? fun k =>
    match s.stackAt t (addr k) with
    | .error f => some f
    | .ok e => if e == d then none else some (EngFault.at_ 8 (addr k))

/-- The value fields of a GEMV block. -/
def gemvXoff (w : List Word) : Nat := field w 831 812
def gemvYoff (w : List Word) : Nat := field w 811 792
def gemvXtype (w : List Word) : Nat := field w 775 771
def gemvYf32 (w : List Word) : Bool := field w 770 770 == 1
def gemvRnd (w : List Word) : Nat := field w 769 767

/-- The Reach and Alignment conditions of R239 on the vector operands. -/
def gemvOperandFault (tt : TaskType) (w : List Word) (x : Tensor) : Option EngFault :=
  let e0 := tsrExt x.tsr 0
  let e1 := tsrExt x.tsr 1
  let yw := if gemvYf32 w then 4 else 8
  if tsrRank x.tsr != 2 then some (EngFault.at_ 8 0)
  else if gemvXoff w % 16 != 0 || gemvYoff w % 16 != 0 then some (EngFault.at_ 2 0)
  else match NumType.ofCode (gemvXtype w) with
    | none => some (EngFault.at_ 8 0)
    | some ty =>
      if (gangOf ty).isNone || decide (32768 * tt.spd < gemvXoff w + ceilDiv (e0 * ty.width) 8) ||
        decide (32768 * tt.spd < gemvYoff w + e1 * yw) then some (EngFault.at_ 8 0) else none

/-- The job of a GEMV block, or the fault that ends it at the fork. A GEMV operation never takes cause 16: one whose record, or the TLB
entry of A, is poisoned retires with no effect, and a machine check is noted (DESIGN CHOICE, assumption 67). One whose A has an FMT with no
gang width runs: the spec checks XTYPE alone (DESIGN CHOICE, assumption 62). -/
def State.gemvJob : TakeJob := fun s tid t w =>
  if blockBad w 2 || field w 1023 896 != 0 || field w 765 512 != 0 || 5 ≤ gemvRnd w then
    (s, .none, some (EngFault.at_ 1 0))
  else match s.takeTensor tid (BitVec.ofNat 64 (field w 895 832)) with
    | (s, .error f) =>
      if f.cause == 16 then
        let (code, addr) := (s.recordPoison tid t f.addr.toNat).getD (9, f.addr.toNat)
        (s.noteCheck tid code addr, .none, none)
      else (s, .none, some f)
    | (s, .ok x) =>
      let job : EngJob := .gemv x.tsr x.tlr (gemvXoff w) (gemvYoff w) (signed 16 (field w 791 776)) (gemvXtype w)
        (gemvYf32 w) (gemvRnd w) (field w 766 766 == 1)
      match gemvOperandFault t.tt w x with
      | some f => (s, .none, some f)
      | none => match s.reachFault t x with
        | some f =>
          if f.cause == 16 then (s.noteCheck tid (s.entryPoison t f.addr.toNat .read) f.addr.toNat, .none, none)
          else (s, .none, some f)
        | none => (s, job, none)

/-- `gemvgo lcN, off` (R240). -/
def execGemvgo (w : Stall) (d : Fin 4) (o : BitVec 12) (s : State) : Host.Outcome State Fault Refusal :=
  s.accIssue w (scalars [.lc d]) [] [] [] fun s tid q t =>
    let off := 256 * o.toNat
    match blockTrap t off with
    | some e => .trap s e
    | none =>
      if 4 ≤ (t.gemvCtr - t.gemvJoined).toNat then .hold s .gemvwait
      else
        let n := t.gemvCtr + 1
        let (uid, s) := s.newUid
        let op := EngOp.new uid .gemv q n (some off) (.pending off) []
        .done (((s.modTask tid fun t => { t with gemvCtr := n }).forkOp tid q t op State.gemvJob).result tid q 1 (.lc d)
          (n.setWidth 64))

/-! ### The base die (R203, R205, R212, R213) -/

/-- The elements of one row of A with their encoding. A poisoned sector makes its elements NaN. -/
def State.gemvRow (s : State) (tid : Nat) (t : Task) (x : Tensor) (i : Nat) :
    List Nat → State × Except EngFault (List (Enc × Ext))
  | [] => (s, .ok [])
  | j :: r =>
    let tup := [j, i]
    match s.readElem tid t x (x.linear tup) (x.walkIndex tup) with
    | (s, .error f) =>
      if f.cause == 16 then
        match State.gemvRow s tid t x i r with
        | (s, .ok l) => (s, .ok (({ ty := .e4m3, blk := 0 }, .nan) :: l))
        | (s, .error f) => (s, .error f)
      else (s, .error f)
    | (s, .ok e) =>
      match State.gemvRow s tid t x i r with
      | (s, .ok l) => (s, .ok ((e.enc, e.value) :: l))
      | (s, .error f) => (s, .error f)

/-- Element `j` of x; one of a poisoned sector is NaN (R213, R371). -/
def State.gemvX (s : State) (tid : Nat) (t : Task) (xoff xtype j : Nat) : Ext :=
  match NumType.ofCode xtype with
  | some ty =>
    let bit := 8 * xoff + j * ty.width
    if (s.poisonAt (.scratch tid (bit / 512 * 64))).isSome then .nan
    else valOf ty (leNat (readBytes t.spad (bit / 8) (max 1 (ty.width / 8))) / 2 ^ (bit % 8) % 2 ^ ty.width)
  | none => .zero

/-- The accumulator of one output: the groups of its row, in ascending order of j. -/
def gemvOutput (xexp : Int) (row : List (Enc × Ext)) (xs : List Ext) : Tile :=
  let len := match row.find? fun e => e.2 != .nan with
    | some (e, _) => if e.blk == 0 then 128 / e.ty.width else blockLen e.blk
    | none => 32
  let ps := row.zipWith (fun a x => a.2.mul x) xs
  (groupsOf ps.length len ps).foldl (fun x g => x.addStep g.length [(0, g)]) { Tile.start with x := xexp }

/-- Every output, in order. -/
def State.gemvOutputs (s : State) (tid : Nat) (t : Task) (x : Tensor) (xexp : Int) (xs : List Ext) :
    List Nat → State × Except EngFault (List Tile)
  | [] => (s, .ok [])
  | i :: r =>
    match s.gemvRow tid t x i (List.range (tsrExt x.tsr 0)) with
    | (s, .error f) => (s, .error f)
    | (s, .ok row) =>
      match State.gemvOutputs s tid t x xexp xs r with
      | (s, .ok l) => (s, .ok (gemvOutput xexp row xs :: l))
      | (s, .error f) => (s, .error f)

/-- The bytes of y. -/
def gemvBytes (t : Task) (n : BitVec 32) (yf32 : Bool) (rnd : Rnd) (sat : Bool) (ys : List Tile) : List Byte :=
  (numbered 0 ys).flatMap fun e =>
    if yf32 then toBytes 4 (e.2.convertWord .f32 rnd sat (engDraw t.wid 3 n.toNat e.1) 0) else toBytes 8 (e.2.word 0).toNat

/-- The outputs of a GEMV operation and their bytes: y of R212. -/
def EngOp.yRange (o : EngOp) : Option (Nat × Nat) :=
  match o.fault, o.job with
  | none, .gemv tsr _ _ yoff _ _ yf32 _ _ =>
    if tsrExt tsr 0 == 0 || tsrExt tsr 1 == 0 then none else some (yoff, yoff + tsrExt tsr 1 * (if yf32 then 4 else 8))
  | _, _ => none

/-- Whether a GEMV operation's writes are held: its y or its STATUS meets a reservation that is not its own (R221, R240). -/
def Task.gemvHeld (t : Task) (o : EngOp) : Bool :=
  let u := t.dropOp o
  (o.block.toList.map fun b => (b + 16, b + 24)) ++ o.yRange.toList |>.any fun r => u.spadReserved r.1 r.2

/-- The GEMV operations that run, or that their fork ended, oldest first. -/
def Task.gemvs (t : Task) : List EngOp := t.eng.filter fun o => o.engine == .gemv && (o.started || o.fault.isSome)

/-- A GEMV operation writes y in one step and retires (R240); one on an empty A makes no access (R48). -/
def State.gemvFinish (s : State) (tid : Nat) (t : Task) (o : EngOp) : State :=
  match o.yRange, o.job with
  | some _, .gemv tsr tlr xoff yoff xexp xtype yf32 rnd sat =>
    let xs := (List.range (tsrExt tsr 0)).map (s.gemvX tid t xoff xtype)
    match s.gemvOutputs tid t { tsr := tsr, tlr := tlr } xexp xs (List.range (tsrExt tsr 1)) with
    | (s, .error f) => s.faultOp tid o f 0
    | (s, .ok ys) =>
      let bs := gemvBytes t o.num yf32 ((Rnd.ofCode rnd).getD .rne) sat ys
      ((s.writeVa tid (windowAddr yoff) bs false).retireOp tid o).tickStore tid
  | _, _ => s.retireOp tid o

/-- The oldest GEMV operation whose writes are not held retires. -/
def State.gemvRetire (s : State) (tid : Nat) : State :=
  match Assoc.find s.tasks tid with
  | none => s
  | some t =>
    if !s.moves t then s
    else match t.gemvs.find? fun o => !t.gemvHeld o with
      | some o => s.tryStep tid t o fun s => s.gemvFinish tid t o
      | none => t.gemvs.foldl (fun s o => s.holdOp tid o.uid) s

/-- `GEMV_RETIRE` (R240). -/
def execGemvRetire (t : Nat) (s : State) : Host.Outcome State Fault Refusal := .next (s.gemvRetire t)

/-! ### The join (R241) -/

/-- `gemvwait lcN` (R241). -/
def execGemvwait (w : Stall) (a : Fin 4) (s : State) : Host.Outcome State Fault Refusal :=
  s.accIssue w (scalars [.lc a]) [] [] [] fun s tid q t =>
    let v := (t.sq q).rd (.lc a)
    let n := v.setWidth 32
    if numberAhead t.gemvCtr v then .trap s (Trap.matrix 6)
    else match s.join tid t (fun e _ => e == .gemv) t.gemvCtr n .gemvwait with
      | .done s => .done (s.modTask tid fun t =>
          if !joinedAlready t.gemvCtr n && precedes t.gemvJoined n then { t with gemvJoined := n } else t)
      | e => e

end Sys2Proof.Machine
end

