-- ==== Sys2Proof/Machine/Meas.lean ====
section
/-! DEFINITION. The MEAS group (R279 to R283) and the retirement of histogram operations. -/

namespace Sys2Proof.Machine

/-! ### Histograms (R67, R279, R280) -/

/-- The job of a histogram block, or the fault that ends it at the fork: the PSR's HBASE for a governed record, else the
block's. -/
def State.histJob : TakeJob := fun s tid _ w =>
  if blockBad w 1 || field w 1023 585 != 0 then (s, .none, some (EngFault.at_ 1 0))
  else match s.takeTensor tid (BitVec.ofNat 64 (field w 575 512)) with
    | (s, .error f) => (s, .none, some f)
    | (s, .ok x) =>
      let base : Int := if isGoverned x.tlr then (s.psr (psrKey (tlrLayer x.tlr) (tlrRole x.tlr))).hbase
        else signed 9 (field w 584 576)
      (s, .hist x.tsr x.tlr base, none)

/-- `hist xd, xa` (R279). -/
def execHist (w : Stall) (d a : SReg) (s : State) : Host.Outcome State Fault Refusal :=
  s.issue w (scalars [d, a]) fun s tid q t =>
    let off := ((t.sq q).rd a).toNat
    match blockTrap t off with
    | some e => .trap s e
    | none =>
      if t.forkBlocked q then .hold s .cewait else .done (s.fork tid q t d .hist off State.histJob)

/-- The bin of an exact value: zeros and NaNs are not counted, an infinity counts in bin 31 (R67, R279). -/
def binOf (base : Int) (v : Ext) : Option Nat :=
  match v with
  | .nan => none
  | .inf _ => some 31
  | .fin _ m e => if m == 0 then none else some (clampInt 0 31 (topExp m e - base)).toNat

/-- Count elements from walk position `k` on, `n` of them. -/
def State.countBins (fuel : Nat) (s : State) (tid : Nat) (t : Task) (x : Tensor) (base : Int) (k : Nat) (h : Assoc Nat) :
    State × Except EngFault (Assoc Nat) :=
  match fuel with
  | 0 => (s, .ok h)
  | fuel + 1 =>
    match s.readElem tid t x (x.linear (x.tuple k)) k with
    | (s, .error f) =>
      let w := match NumType.ofCode (tlrFmt x.tlr) with
        | some t => t.width
        | none => 8
      (s, .error { f with fchk := k * w / 32768 })
    | (s, .ok e) =>
      let h := match binOf base e.value with
        | some b => Assoc.set 0 h b (Assoc.get 0 h b + 1)
        | none => h
      State.countBins fuel s tid t x base (k + 1) h

/-- A histogram operation adds its counts to the core histogram, and a governed one to the role histogram, and retires. -/
def State.histEngine (s : State) (tid : Nat) : State :=
  match Assoc.find s.tasks tid with
  | none => s
  | some t =>
    match if s.moves t then t.running .hist else none with
    | none => s
    | some o =>
      if o.fault.isSome then s.retireOp tid o
      else s.tryStep tid t o fun s => match o.job with
        | .hist tsr tlr base =>
          let x : Tensor := { tsr := tsr, tlr := tlr }
          match s.countBins x.count tid t x base 0 [] with
          | (s, .error f) => s.faultOp tid o f f.fchk
          | (s, .ok h) =>
            match o.block with
            | some b =>
              if t.spadReserved (b + 16) (b + 24) then s.holdOp tid o.uid
              else
                let s := s.modTask tid fun t => { t with hist := addBins t.hist h }
                let k := psrKey (tlrLayer tlr) (tlrRole tlr)
                let s := if isGoverned tlr then
                    { s with roleHist := Assoc.set [] s.roleHist k (addBins (Assoc.get [] s.roleHist k) h) }
                  else s
                s.retireOp tid o
            | none => s.retireOp tid o
        | _ => s.retireOp tid o

/-- `HIST_RETIRE` (R279). -/
def execHistRetire (t : Nat) (s : State) : Host.Outcome State Fault Refusal := .next (s.histEngine t)

/-- `histrd xd, bin, clr` (R280). -/
def execHistrd (w : Stall) (d : SReg) (n : Fin 32) (z : Bool) (s : State) : Host.Outcome State Fault Refusal :=
  s.issue w (scalars [d]) fun s tid q t =>
    let v := Assoc.get 0 t.hist n.val
    let s := if z then s.modTask tid fun t => { t with hist := Assoc.set 0 t.hist n.val 0 } else s
    .done (s.result tid q 1 d (v.setWidth 64))

/-! ### The weighmaster (R64, R66, R68, R281 to R283) -/

/-- The layer and role xa names (R281). -/
def layerOf (x : Word) : Nat := bits x.toNat 15 0
def roleOf (x : Word) : Nat := bits x.toNat 18 16

/-- Whether a role names no PSR. -/
def roleBad (r : Nat) : Bool := r == 0 || 6 ≤ r

/-- The word of `gvget`: what a launch captured of a PSR (R64). -/
def Psr.capturedWord (p : Psr) (epoch : BitVec 32) : Word :=
  match p.captured epoch with
  | some h => BitVec.ofNat 64 (h.gen.toNat * 2 ^ 32 + p.rsclAt epoch * 2 ^ 24 + h.width * 2 ^ 22 + h.blk * 2 ^ 20 + h.fmt * 2 ^ 15)
  | none => 0

/-- `gvget xd, xa` (R281). -/
def execGvget (w : Stall) (d a : SReg) (s : State) : Host.Outcome State Fault Refusal :=
  s.issue w (scalars [d, a]) fun s tid q t =>
    let x := (t.sq q).rd a
    if roleBad (roleOf x) then .trap s (Trap.ofClass 2)
    else .done (s.interlock tid q d ((s.psr (psrKey (layerOf x) (roleOf x))).capturedWord (s.lrec t.lr).epoch))

/-- `gvrep xd, xa, xb` (R282): D is a source. -/
def execGvrep (w : Stall) (d a b : SReg) (s : State) : Host.Outcome State Fault Refusal :=
  s.issue w (scalars [d, a, b]) fun s _ q t =>
    let x := (t.sq q).rd a
    let y := (t.sq q).rd b
    if roleBad (roleOf x) then .trap s (Trap.ofClass 2)
    else .done (s.report t.die (psrKey (layerOf x) (roleOf x)) (y.setWidth 32) (BitVec.ofNat 32 (y.toNat / 2 ^ 32))
      (((t.sq q).rd d).setWidth 32))

/-- The word of `gvstep`. -/
def State.stepWord (s : State) (completing : Bool) : Word :=
  BitVec.ofNat 64 ((if completing then 2 ^ 63 else 0) + s.epoch.toNat)

/-- `gvstep xd` (R68, R283). `gvDone` notes a completing arrival: 0 while its evaluation is due, 1 once it has ended. DESIGN CHOICE
(assumption 87): a `gvstep` that a trap handler executes while the stream's completing one is abandoned in its wait takes that
completion, and the stream's own counts its arrival when it issues again. -/
def execGvstep (w : Stall) (d : SReg) (s : State) : Host.Outcome State Fault Refusal :=
  s.issue w (scalars [d]) fun s tid q t =>
    match t.gvDone with
    | some v =>
      if v = 0 then .wait s .gvstep
      else .done ((s.modTask tid fun t => { t with gvDone := none }).result tid q 1 d (s.stepWord true))
    | none =>
      let c := (s.lrec t.lr).gclass
      let due := (s.govClass c).due.length
      let s := s.arrive c (some tid)
      if due < (s.govClass c).due.length then .wait (s.modTask tid fun t => { t with gvDone := some 0 }) .gvstep
      else .done (s.result tid q 1 d (s.stepWord false))

end Sys2Proof.Machine
end

