-- ==== Sys2Proof/Machine/Forks.lean ====
section
/-! DEFINITION. The forks that have not taken their copies: each takes them when what it follows is performed (R285, R297). -/

namespace Sys2Proof.Machine

/-- What an engine makes of a command block. -/
def engineJob : Engine → TakeJob
  | .copy => State.copyJob
  | .hist => State.histJob
  | .gemv => State.gemvJob
  | .tmu => State.walkJob

/-- The first fork of a sequencer that can take its copies, with its operation. A walk that has been disarmed meanwhile leaves a
barrier without one. -/
def Task.forkDue (t : Task) (q : Seq) : Option (Barrier × Option EngOp) :=
  ((t.sq q).barriers.find? fun b => b.fork.isSome && t.clear b.preds).map fun b => (b, t.eng.find? fun o => b.fork == some o.uid)

/-- A fork of a sequencer takes its copies, and its barrier goes. -/
def State.takeFork (s : State) (tid : Nat) (q : Seq) : State :=
  match (Assoc.find s.tasks tid).bind (·.forkDue q) with
  | none => s
  | some (b, o) =>
    match o.elim (some s) fun o => s.takeCopies tid o (engineJob o.engine) with
    | some s => s.modSq tid q fun x => { x with barriers := x.barriers.filter fun c => c.id != b.id }
    | none => s

/-- The forks of a task that can take their copies do, sequencer by sequencer. -/
def State.takeForks (s : State) (tid : Nat) : State :=
  Seq.all.foldl (fun s q =>
    let n := ((Assoc.find s.tasks tid).map fun t => (t.sq q).barriers.length).getD 0
    (List.range n).foldl (fun s _ => s.takeFork tid q) s) s

end Sys2Proof.Machine
end

