-- ==== Sys2Proof/Machine/Sys.lean ====
section
/-! DEFINITION. The SYS group: `nop`, `trap`, `rft`, `brk`, `tend`, `srd`, `swr` and `imgcut` (R155, R156, R391 to R396). -/

namespace Sys2Proof.Machine

/-- `nop` (R155). -/
def execNop (w : Stall) (s : State) : Host.Outcome State Fault Refusal :=
  s.issue w (scalars []) fun s _ _ _ => .done s

/-- `trap code` (R391). -/
def execTrap (w : Stall) (code : BitVec 6) (s : State) : Host.Outcome State Fault Refusal :=
  s.issue w (scalars []) fun s _ _ _ => .trap s { Trap.ofClass 1 with info := code.toNat }

/-- The generators whose fault the handler has met walk on from the operand that faulted (R262). -/
def Task.resumeGens (t : Task) : Task :=
  { t with gens := t.gens.map fun e => if e.2.raised then (e.1, { e.2 with halt := none, raised := false }) else e }

/-- Whether a write of the handler's own is pending (R394). -/
def SeqState.handlerPending (x : SeqState) : Bool := !x.late.isEmpty || x.ilk.any (·.handler)

/-- `rft` (R394): outside handler mode it takes the illegal-instruction fate. S does not delay the resumed stream: its clock runs
on from its stopped value (R152). -/
def execRft (w : Stall) (s : State) : Host.Outcome State Fault Refusal :=
  s.issue w (scalars []) fun s tid _ t =>
    match t.handler with
    | none => .fate s (Trap.ofClass 2)
    | some h =>
      if t.kq.handlerPending then .wait s .rft
      else .over (s.modTask tid fun t => (t.leaveHandler h).resumeGens)

/-- `brk` (R395): the instruction completes, so the saved PC names the next, and the cut begins. -/
def execBrk (w : Stall) (s : State) : Host.Outcome State Fault Refusal :=
  s.issue w (scalars []) fun s tid q t => .over ((s.complete tid q w ((t.sq q).nextPc q)).startCut tid .halt)

/-! ### `tend` (R156) -/

/-- A sequencer's pending writes are discarded (R156 step 2). -/
def SeqState.discard (x : SeqState) : SeqState := { x with late := [], ilk := [] }

/-- The entries of the store ports that a begun operand has taken (R156 step 2). -/
def Task.begunStores (t : Task) : Assoc (List SqEntry) :=
  (t.storePorts.filter fun e => (t.gen (4 + e.1)).busy).map fun e => (e.1, e.2.take 1)

/-- Steps 1 and 2 of R156; each generator is to stop as under `agstop`. An open batch is closed, so that its products finish and
report as a batch. -/
def Task.beginEnd (t : Task) : Task :=
  let t := if t.openBatch.ops.isEmpty then t else t.commit
  let t := t.detachMma
  { t with life := .ending, ending := true, kq := t.kq.discard, lq := t.lq.stopped.discard, wq := t.wq.stopped.discard,
           cq := t.cq.stopped.discard, handler := t.handler.map fun h => { h with late := [] },
           loadPorts := [], storePorts := t.begunStores, gens := t.gens.map fun e => (e.1, e.2.stop) }

/-- What step 3 of R156 waits for: accesses, walks, engine operations, requests to the hub, and the actions of the pending
fences, which the signals of the retirement follow (R296). -/
def Task.busy (t : Task) : Bool :=
  !t.hubq.isEmpty || Seq.all.any fun q => (t.sq q).fencing || !(t.outstandingOf q 0b01111).isEmpty

/-- The rank of an engine in the order of R156 step 4. -/
def engineRank : Option Engine → Nat
  | some .copy => 0 | some .hist => 1 | some .gemv => 2 | some .tmu => 3 | none => 4

/-- Whether one unreported fault is reported before another at `tend` (R156 step 4). -/
def Unreported.before (a b : Unreported) : Bool :=
  let ra := engineRank a.engine
  let rb := engineRank b.engine
  ra < rb || (ra == rb && (a.seq < b.seq || (a.seq == b.seq && precedes a.num b.num)))

/-- The first of some unreported faults in an order. -/
def firstFault (before : Unreported → Unreported → Bool) : List Unreported → Option Unreported
  | [] => none
  | a :: r => match firstFault before r with
    | some b => if before b a then some b else some a
    | none => some a

/-- Step 5 of R156: memberships are dropped (R320), the task counts as arrived at its barriers (R323), its resources are
released, and its retirement is on its way to the CP (R399). -/
def State.retireTask (s : State) (tid : Nat) (t : Task) : State :=
  let s := t.members.foldl State.dropMember s
  let s := s.retireMember tid t.lr
  let s := s.removeTask tid
  { s with retirements := s.retirements ++ [{ lr := t.lr, arming := t.arming, hold := t.holdcnt.toNat }] }

/-- Steps 3 to 5 of R156: wait, report a fault, or retire. The skew of a synchronous product whose `mma` has been let go has no
number: it is reported after every other fault (DEDUCED, assumption 79). -/
def State.tendFrom (s : State) (tid : Nat) (t : Task) : Eff :=
  if t.busy then .wait s .tend
  else match firstFault Unreported.before t.faults with
    | some u => .trap (s.modTask tid (·.reported u)) u.trap
    | none =>
      if t.sync.isSome then
        .trap (s.modTask tid fun t => { t with sync := none }) { Trap.ofClass 11 with words := false }
      else .over (s.retireTask tid t)

/-- `tend` (R156). -/
def execTend (w : Stall) (s : State) : Host.Outcome State Fault Refusal :=
  s.issue w (scalars []) fun s tid _ t =>
    if t.life == .ending then s.tendFrom tid t
    else
      let s := (List.range 8).foldl (fun s g => s.endWalk tid g) ((s.withdraw tid).modTask tid Task.beginEnd)
      match Assoc.find s.tasks tid with
      | some t => s.tendFrom tid t
      | none => .over s

/-! ### System registers (R392, R393) -/

/-- The content of a system register. -/
def Task.sysReg (t : Task) (r : SysReg) : Word :=
  match r with
  | .srndcnt => BitVec.ofNat 64 t.srnd.toNat
  | .holdcnt => t.holdcnt
  | .evt => t.evt
  | .sto => BitVec.ofNat 64 t.sto.toNat
  | .imgseq => t.imgseq
  | .trec => t.trec | .tpck => t.tpck | .tpcl => t.tpcl | .tpcw => t.tpcw | .tpcc => t.tpcc
  | .taddr => t.taddr | .tinfo => t.tinfo | .tword => t.tword
  | r => BitVec.ofNat 64 (Assoc.get 0 t.opr (r.code - 4)).toNat

/-- A write of a system register (R393). -/
def Task.setSysReg (t : Task) (r : SysReg) (v : Word) : Task :=
  let saved (u : Task) : Task := if t.handler.isSome then u else t
  match r with
  | .evt => { t with evt := v }
  | .sto => { t with sto := BitVec.ofNat 32 v.toNat }
  | .tpck => saved { t with tpck := v &&& ~~~(3 : Word) }
  | .tpcl => saved { t with tpcl := v &&& ~~~(3 : Word) }
  | .tpcw => saved { t with tpcw := v &&& ~~~(3 : Word) }
  | .tpcc => saved { t with tpcc := v &&& ~~~(7 : Word) }
  | .srndcnt | .holdcnt | .imgseq | .trec | .taddr | .tinfo | .tword => t
  | r => { t with opr := Assoc.set 0 t.opr (r.code - 4) (BitVec.ofNat 32 v.toNat) }

/-- `srd xd, sr` (R393). -/
def execSrd (w : Stall) (d : SReg) (r : SysReg) (s : State) : Host.Outcome State Fault Refusal :=
  s.issue w (scalars [d]) fun s tid q t => .done (s.interlock tid q d (t.sysReg r))

/-- `swr sr, xa` (R393). -/
def execSwr (w : Stall) (a : SReg) (r : SysReg) (s : State) : Host.Outcome State Fault Refusal :=
  s.issue w (scalars [a]) fun s tid q t => .done (s.modTask tid (·.setSysReg r ((t.sq q).rd a)))

/-- `imgcut xd` (R396): the K-seq stands past it while the cut runs; the end of the cut writes xd. -/
def execImgcut (w : Stall) (d : SReg) (s : State) : Host.Outcome State Fault Refusal :=
  s.issue w (scalars [d]) fun s tid q t =>
    .over ((s.complete tid q w ((t.sq q).nextPc q)).startCut tid (.image d.code))

end Sys2Proof.Machine
end

