-- ==== Sys2Proof/Machine/Work.lean ====
section
/-! DEFINITION. The WORK group: records, queues and identity (R168 to R170), and `WQPOP_SERVED` (R89). -/

namespace Sys2Proof.Machine

/-! ### Requests to the hub (R154, R168, R169) -/

/-- Send a request of a K-seq to the hub: it joins those on their way, and its destination is pending until its result
returns (R150). -/
def State.hubSend (s : State) (tid : Nat) (q : Seq) (d : SReg) (req : HubReq) (after : List Nat) : State :=
  let (uid, s) := s.newUid
  (s.interlockOn tid q d uid).modTask tid fun t => { t with hubq := t.hubq ++ [{ uid := uid, req := req, after := after }] }

/-- The effect of a request when it arrives, and its result (R76 to R79, R168, R169). A queue that has passed to another context
since the issue check is left as it is. -/
def State.hubEffect (s : State) (ctx : Nat) (req : HubReq) : State × Word :=
  match req with
  | .patch lr word v => let (s, st) := s.patch lr ctx word v; (s, BitVec.ofNat 64 st)
  | .arm lr => let (s, st) := s.arm lr ctx; (s.runCp cpFuel, BitVec.ofNat 64 st)
  | .stat lr => (s, if (s.lrec lr).ctx == some ctx then BitVec.ofNat 64 (s.lrec lr).word28 else 15)
  | .push n v =>
    match if s.ownsQueue ctx n then Assoc.find s.queues n else none with
    | some k => if k.room then (s.queueAppend n v, 0) else (s, 1)
    | none => (s, 2)
  | .len n =>
    match if s.ownsQueue ctx n then Assoc.find s.queues n else none with
    | some k => (s, BitVec.ofNat 64 k.entries.length)
    | none => (s, 0)

/-- The oldest request of a task's K-seq, when everything it follows is complete. -/
def Task.hubReady (t : Task) : Option HubOp :=
  match t.hubq with
  | h :: _ => if t.clear h.after then some h else none
  | [] => none

/-- The oldest request of a task arrives at the hub, and its result returns. -/
def State.hubArrive (s : State) (tid : Nat) (t : Task) : State :=
  match t.hubReady with
  | none => s
  | some h =>
    let (s, v) := s.hubEffect t.ctx h.req
    s.modTask tid fun t => { t.modSq .k (·.arrived h.uid v) with hubq := t.hubq.drop 1 }

/-! ### Records (R168) -/

/-- `lpatch xd, xa, xb` (R168). -/
def execLpatch (w : Stall) (d a b : SReg) (s : State) : Host.Outcome State Fault Refusal :=
  s.issue w (scalars [d, a, b]) fun s tid q t =>
    let x := (t.sq q).rd a
    .done (s.hubSend tid q d (.patch (bits x.toNat 11 0) (bits x.toNat 20 16) ((t.sq q).rd b)) [])

/-- The `sts` stores of a sequencer that are not yet performed. -/
def SeqState.storesHeld (x : SeqState) : List Nat :=
  (x.held.filter fun h => h.acc.classes.contains .st).map (·.uid)

/-- `larm xd, xa` (R168): it follows its sequencer's fences (R296) and the `sts` stores before it. -/
def execLarm (w : Stall) (d a : SReg) (s : State) : Host.Outcome State Fault Refusal :=
  s.issue w (scalars [d, a]) fun s tid q t =>
    let x := t.sq q
    .done (s.hubSend tid q d (.arm (bits (x.rd a).toNat 11 0)) (x.fences ++ x.storesHeld))

/-- `lstat xd, xa` (R168). -/
def execLstat (w : Stall) (d a : SReg) (s : State) : Host.Outcome State Fault Refusal :=
  s.issue w (scalars [d, a]) fun s tid q t =>
    .done (s.hubSend tid q d (.stat (bits ((t.sq q).rd a).toNat 11 0)) [])

/-! ### Queues (R88, R89, R169) -/

/-- The address trap of a queue that is not the caller's. -/
def queueTrap (addr : Nat) : Trap := { Trap.ofClass 6 with addr := addr }

/-- Whether xa names a queue of the task's context. -/
def State.queueOk (s : State) (t : Task) (x : Word) : Bool := decide (x.toNat < 256) && s.ownsQueue t.ctx x.toNat

/-- `wqpush xd, xa, xb` (R169): it follows its sequencer's fences (R296). -/
def execWqpush (w : Stall) (d a b : SReg) (s : State) : Host.Outcome State Fault Refusal :=
  s.issue w (scalars [d, a, b]) fun s tid q t =>
    let x := t.sq q
    if !s.queueOk t (x.rd a) then .trap s (queueTrap 0)
    else .done (s.hubSend tid q d (.push (x.rd a).toNat (x.rd b)) x.fences)

/-- Take the oldest entry of a queue. -/
def State.queueTake (s : State) (n : Nat) : Option (Word × State) :=
  match Assoc.find s.queues n with
  | some k => match k.entries with
    | v :: rest => some (v, { s with queues := Assoc.put s.queues n { k with entries := rest, taken := k.taken + 1 } })
    | [] => none
  | none => none

/-- A task pops a fixed-latency queue: one of a persistent launch holds its die at nominal from now on (R13). -/
def State.popFixed (s : State) (tid : Nat) (t : Task) : State :=
  if t.fixedPop then s
  else
    let s := s.modTask tid fun t => { t with fixedPop := true }
    if (s.lrec t.lr).pers then s.beginHold t.die else s

/-- `wqpop xd, xa` (R88, R169): it arrives behind the requests its sequencer has sent; an entry the hub has removed for it
completes it; a poisoned entry is popped and raises class 15 (R376). -/
def execWqpop (w : Stall) (d a : SReg) (s : State) : Host.Outcome State Fault Refusal :=
  s.issue w (scalars [d, a]) fun s tid q t =>
    let x := t.sq q
    let n := (x.rd a).toNat
    match t.popped with
    | some (_, _, v) => .done ((s.modTask tid fun t => { t with popped := none }).result tid q 1 d v)
    | none =>
      if !s.queueOk t (x.rd a) then .trap s (queueTrap (if x.wait == some .wqpop then n else 0))
      else match Assoc.find s.queues n with
        | none => .trap s (queueTrap 0)
        | some k =>
          let s := if k.fixed then s.popFixed tid t else s
          if !t.hubq.isEmpty then .wait s .wqpop
          else if k.waiters.any (·.task == tid) then .wait s .wqpop
          else if k.waiters.isEmpty && !k.entries.isEmpty then
            match s.queueTake n with
            | some (v, s) =>
              match s.poisonAt (.wq n k.taken) with
              | some c =>
                .trap (s.clearPoison (.wq n k.taken)) { Trap.ofClass 15 with cspace := 6, cause := c, info := c, words := false }
              | none => .done (s.result tid q 1 d v)
            | none => .wait s .wqpop
          else
            let p : Popper := { task := tid, code := d.code, stall := w.val }
            .wait { s with queues := Assoc.put s.queues n { k with waiters := k.waiters ++ [p] } } .wqpop

/-- `wqlen xd, xa` (R169). -/
def execWqlen (w : Stall) (d a : SReg) (s : State) : Host.Outcome State Fault Refusal :=
  s.issue w (scalars [d, a]) fun s tid q t =>
    let x := (t.sq q).rd a
    if !s.queueOk t x then .trap s (queueTrap 0)
    else .done (s.hubSend tid q d (.len x.toNat) [])

/-- The hub serves the first waiting popper of a queue with its oldest entry, once the popper's die does not halt (R13, R89). A popper
of a fixed-latency queue holds its die from then on. -/
def State.servePopper (s : State) (n : Nat) : State :=
  match Assoc.find s.queues n with
  | none => s
  | some k =>
    match k.waiters, k.entries with
    | p :: ws, v :: es =>
      if (Assoc.find s.tasks p.task).any fun t => !s.moves t then s else
      let s := { s with queues := Assoc.put s.queues n { k with waiters := ws, entries := es, taken := k.taken + 1 } }
      let s := match s.poisonAt (.wq n k.taken) with
        | some c =>
          (s.clearPoison (.wq n k.taken)).takeTrap p.task .k
            { Trap.ofClass 15 with cspace := 6, cause := c, info := c, words := false }
        | none => s.modTask p.task fun t => { t with popped := some (p.code, p.stall, v) }
      match if k.fixed then Assoc.find s.tasks p.task else none with
      | some t => s.popFixed p.task t
      | none => s
    | _, _ => s

/-- `WQPOP_SERVED` (R89). -/
def execWqpopServed (queue : Nat) (s : State) : Host.Outcome State Fault Refusal := .next (s.servePopper queue)

/-! ### Identity (R170) -/

/-- Whether a job has a context bound on this package, and its die table. -/
def State.jobTable (s : State) (job : Nat) : Option (Assoc Nat) := (s.ctxs.find? fun e => e.2.job == job).map (·.2.vdies)

/-- `hops` of R170 between two places, for a task. -/
def State.hops (s : State) (t : Task) (x y : Nat) : Word :=
  let pa := bits x 8 3
  let pb := bits y 8 3
  let none_ : Word := BitVec.allOnes 64
  let job := match Assoc.find s.ctxs t.ctx with
    | some c => c.job
    | none => 0
  if s.domain ≤ pa || s.domain ≤ pb then none_
  else if pa == pb then
    if pa == s.pkgIndex then
      match s.physDie t.ctx (bits x 2 0), s.physDie t.ctx (bits y 2 0) with
      | some a, some b => if a == b then 0 else 1
      | _, _ => none_
    else match Assoc.find s.jobPkgs (65536 * job + pa) with
      | some table =>
        let va := table.getD (bits x 2 0) 8
        let vb := table.getD (bits y 2 0) 8
        if 8 ≤ va || 8 ≤ vb then none_ else if va == vb then 0 else 1
      | none => none_
  else
    let bound (p : Nat) : Bool := p == s.pkgIndex || Assoc.has s.jobPkgs (65536 * job + p)
    if bound pa && bound pb then BitVec.ofNat 64 (1 + Assoc.get 0 s.switches (64 * pa + pb)) else none_

/-- `hops xd, xa, xb` (R170). -/
def execHops (w : Stall) (d a b : SReg) (s : State) : Host.Outcome State Fault Refusal :=
  s.issue w (scalars [d, a, b]) fun s tid q t =>
    .done (s.interlock tid q d (s.hops t ((t.sq q).rd a).toNat ((t.sq q).rd b).toNat))

/-- `vdid xd` (R170). -/
def execVdid (w : Stall) (d : SReg) (s : State) : Host.Outcome State Fault Refusal :=
  s.issue w (scalars [d]) fun s tid q t =>
    .done (s.result tid q 1 d (BitVec.ofNat 64 (8 * s.pkgIndex + t.vdie)))

/-- `widf xd, idx` (R75, R170). -/
def execWidf (w : Stall) (d : SReg) (x : Fin 6) (s : State) : Host.Outcome State Fault Refusal :=
  s.issue w (scalars [d]) fun s tid q t =>
    .done (s.result tid q 1 d (BitVec.ofNat 64 ((s.lrec t.lr).widField t.wid.toNat x.val)))

/-- `tile xd` (R104, R170): the no-shape word on a core that is not in Normal service. -/
def execTile (w : Stall) (d : SReg) (s : State) : Host.Outcome State Fault Refusal :=
  s.issue w (scalars [d]) fun s tid q t =>
    .done (s.result tid q 1 d (if (s.core t.die t.core).mode == 0 then t.shape else noShape))

end Sys2Proof.Machine
end

