-- ==== Sys2Proof/Machine/Cut.lean ====
section
/-! DEFINITION. Cuts, images and resumption (R385 to R390, R395, R396). -/

namespace Sys2Proof.Machine

/-! ### What a cut waits for (R385 steps 2 to 5) -/

/-- Whether a held access of a task can still be performed: one on another task's tile waits for its peer, and one whose peer has
left its core, or whose Poisoned cause a handler holds back, travels in the image (DEDUCED, assumption 16). -/
def State.canPerform (s : State) (t : Task) (h : Held) : Bool :=
  t.clear h.after && (match h.acc with
    | .peer fn r _ => match s.peerOf t (refPid r) with
      | some (_, p) => p.resident && !(t.handler.isSome && atomicReads fn && (p.tile (refTile r)).psn)
      | none => true
    | _ => true)

/-- Whether a sequencer has an access or a fork that can still be performed, or a barrier that can still complete. What stands
behind a mark whose partner has not marked cannot, and travels in the image (DEDUCED, assumption 16). -/
def State.seqMoves (s : State) (t : Task) (q : Seq) : Bool :=
  let x := t.sq q
  x.held.head?.any (s.canPerform t) || x.peers.head?.any (s.canPerform t) || (t.forkDue q).isSome ||
  (t.fenceDue q).isSome || Seq.all.any fun d => (t.pairDue q d).isSome

/-- Whether a product of the task still runs (R223). -/
def Task.matrixRuns (t : Task) : Bool := t.reserving.any fun o => !o.finished

/-- Whether a GEMV operation has not retired (R240). -/
def Task.gemvRuns (t : Task) : Bool := t.eng.any fun o => o.engine == .gemv

/-- Whether a generator is inside an operand, or the tail of its walk stands held. -/
def Task.walksRun (t : Task) : Bool := t.gens.any fun e => e.2.busy || e.2.held

/-- Whether a task that is being cut can be saved now. -/
def State.cutReady (s : State) (t : Task) : Bool :=
  !(Seq.all.any (s.seqMoves t)) && t.hubReady.isNone && !t.matrixRuns && !t.gemvRuns && !t.walksRun

/-! ### Images (R386, R387) -/

/-- The place of a task's images (R387): the working die that follows its own, or host memory (8) when none does. -/
def State.imagePlace (s : State) (die : Nat) : Nat :=
  (((List.range 7).map fun k => (die + 1 + k) % 8).find? fun d => s.dieWorks d && d != die).getD 8

/-- The part of a context's image region at a place: its address and length (R387). -/
def State.imagePart (s : State) (ctx place : Nat) : Nat × Nat :=
  match (Assoc.find s.ctxs ctx).bind (·.image) with
  | some (addr, size, haddr, hsize) => if place == 8 then (haddr, hsize) else (addr + place * (size / 8), size / 8)
  | none => (0, 0)

/-- Whether a task's image can be completed: its context's image region has a part for it, every page of which is mapped (R387). -/
def State.imageFits (s : State) (t : Task) : Bool :=
  let (a, n) := s.imagePart t.ctx (s.imagePlace t.die)
  n != 0 && (List.range (ceilDiv n 65536)).all fun k => (s.hubPa t.ctx (a + 65536 * k) .nothing).isSome

/-- The bytes that an image of a task changes in its part of the image region: how many, which and to what are free, for the spec
gives the image no layout (DESIGN CHOICE, assumption 33). -/
def State.writeImage (s : State) (ctx place : Nat) : State :=
  let (a, n) := s.imagePart ctx place
  let at_ := Config.freeChoice s.fresh % max 1 n
  let len := min (n - at_) (Config.freeChoice (s.fresh + 1))
  let f := s.fresh + 2
  (sectors (len / 64 + 2) (a + at_) len).foldl (fun s e =>
    match s.hubPa ctx e.1 .nothing with
    | some pa => s.uncachedWrite pa ((List.range e.2).map fun i =>
        BitVec.ofNat 8 (Config.freeChoice (f + (e.1 - (a + at_)) + i))) false
    | none => s) { s with fresh := f + len }

/-- Interlocked results complete: values that have arrived are written (R385 step 2). -/
def SeqState.writeIlk (x : SeqState) : SeqState :=
  let x' := x.ilk.foldl (fun x i => match i.val with
    | some v => x.setReg i.code v
    | none => x) x
  { x' with ilk := x.ilk.filter fun i => i.val.isNone }

/-- The open batch's products have completed and retire; their faults stand under the number the batch will get (R223). -/
def Task.retireOpen (t : Task) : Task :=
  let ops := t.openBatch.ops
  if ops.isEmpty then t
  else
    let t := if ops.any fun o => o.skew || o.poison then t.poisonTiles ops else t
    (({ t with openBatch := { t.openBatch with ops := [] } } : Task).addBatchFaults (t.batchCtr + 1) ops).unreserve

/-- A task as its image holds it, with the image's number. -/
def Task.saved (t : Task) (whole : Bool) : Task :=
  { t with kq := t.kq.writeIlk, lq := t.lq.writeIlk, wq := t.wq.writeIlk, cq := t.cq.writeIlk,
           imgseq := if whole then t.imgseq + 1 else t.imgseq, life := .cut }

/-- The register an `imgcut` writes (R396). -/
def Task.writeImgcut (t : Task) (code : Nat) : Task := { t with kq := t.kq.setReg code t.imgseq }

/-- A monitor's spurious wake at a restore (R329). -/
def Task.restored (t : Task) : Task :=
  { t with mon := if t.mon.sector.isSome && t.mon.reason == 0 then { t.mon with reason := 3 } else t.mon }

/-- A task's monitor is armed on its sector as the task sees it from the core it stands on (R329): its die's stripe and its cluster
are others on another die or cluster. -/
def Task.rearm (t : Task) : Task :=
  { t with mon := { t.mon with sector := t.mon.sector.map fun l => match l with
      | .cluster _ _ _ o => .cluster t.die (t.core / 4) t.lr o
      | .stripe _ _ o => .stripe t.die t.ctx o
      | l => l } }

/-- The life of a task that goes on where it stood: one whose `tend` has begun waits in it again. -/
def Task.goesOn (t : Task) : Life := if t.ending then .ending else .running

/-- Whether a location is storage of a task's own, which its image holds. -/
def ownedBy (tid : Nat) : Loc → Bool
  | .scratch t _ => t == tid
  | .acc t _ => t == tid
  | .md t _ => t == tid
  | .rcache t _ => t == tid
  | _ => false

/-- Store a task's image, if it can be completed; else the previous image stays in force (R387). What the task goes on from is kept
apart from the bytes of the region, which a free image overwrites (DESIGN CHOICE, assumptions 33 and 74). -/
def State.storeImage (s : State) (tid : Nat) (t : Task) (whole : Bool) : State :=
  if whole then
    let place := s.imagePlace t.die
    let img : SavedTask := { place := place, task := t, marks := s.poison.filter fun e => ownedBy tid e.1 }
    ({ s with images := Assoc.put s.images tid img } : State).writeImage t.ctx place
  else s

/-- The image of a task that now belongs to another die lies where that die's images do (R387). -/
def State.carryImage (s : State) (tid : Nat) : State :=
  match Assoc.find s.tasks tid, Assoc.find s.images tid with
  | some t, some x =>
    let place := s.imagePlace t.die
    if x.place == place || !s.imageFits t then s
    else ({ s with images := Assoc.put s.images tid { x with place := place } } : State).writeImage t.ctx place
  | _, _ => s

/-- A task's own storage holds what its image does, with the poison marks of that data (R373). -/
def State.restoreMarks (s : State) (tid : Nat) (x : SavedTask) : State :=
  { s with poison := s.poison.filter (fun e => !ownedBy tid e.1) ++ x.marks }

/-- The die on which a task is to stand, when its launch no longer holds its die: the one its virtual number names (R15, R16, R94). -/
def State.movesTo (s : State) (t : Task) : Option Nat :=
  if (s.lrec t.lr).onDies.contains t.die then none else (s.physDie t.ctx t.vdie).filter (· != t.die)

/-- A task leaves its core. -/
def State.leaveCore (s : State) (tid : Nat) (t : Task) (life : Life) : State :=
  ((s.setTask tid { t with life := life }).leaveCluster t.die t.core t.lr).releaseHold t

/-- A saved task leaves its core, for the die its virtual die is bound to. -/
def State.leaveFor (s : State) (tid : Nat) (t : Task) (life : Life) : State :=
  let s := s.leaveCore tid t life
  match s.movesTo t with
  | some d => (s.modTask tid fun t => { t with die := d }).carryImage tid
  | none => s

/-- A saved task goes on on its core. -/
def State.stayOn (s : State) (tid : Nat) (t : Task) : State :=
  if (s.movesTo t).isSome then s.leaveFor tid t .cut else s.setTask tid { t.restored with life := t.goesOn }

/-- A walk of an image knows of no transfer but those still on their way. -/
def Task.walksTo (t : Task) (s : State) : Task :=
  { t with eng := t.eng.map fun o => { o with sent := o.sent.filter fun n => s.xfers.any fun x => x.id == n } }

/-- Put a task back to what its image holds (R374, R390); one with no image ends as a double trap does, with its launch (R375). -/
def State.rollBack (s : State) (tid : Nat) (e : Trap) (f : Task → Task) : State :=
  match Assoc.find s.images tid with
  | some x => (((s.withdraw tid).restoreMarks tid x).setTask tid (f (x.task.restored.walksTo s))).carryImage tid
  | none => s.doubleTrap tid e

/-- The trap of a parity error that replay cannot cover, as an event record holds it (R375). -/
def Trap.parity (arr : Nat) : Trap :=
  { cls := 15, cspace := 6, cause := arr, addr := 0, info := arr, words := false, async := true }

/-- An image's task on a die: what it belongs to of another die's phasers is dropped (R321). -/
def Task.onto (x : Task) (d : Nat) : Task :=
  let here (m : Member) : Bool := 8192 ≤ m.key || m.key / 1024 == d
  { x with die := d, members := x.members.filter here,
           left := x.left ++ (x.members.filter fun m => !here m).map (·.key % 1024) }

/-- The end of a replay's cut: the task goes on from its latest image, on its core, or waits for one when its core is lost or its
virtual die is another (R374). One that stays has not ceased to be resident, and holds its die on (R13). No image of what the parity error has left is taken (DEDUCED, assumption 80). -/
def State.replay (s : State) (tid : Nat) (t : Task) (arr : Nat) : State :=
  if (s.die t.die).lostCores.contains t.core || (s.movesTo t).isSome then
    (s.leaveCore tid t .cut).rollBack tid (Trap.parity arr) fun y =>
      { y.onto ((s.movesTo t).getD t.die) with life := .cut }
  else
    s.rollBack tid (Trap.parity arr) fun y =>
      ({ y.onto t.die with core := t.core, slot := t.slot, life := y.goesOn, fixedPop := y.fixedPop || t.fixedPop } : Task).rearm

/-- A task that can be saved is: the image is stored, and the task leaves its core, goes on on it, or is halted; a cancelled one
ends. A task that moves to another die drops the phasers of its own (R321). -/
def State.saveTask (s : State) (tid : Nat) (t : Task) (why : Cut) : State :=
  let whole := s.imageFits t
  let s := if (s.movesTo t).isSome then s.dropDiePhasers tid else s
  let t := (((Assoc.find s.tasks tid).getD t).saved whole)
  match why with
  | .cancel => s.removeTask tid
  | .replay arr => s.replay tid t arr
  | .image code => (s.storeImage tid (t.writeImgcut code) whole).stayOn tid (t.writeImgcut code)
  | .interval => (s.storeImage tid t whole).stayOn tid t
  | .halt => ((s.storeImage tid t whole).leaveFor tid t .halted).post t.ctx { EventRec.ofTask 5 t with cls := 17 }
  | .preempt | .withdraw => (s.storeImage tid t whole).leaveFor tid t .cut

/-- The end of a cut (R385): once its products have finished, the open batch retires, and what its reservations held lands; once
nothing of the task moves, it is saved. -/
def State.endCut (s : State) (tid : Nat) : State :=
  match Assoc.find s.tasks tid with
  | none => s
  | some t =>
    match t.life with
    | .cutting why =>
      if !s.moves t || t.matrixRuns then s
      else
        let s := (s.setTask tid t.retireOpen).settleTask tid
        match Assoc.find s.tasks tid with
        | some t => if s.cutReady t then s.saveTask tid t why else s
        | none => s
    | _ => s

/-- `CUT_COMPLETE` (R385). -/
def execCutComplete (t : Nat) (s : State) : Host.Outcome State Fault Refusal := .next (s.endCut t)

/-! ### Resumption (R390) -/

/-- Resume a cut task on a core of its die that can hold it, with the lots it held. One that holds its die at nominal does so
again (R13). -/
def State.resumeTask (s : State) (tid : Nat) : State :=
  match Assoc.find s.tasks tid with
  | none => s
  | some t =>
    match if t.life == .cut then s.pickCore t.die t.lr t.prio t.tt t.lots else none with
    | some c =>
      let s := s.setTask tid ({ t.restored with core := c, slot := s.freeSlot t.die c, life := t.goesOn } : Task).rearm
      if t.fixedPop && (s.lrec t.lr).pers then s.beginHold t.die else s
    | none => s

/-- `RESUME` (R390). -/
def execResume (t : Nat) (s : State) : Host.Outcome State Fault Refusal := .next (s.resumeTask t)

/-- `IMAGE_INTERVAL_EXPIRY` (R388): every running task of a context with a nonzero interval is cut and imaged. -/
def execImageIntervalExpiry (ctx : Nat) (s : State) : Host.Outcome State Fault Refusal :=
  let on := match Assoc.find s.ctxs ctx with
    | some c => c.interval != 0
    | none => false
  .next (if on then (s.tasks.filter fun e => e.2.ctx == ctx).foldl (fun s e => s.startCut e.1 .interval) s else s)

end Sys2Proof.Machine
end

