-- ==== Sys2Proof/Machine/Fetch.lean ====
section
/-! DEFINITION. Fetching (R129 to R133), what an issue turn meets before it runs an instruction, and where a program
stands for the model's first step. -/

namespace Sys2Proof.Machine

/-- What fetching an instruction gives: its words, a precise trap at its address, or a poisoned sector (R129, R375). -/
inductive Fetched where
  | words (w v : Nat)
  | trap (e : Trap)
  | poisoned (code : Nat)

/-- Fetch at a sequencer's PC: translation with execute permission, no window and no high address (R129). The reserved
addresses between them translate to nothing (assumption 58). -/
def State.fetch (s : State) (t : Task) (q : Seq) : Fetched :=
  let pc := (t.sq q).pc.toNat
  if 2 ^ 60 ≤ pc || (1 ≤ regionOf pc && regionOf pc ≤ 3) then .trap { Trap.access .address pc with words := false }
  else if regionOf pc != 0 then .trap { Trap.access (.translation untranslated) pc with words := false }
  else match s.resolve t pc .exec with
    | .error w => .trap { Trap.access w pc with words := false }
    | .ok pl =>
      match (sectorOf 0 t pl).bind s.poisonAt with
      | some c => .poisoned c
      | none =>
        let bs := (s.readPlace t pl q.size false).1
        .words (leNat (bs.take 4)) (leNat (bs.drop 4))

/-- Whether a sequencer of a task issues: the task runs, or is ending and the K-seq waits in its `tend`; in handler mode
only the K-seq (R156, R368). -/
def Task.issues (t : Task) (q : Seq) : Bool :=
  (t.life == .running || (t.life == .ending && q == .k)) && (t.handler.isNone || q == .k)

/-- A stall count runs out (R148): its cycles pass, and what lands in them has landed. -/
def State.expireStall (s : State) (tid : Nat) (q : Seq) : State :=
  s.modTask tid fun t => (t.modSq q fun x => { x with clk := x.clk + x.stall, stall := 0 }).land q

/-- What an issue turn comes to: a state, or an instruction to run in one. -/
inductive Front where
  | state (s : State)
  | instr (i : Instr) (s : State)

/-- Decode an instruction's words on a sequencer, and take the fate of ones that are none (R131). -/
def State.decodeWords (s : State) (tid : Nat) (q : Seq) (w v : Nat) : Front :=
  let s := { s with curWord := BitVec.ofNat 64 (w + 2 ^ 32 * v) }
  match decode q w v with
  | .error f => .state (s.takeTrap tid q (Trap.ofClass (fateClass f)))
  | .ok i => .instr i s

/-- A sequencer whose next instruction may not be fetched waits; its issue clock stands (R147, R300). -/
def SeqState.unfetched (x : SeqState) : SeqState := { x with wait := some .fence }

/-- Fetch an instruction and decode it: a fence with xl in Q holds the page walk of the fetch (R295). The translation is kept as any
walk's is (R251). -/
def State.fetchNext (s : State) (tid : Nat) (t : Task) (q : Seq) : Front :=
  if s.walkHeld t q (t.sq q).pc.toNat q.size then .state (s.modSq tid q SeqState.unfetched)
  else match s.fetch t q with
  | .trap e => .state (s.takeTrap tid q e)
  | .poisoned c =>
    if t.checks.any (fun k => k.addr == (t.sq q).pc) then .state s else .state (s.noteCheck tid c (t.sq q).pc.toNat)
  | .words w v => (s.keepVa t (t.sq q).pc.toNat q.size).decodeWords tid q w v

/-- The C-seq stands behind a synchronous product that runs on without its `mma`: it waits until the product has completed,
and then takes its skew, with the saved PC past the `mma` (R222). -/
def State.behindSync (s : State) (tid : Nat) (m : SyncMma) : State :=
  if m.op.finished then
    (s.modTask tid fun t => { t with sync := none }).takeTrap tid .c { Trap.ofClass 11 with words := false }
  else s.waitCycle tid .c .interlock false

/-- An issue turn of a sequencer. A stall count passes; a noted machine check is taken at a K-seq boundary (R375); an
instruction that has issued and waits goes on with the words it was fetched with (R130); a fence with code in Q holds the fetch
(R300); the fetch or the decoder traps (R129, R131); or an instruction runs. -/
def State.front (s : State) (tid : Nat) (q : Seq) : Front :=
  match Assoc.find s.tasks tid with
  | none => .state s
  | some t0 =>
    let t := t0.countMarks q
    let s := s.setTask tid t
    if !t.issues q || (s.die t.die).halted then .state s
    else if (t.sq q).stall != 0 then .state (s.expireStall tid q)
    else
      let s := { s with cur := .seq tid q, curWord := 0 }
      match (if q == .k && t.handler.isNone then t.checks else []) with
      | c :: rest =>
        .state ((s.setTask tid { t with checks := rest }).takeTrap tid .k (Trap.machineCheck c))
      | [] =>
        match (t.sq q).words, if q == .c then t.sync.filter (·.detached) else none with
        | some w, _ => s.decodeWords tid q (w.toNat % 2 ^ 32) (w.toNat / 2 ^ 32)
        | none, some m => .state (s.behindSync tid m)
        | none, none =>
          if (t.sq q).codeHeld then .state (s.modSq tid q SeqState.unfetched) else s.fetchNext tid t q

/-- The turn taken next, and the state without it: the head of the agenda, or an open turn when it is empty. -/
def State.nextTurn (s : State) : Turn × State :=
  match s.agenda with
  | a :: rest => (a, { s with agenda := rest })
  | [] => (Config.freeTurn s.turns, { s with turns := s.turns + 1 })

/-- The host writes its own memory: PCIe addresses have 51 bits (R248). -/
def State.hostWrite (s : State) (a : Nat) (bs : List Byte) : State :=
  { s with hostMem := writeBytes s.hostMem (a % 2 ^ 51) bs }

/-- Whether a row of the table is an event: nothing fetches it, so it has no words. -/
def isEvent (i : Instr) : Bool := encode i == []

/-! ### The first instruction (assumption 1) -/

/-- The task type of a program placed from outside: every demand at its largest, and code from address 0 on. -/
def TaskType.placed : TaskType :=
  { kent := 0, lent := 0, went := 0, cent := 0, trapv := 0x8000, chk := false, slip := 64, vreg := 7, spd := 32, accd := 32,
    mdd := 8, clsd := 8, mmax := 2, nmax := 63, lots := [], fwid := 3, grole := 0, glayer := 0, plmode := 0, plbase := 0,
    plstr := [] }

/-- Place a one-instruction program: die 0 works, context 0 maps its first 2 MiB page, and task 0 runs with its sequencers
at address 0; the words stand there, and the sequencer's issue is the next turn. -/
def State.placeProgram (s : State) (q : Seq) (bytes : List Byte) : State :=
  let r : LaunchRec := { LaunchRec.free with ctx := some 0, state := .running }
  let c : Ctx := { asid := 0, root := 0, job := 0, allow := 1, vdies := [(0, 0)], stripe := 0, image := none, interval := 0,
                   evq := none, produced := 0, lost := 0 }
  let t := Task.start 0 r 0 0 TaskType.placed 0 0 0 0 0 noShape
  { s with cur := .outside, agenda := [.issue 0 q],
           dies := Assoc.put s.dies 0 { s.die 0 with working := true, halted := false },
           ctxs := Assoc.put s.ctxs 0 c,
           recs := Assoc.put s.recs 0 r,
           coreTlb := Assoc.put s.coreTlb 0
             [{ asid := 0, vbase := 0, size := 2 ^ 21, pbase := 0, perm := 7, mtype := 0 }],
           poison := s.poison.filter (fun e => e.1 != .hbm 0),
           mem := writeBytes s.mem 0 bytes,
           tasks := Assoc.put s.tasks 0 t,
           nextTask := max 1 s.nextTask }

/-- Place a one-word kernel on pitch processor 0: a packet is dispatched to it, and its first instruction is the next
turn. -/
def State.placeKernel (s : State) (w : Nat) : State :=
  let pkt : Packet := { walkFlow := some 0, job := 0, src := 0, srcPkg := 0, mode := .other,
                        payload := List.replicate 256 0, hdr := none }
  let run : PitchRun := { pkt := pkt, flow := 0, seq := 0, pc := 0, q := [], k := [(0, BitVec.allOnes 16)],
                          window := pkt.payload, budget := 1024, rep := none, stores := [], pushes := [], emits := [] }
  { s with cur := .outside, agenda := [.pitch 0],
           pitches := Assoc.put s.pitches 0 { store := [(0, BitVec.ofNat 32 w)], queue := [], run := some run } }

end Sys2Proof.Machine
end

