-- ==== Sys2Proof/Machine/Plane.lean ====
section
/-! DEFINITION. The PLANE group (R333 to R335), and the calls, wire tests and ticks of the auction plane (R105 to R110). -/

namespace Sys2Proof.Machine

/-! ### Bids -/

/-- A task's entry for an auction number. -/
def Task.bidOf (t : Task) (n : Nat) : Option Bid := t.bids.find? fun b => b.num == n

/-- Change a task's entry for a number. -/
def Task.modBid (t : Task) (n : Nat) (f : Bid → Bid) : Task :=
  { t with bids := t.bids.map fun b => if b.num == n then f b else b }

/-- A later bid on a number that has an entry (R333): it replaces one that has not reached a bell, stands behind one whose
round is in progress, and takes the place of one whose round has ended. -/
def Bid.again (b : Bid) (v : BitVec 32) (after : List Nat) : Bid :=
  match b.st with
  | .entered => { b with next := some v, after := after }
  | _ => { b with bid := v, st := .posted, next := none, after := after }

/-- Post a bid of a task. -/
def Task.postBid (t : Task) (n : Nat) (v : BitVec 32) (after : List Nat) : Task :=
  match t.bidOf n with
  | some _ => t.modBid n (·.again v after)
  | none => { t with bids := t.bids ++ [{ num := n, bid := v, st := .posted, next := none, after := after }] }

/-- Whether a number is bound to a context; numbers 60 to 63 are firmware's (R105). -/
def State.numberOk (s : State) (ctx n : Nat) : Bool := n < 60 && Assoc.find s.auctions n == some ctx

/-- `bid xa, xb` (R333): it is posted once the earlier fences are complete, and holds no issue. -/
def execBid (w : Stall) (a b : SReg) (s : State) : Host.Outcome State Fault Refusal :=
  s.issue w (scalars [a, b]) fun s tid q t =>
    let x := t.sq q
    let n := (x.rd a).toNat
    if !s.numberOk t.ctx n then .trap s (Trap.sync 1)
    else if (t.bidOf n).isNone && decide (4 ≤ t.bids.length) then .hold s .bidFull
    else .done (s.modTask tid (·.postBid n ((x.rd b).setWidth 32) x.fences))

/-- The word of `bidw` (R334). -/
def bidWord (n : Nat) (key : BitVec 43) (own : Bool) : Word :=
  BitVec.ofNat 64 ((if own then 2 ^ 63 else 0) + n * 2 ^ 43 + key.toNat)

/-- `bidw xd, xa` (R334). -/
def execBidw (w : Stall) (d a : SReg) (s : State) : Host.Outcome State Fault Refusal :=
  s.issue w (scalars [d, a]) fun s tid q t =>
    let n := bits ((t.sq q).rd a).toNat 5 0
    match t.bidOf n with
    | none => .trap s (Trap.sync 11)
    | some b =>
      match b.st with
      | .result key own =>
        .done ((s.modTask tid fun t => { t with bids := t.bids.filter fun b => b.num != n }).result tid q 1 d
          (bidWord n key own))
      | _ => .wait s .bidw

/-- `ares xd, xa` (R335): the number stands as 0 when it is not the context's. -/
def execAres (w : Stall) (d a : SReg) (s : State) : Host.Outcome State Fault Refusal :=
  s.issue w (scalars [d, a]) fun s tid q t =>
    let l := Assoc.get Lane.start s.lanes (bits ((t.sq q).rd a).toNat 1 0)
    .done (s.interlock tid q d (bidWord (if s.numberOk t.ctx l.number then l.number else 0) l.key false))

/-! ### Calls (R106 to R110) -/

/-- Replace a lane. -/
def State.setLane (s : State) (n : Nat) (l : Lane) : State := { s with lanes := Assoc.set Lane.start s.lanes n l }

/-- A lane of the plane. -/
def State.lane (s : State) (n : Nat) : Lane := Assoc.get Lane.start s.lanes n

/-- A task's key for a bid (R107). -/
def Task.key (t : Task) (bid : BitVec 32) : BitVec 43 :=
  BitVec.ofNat 43 (bid.toNat * 2 ^ 11 + (15 - t.vdie) * 2 ^ 7 + (31 - t.core) * 2 ^ 2 + (3 - t.slot))

/-- Whether a task's bid on a number stands at its die's plane interface: a task that is being cut or is cut has lost it
(R108, R112). -/
def Task.bidding (t : Task) (b : Bid) : Bool :=
  b.st == .posted && t.clear b.after && (t.life == .running || t.life == .ending)

/-- The keys firmware bids on one of its numbers (R69, R94, R105, R380). -/
def State.firmwareKeys (s : State) : Nat → List Nat
  | 60 => s.electionKeys
  | 61 => s.changeKeys
  | 62 => s.evidenceKeys
  | _ => []

/-- The entrants of a number (R108). -/
def State.entrants (s : State) (n : Nat) : List Entrant :=
  (s.firmwareKeys n).map (fun k => { key := BitVec.ofNat 43 k, task := none }) ++
  s.tasks.filterMap fun e => (e.2.bids.find? fun b => b.num == n && e.2.bidding b).map fun b =>
    { key := e.2.key b.bid, task := some e.1 }

/-- Whether a round of a number is pending: somebody bids, or firmware's protocol asks for one, be there no bid in it (R69, R94,
R380). -/
def State.pending (s : State) (n : Nat) : Bool :=
  match n with
  | 60 => !s.elections.isEmpty
  | 61 => s.evaluation.any fun v => v.changes.any fun l => !l.isEmpty
  | 62 => s.evaluation.any (·.psr.isSome)
  | n => !(s.entrants n).isEmpty

/-- The numbers a lane has pending, in ascending order. -/
def State.pendingNumbers (s : State) (lane : Nat) : List Nat := (List.range 63).filter fun n => n % 4 == lane && s.pending n

/-- The number a lane's sweep calls next (R109): the next pending one above the one served last, or a new sweep. -/
def State.nextNumber (s : State) (lane : Nat) : Option Nat :=
  let ns := s.pendingNumbers lane
  match (s.lane lane).swept with
  | some k => match ns.find? fun n => k < n with
    | some n => some n
    | none => ns.head?
  | none => ns.head?

/-- Whether an entrant of a void round stands for the rerun: every one does but a die that works no longer (R70, R110). -/
def State.stands (s : State) (e : Entrant) : Bool := e.task.isSome || s.dieWorks (keyDie e.key.toNat)

/-- Whether a firmware key is of a die that has one among some entrants: a die drives one key (R107). -/
def Entrant.among (e : Entrant) (l : List Entrant) : Bool :=
  e.task.isNone && l.any fun a => a.task.isNone && keyDie a.key.toNat == keyDie e.key.toNat

/-- The bell of a number: the interfaces take its entrants, beside those of a void round it repeats (R108, R110). -/
def State.bell (s : State) (lane n : Nat) (again : List Entrant) : State :=
  let again := again.filter s.stands
  let es := (s.entrants n).filter fun e => !e.among again
  let s := s.setLane lane { s.lane lane with round := some (n, again ++ es), rerun := false }
  (es.filterMap (·.task)).foldl (fun s tid => s.modTask tid (·.modBid n fun b => { b with st := .entered })) s

/-- The sweep of a lane calls a number (R109). -/
def State.sweep (s : State) (lane n : Nat) : State :=
  (s.setLane lane { s.lane lane with swept := some n }).bell lane n []

/-- The next call slot of a lane (R109, R110): a wire test that is due, the rerun of a void round, a heartbeat that is due,
or the sweep. Nothing is called while a round or a test runs. -/
def State.callLane (s : State) (lane : Nat) : State :=
  let l := s.lane lane
  if l.testing || (l.round.isSome && !l.rerun) then s
  else if 4 ≤ l.run then s.setLane lane { l with testing := true }
  else if l.rerun then match l.round with
    | some (n, es) => s.bell lane n es
    | none => s.setLane lane { l with rerun := false }
  else if lane == 3 && s.heartbeatDue then
    ({ s with heartbeatDue := false } : State).setLane 3 { l with round := some (63, []) }
  else match s.nextNumber lane with
    | some n => s.sweep lane n
    | none => s

/-- `AUCTION_CALL` (R106, R109). -/
def execAuctionCall (lane : Fin 4) (s : State) : Host.Outcome State Fault Refusal := .next (s.callLane lane.val)

/-- `WIRE_TEST_COMPLETE` (R110): a stuck wire is retired and counted; one wire stays. -/
def execWireTestComplete (lane : Fin 4) (stuck : Bool) (s : State) : Host.Outcome State Fault Refusal :=
  let l := s.lane lane.val
  .next (if l.testing then
    s.setLane lane.val { l with testing := false, run := 0, retiredWires := if stuck then l.retiredWires + 1 else l.retiredWires }
  else s)

/-- `HEARTBEAT_TICK` (R109): number 63 is called at the next call slot of its lane. -/
def execHeartbeatTick (s : State) : Host.Outcome State Fault Refusal := .next { s with heartbeatDue := true }

end Sys2Proof.Machine
end

