-- ==== Sys2Proof/Machine/Shake.lean ====
section
/-! DEFINITION. SHAKE256, the published function in which R409 gives its measurements: Keccak-f[1600] over a rate of 136 bytes. -/

namespace Sys2Proof.Machine

/-- The 25 lanes of the permutation, lane (x, y) at place x + 5y. -/
abbrev Lanes := List Word

/-- Lane (x, y), its coordinates modulo 5. -/
def laneAt (a : Lanes) (x y : Nat) : Word := a.getD (x % 5 + 5 * (y % 5)) 0

/-- The lanes that a function of the coordinates gives. -/
def lanesBy (f : Nat → Nat → Word) : Lanes := (List.range 25).map fun k => f (k % 5) (k / 5)

/-- The constants of the 24 rounds. -/
def roundConstants : List Nat :=
  [0x0000000000000001, 0x0000000000008082, 0x800000000000808A, 0x8000000080008000, 0x000000000000808B, 0x0000000080000001,
   0x8000000080008081, 0x8000000000008009, 0x000000000000008A, 0x0000000000000088, 0x0000000080008009, 0x000000008000000A,
   0x000000008000808B, 0x800000000000008B, 0x8000000000008089, 0x8000000000008003, 0x8000000000008002, 0x8000000000000080,
   0x000000000000800A, 0x800000008000000A, 0x8000000080008081, 0x8000000000008080, 0x0000000080000001, 0x8000000080008008]

/-- How far each lane is turned, in the order of the lanes. -/
def laneTurns : List Nat :=
  [0, 1, 62, 28, 27, 36, 44, 6, 55, 20, 3, 10, 43, 25, 39, 41, 45, 15, 21, 8, 18, 2, 61, 56, 14]

/-- A lane turned to the left. -/
def turnLane (v : Word) (n : Nat) : Word := v <<< n ||| v >>> (64 - n)

/-- θ: each lane takes the parities of two columns. -/
def keccakTheta (a : Lanes) : Lanes :=
  let c := (List.range 5).map fun x => (List.range 5).foldl (fun v y => v ^^^ laneAt a x y) 0
  let d := (List.range 5).map fun x => c.getD ((x + 4) % 5) 0 ^^^ turnLane (c.getD ((x + 1) % 5) 0) 1
  lanesBy fun x y => laneAt a x y ^^^ d.getD x 0

/-- ρ and π: each lane is turned and moved. -/
def keccakMove (a : Lanes) : Lanes :=
  let t := a.zipWith turnLane laneTurns
  lanesBy fun x y => laneAt t (x + 3 * y) x

/-- χ and ι: each lane takes two of its row, and the first the round's constant. -/
def keccakMix (a : Lanes) (rc : Nat) : Lanes :=
  lanesBy fun x y => laneAt a x y ^^^ (~~~laneAt a (x + 1) y &&& laneAt a (x + 2) y) ^^^
    (if x + y == 0 then BitVec.ofNat 64 rc else 0)

/-- Keccak-f[1600]. -/
def keccak (a : Lanes) : Lanes := roundConstants.foldl (fun a rc => keccakMix (keccakMove (keccakTheta a)) rc) a

/-- A block of 136 bytes enters the lanes. -/
def keccakTake (a : Lanes) (block : List Byte) : Lanes :=
  keccak (lanesBy fun x y => laneAt a x y ^^^ BitVec.ofNat 64 (leNat ((block.drop (8 * (x + 5 * y))).take 8)))

/-- A message with its padding, in whole blocks. -/
def shakePad (bs : List Byte) : List Byte :=
  let free := 135 - bs.length % 136
  bs ++ (if free == 0 then [0x9F] else 0x1F :: List.replicate (free - 1) 0 ++ [0x80])

/-- The first 64 bytes of SHAKE256 of a byte string (R409). -/
def shake64 (bs : List Byte) : List Byte :=
  let m := shakePad bs
  let a := (List.range (m.length / 136)).foldl (fun a k => keccakTake a ((m.drop (136 * k)).take 136)) (List.replicate 25 0)
  (a.take 8).flatMap fun v => toBytes 8 v.toNat

end Sys2Proof.Machine
end

