-- ==== Sys2Proof/Machine/Ras.lean ====
section
/-! DEFINITION. Errors, spares and failed dies (R10, R11, R18, R19, R372 to R380), power and temperature (R12, R13, R411), boot
and the configuration record (R406 to R409). -/

namespace Sys2Proof.Machine

/-! ### The configuration record (R408) -/

/-- The fields of the configuration record. -/
def State.configWord (s : State) : Nat :=
  let ds := s.workingDies
  let sum (f : Die → Nat) : Nat := (ds.map fun d => f (s.die d)).sum
  let mask := (ds.map fun d => 2 ^ d).sum
  sum (·.channels) * 2 ^ 144 + sum Die.cores * 2 ^ 128 + sum (fun x => stackBytes - x.lostBytes) * 2 ^ 64
    + ds.length * 2 ^ 40 + mask * 2 ^ 32 + s.ports.toNat * 2 ^ 16 + Config.firmwareVersion.toNat

/-- Firmware writes the configuration record, once boot has published it. -/
def State.publish (s : State) : State := if s.boot == 6 then { s with config := toBytes 64 s.configWord } else s

/-! ### Whom an error concerns (R373) -/

/-- The leaves of a table and those below it: the entry's own address, the page's physical base, and its size. -/
def State.leavesOf (s : State) (table : Nat) : List (Nat × Nat × Nat) → List (Nat × Nat × Nat)
  | [] => []
  | (level, shift, n) :: rest =>
    (List.range (2 ^ n)).flatMap fun i =>
      let ea := table + 8 * i
      let e := leNat (s.physRead ea 8)
      if isHostPa ea || !inHbm ea || !bitAt e 0 || malformed level shift e then []
      else if bitAt e 1 then [(ea, bits e 51 8 * 256, 2 ^ shift)]
      else State.leavesOf s (bits e 51 8 * 256) rest

/-- The contexts that map a page of which something holds. -/
def State.mapping (s : State) (f : Nat → Nat → Bool) : List Nat :=
  (s.ctxs.filter fun e => (s.leavesOf e.2.root walkLevels).any fun x => f x.2.1 x.2.2).map (·.1)

/-- The contexts that map a physical address. -/
def State.pageOwners (s : State) (pa : Nat) : List Nat := s.mapping fun b n => b ≤ pa && decide (pa < b + n)

/-- The context of an ASID. -/
def State.ctxOfAsid (s : State) (asid : Nat) : List Nat := (s.ctxs.filter fun e => e.2.asid == asid).map (·.1)

/-- The sector of an L1 at a location. -/
def State.l1Sector (s : State) (die core pa : Nat) : Option (L1Line × L1Sector) :=
  (s.lineOf (32 * die + core) pa).map fun l => (l, l.sector pa)

/-- The owner of the data at a location (R373). -/
def State.owners (s : State) (l : Loc) : List Nat :=
  match l with
  | .hbm pa => s.pageOwners pa
  | .l1 d c pa =>
    match s.l1Sector d c pa with
    | some (x, y) => if y.dirty then s.ctxOfAsid x.asid else s.pageOwners pa
    | none => s.pageOwners pa
  | .scratch t _ => ((Assoc.find s.tasks t).map (·.ctx)).toList
  | .acc t _ => ((Assoc.find s.tasks t).map (·.ctx)).toList
  | .md t _ => ((Assoc.find s.tasks t).map (·.ctx)).toList
  | .cluster _ _ lr _ => (s.lrec lr).ctx.toList
  | .stripe _ ctx _ => [ctx]
  | .wq q _ => ((Assoc.find s.queues q).map (·.ctx)).toList
  | .tlb _ _ asid _ => s.ctxOfAsid asid
  | .rcache t _ => ((Assoc.find s.tasks t).map (·.ctx)).toList
  | .record lr _ => (s.lrec lr).ctx.toList
  | .psr _ _ | .kernel _ _ _ | .flow _ _ _ => []

/-- A KIND 3 record of an error at a location. -/
def State.checkRecord (s : State) (code : Nat) (l : Loc) : EventRec :=
  let base (e : EventRec) : EventRec := { e with cls := 15, cspace := 6, cause := code, array := code, info := code }
  let ofTask (t off : Nat) : EventRec := match Assoc.find s.tasks t with
    | some x => { base (EventRec.ofTask 3 x) with addr := windowAddr off }
    | none => base (EventRec.plain 3)
  match l with
  | .hbm pa => { base (EventRec.plain 3) with phys := true, addr := pa, die := stackOf pa }
  | .l1 d c pa => { base (EventRec.plain 3) with phys := true, addr := pa, die := d, core := c }
  | .scratch t o => ofTask t o
  | .acc t w => ofTask t (0x100000 + 8 * w)
  | .md t o => ofTask t (0x140000 + o)
  | .cluster d c lr o => { base (EventRec.plain 3) with die := d, core := 4 * c, lrec := lr, addr := 0xFF1 * 2 ^ 48 + o }
  | .stripe d _ o => { base (EventRec.plain 3) with die := d, addr := 0xFF2 * 2 ^ 48 + o }
  | .record lr _ => { base (EventRec.plain 3) with lrec := lr }
  | .tlb d c _ page => { base (EventRec.plain 3) with die := d, core := c % 32, addr := page }
  | .rcache t a => match Assoc.find s.tasks t with
    | some x => { base (EventRec.ofTask 3 x) with addr := a }
    | none => base (EventRec.plain 3)
  | .wq _ _ | .psr _ _ | .kernel _ _ _ | .flow _ _ _ => base (EventRec.plain 3)

/-- Charge an error to its owner: a KIND 3 record (R373). -/
def State.charge (s : State) (code : Nat) (l : Loc) : State :=
  (s.owners l).foldl (fun s c => s.post c (s.checkRecord code l)) s

/-- Whether what an error would strike is there: a valid sector of an L1, an entry of a queue, of a TLB or of a record cache. -/
def State.present (s : State) (l : Loc) : Bool :=
  match l with
  | .l1 d c pa => (s.l1Sector d c pa).any (·.2.valid)
  | .wq q n => (Assoc.find s.queues q).any fun k => k.taken ≤ n && decide (n < k.taken + k.entries.length)
  | .tlb d c asid page =>
    (if c == 32 then Assoc.get [] s.dieTlb d else Assoc.get [] s.coreTlb (32 * d + c)).any fun e => e.asid == asid && e.vbase == page
  | .rcache t a => (Assoc.find s.tasks t).any fun x => x.recs.any fun e => e.1.toNat == a
  | _ => true

/-- Where the mark of an error stands: a dirty coherent sector's data is current in memory, and so is its mark. -/
def State.markPlace (s : State) (l : Loc) : Loc :=
  match l with
  | .l1 d c pa =>
    if (s.l1Sector d c pa).any fun (x : L1Line × L1Sector) => x.2.dirty && !x.2.streaming then .hbm (pa / 64 * 64) else l1Loc (32 * d + c) pa
  | _ => l

/-- An uncorrectable error: what is there is poisoned and charged (R372, R373). -/
def State.uncorrectable (s : State) (code : Nat) (l : Loc) : State :=
  if s.present l then (s.charge code l).setPoison (s.markPlace l) code else s

/-- `UNCORRECTABLE_ERROR` (R373). -/
def execUncorrectableError (arr : Fin 16) (loc : Loc) (s : State) : Host.Outcome State Fault Refusal :=
  .next (s.uncorrectable arr.val loc)

/-- `CORRECTABLE_ERROR` (R372): corrected, rewritten and counted. -/
def execCorrectableError (arr : Fin 16) (s : State) : Host.Outcome State Fault Refusal :=
  .next { s with corrected := Assoc.set 0 s.corrected arr.val (Assoc.get 0 s.corrected arr.val + 1) }

/-- `SCRUB` (R372): it changes no architected value. -/
def execScrub (_arr : Fin 16) (s : State) : Host.Outcome State Fault Refusal := .next s

/-- The first noted machine check of a task that is not in handler mode is delivered (R375). -/
def State.deliverCheck (s : State) (tid : Nat) : State :=
  match Assoc.find s.tasks tid with
  | some t =>
    match (if s.moves t && (t.life == .running || t.life == .ending) && t.handler.isNone then t.checks else []) with
    | c :: rest => (s.modTask tid fun t => { t with checks := rest }).takeTrap tid .k (Trap.machineCheck c)
    | [] => s
  | none => s

/-- `MACHINE_CHECK` (R375). -/
def execMachineCheck (t : Nat) (s : State) : Host.Outcome State Fault Refusal := .next (s.deliverCheck t)

/-! ### Failed dies (R16, R379, R380) -/

/-- The owners of a lost sector: the context of a dirty line's ASID, and those that map the page of a clean one (R373). -/
def State.lineOwners (s : State) (dirty : Bool) (asid pa : Nat) : List Nat :=
  if dirty then s.ctxOfAsid asid else s.pageOwners pa

/-- The sectors a failed die's L1s held dirty, or alone and clean where the directory may have granted them exclusively
(a free choice for each), with their owners. -/
def State.lostSectors (s : State) (d : Nat) : List (List Nat × Nat) :=
  (s.l1.filter fun e => e.1 / 32 == d).flatMap fun e => e.2.flatMap fun l =>
    [(l.s0, 128 * l.line), (l.s1, 128 * l.line + 64)].filterMap fun (x : L1Sector × Nat) =>
      let alone := !s.l1.any fun o => o.1 != e.1 && (match s.lineOf o.1 x.2 with
        | some y => (y.sector x.2).valid
        | none => false)
      let granted := alone && !x.1.streaming && Config.freeChoice (s.fresh + x.2) % 2 == 0
      if x.1.valid && (x.1.dirty || granted) then some (s.lineOwners x.1.dirty l.asid x.2, x.2) else none

/-- Mark the lost sectors, each charged to its owners (R380 step 2). -/
def State.loseLines (s : State) (d : Nat) : State :=
  let lost := s.lostSectors d
  let s := { s with l1 := s.l1.filter (fun e => e.1 / 32 != d),
                    poison := s.poison.filter (fun e => match e.1 with
                      | .l1 x _ _ => x != d
                      | _ => true),
                    fresh := s.fresh + 1 }
  lost.foldl (fun s e =>
    e.1.foldl (fun s c => s.post c (s.checkRecord 10 (.hbm e.2))) (s.setPoison (.hbm e.2) 10)) s

/-- The surviving dies of a context: those it may use, and those its virtual numbers name (R16). -/
def State.survivors (s : State) (cid failed : Nat) : List Nat :=
  let named : List Nat := match Assoc.find s.ctxs cid with
    | some c => c.vdies.map fun (e : Nat × Nat) => e.2
    | none => []
  s.workingDies.filter fun d => d != failed && ((s.allowed cid).contains d || named.contains d)

/-- The surviving die to which a context's virtual numbers of a failed die are rebound (R16): the one with the fewest resident
tasks. -/
def State.heir (s : State) (cid failed : Nat) : Option Nat :=
  (s.survivors cid failed).foldl (fun (b : Option Nat) d =>
    match b with
    | none => some d
    | some x => if s.onDie d < s.onDie x then some d else some x) none

/-- The launches that run on a failed die lose it: each falls below its minimum and fails, or goes on (R16, R380). -/
def State.shrinkLaunches (s : State) (d : Nat) : State :=
  (s.recs.map (·.1)).foldl (fun s lr =>
    let r := s.lrec lr
    if r.state == .running && r.onDies.contains d then
      let left := r.onDies.filter (· != d)
      if left.length < r.minDie then s.failLaunch lr 9 else s.setRec lr { r with dies := left.length, onDies := left }
    else s) s

/-- Rebind a failed die's virtual numbers in every context (R16). A context with no surviving die keeps none of them. -/
def State.rebind (s : State) (d : Nat) : State :=
  (s.ctxs.map (·.1)).foldl (fun s cid =>
    match Assoc.find s.ctxs cid, s.heir cid d with
    | none, _ => s
    | some c, some h => s.rebindTo cid d h ((c.vdies.filter fun e => e.2 == d).map (·.1))
    | some c, none =>
      { s with ctxs := Assoc.put s.ctxs cid { c with vdies := c.vdies.filter fun e => e.2 != d } }) s

/-- A task of a failed die waits for resumption from its image on the die its virtual number now names (R16, R380 step 5). One
with no image ends with its launch (R375), and one that was to end has ended. -/
def State.moveTask (s : State) (d cls tid : Nat) (t : Task) : State :=
  if t.life = .cutting .cancel then s.removeTask tid
  else match Assoc.find s.images tid with
    | some x =>
      let life : Life := if t.life == .halted then .halted else .cut
      (((s.withdraw tid).restoreMarks tid x).setTask tid
        { (x.task.restored.walksTo s).onto ((s.physDie t.ctx t.vdie).getD d) with life := life }).carryImage tid
    | none => ((s.removeTask tid).failLaunch t.lr 9).post t.ctx { EventRec.ofTask 6 t with cls := cls }

/-- The tasks of a failed die move. -/
def State.moveTasks (s : State) (d cls : Nat) : State :=
  ((s.tasks.filter fun e => e.2.die == d).map (·.1)).foldl (fun s tid =>
    match Assoc.find s.tasks tid with
    | none => s
    | some t => s.moveTask d cls tid t) s

/-- A die that is failed is withdrawn (R380); the election of the die that leads recovery is due on number 60. `cls` is 18 for a
link-wake timeout, 19 for a silent die, and 0 for a die withdrawn because it has lost too many cores: the spec names a class for
none but the first two (DESIGN CHOICE, assumption 71). -/
def State.failDie (s : State) (d cls : Nat) : State :=
  if !s.dieWorks d then s
  else
    let told := s.ctxs.map (·.1) |>.filter fun c =>
      s.tasks.any (fun e => e.2.ctx == c && e.2.die == d) || (s.mapping fun b _ => !isHostPa b && stackOf b == d).contains c
    let n := s.fresh
    let s := (({ s with fresh := n + 1, elections := s.elections ++ [n] } : State).loseLines d).loseEvidence d
    let s := { s with dies := Assoc.put s.dies d { s.die d with working := false },
                      images := s.images.filter (fun e => e.2.place != d),
                      cluster := s.cluster.filter (fun e => e.1 / 4096 / 8 != d),
                      stripes := s.stripes.filter (fun e => e.1 / 65536 != d),
                      coreTlb := s.coreTlb.filter (fun e => e.1 / 32 != d),
                      dieTlb := Assoc.erase s.dieTlb d,
                      phasers := s.phasers.filter (fun e => e.1 / 1024 != d) }
    let s := told.foldl (fun s c => s.post c { EventRec.plain 4 with cls := cls, die := d, info := d }) s
    (((s.shrinkLaunches d).rebind d).moveTasks d cls).retherm.publish

/-! ### Replay (R11, R374) -/

/-- A task is to go on from its image (R374): its cut begins, or the one in progress becomes that cut. One with no image ends as a
double trap does (R375). -/
def State.startReplay (s : State) (arr tid : Nat) : State :=
  match Assoc.find s.tasks tid with
  | none => s
  | some t =>
    match t.life with
    | .cut | .halted | .cutting .cancel => s
    | _ =>
      if !Assoc.has s.images tid then s.doubleTrap tid (Trap.parity arr)
      else (s.startCut tid (.replay arr)).modTask tid fun t => { t with life := .cutting (.replay arr) }

/-- A physical core is retired: a spare, which has had no error, stands in for it, or its logical core is lost, and its die with it
when more than four are (R10, R11, R374). Its tasks resume from their images. A lost core is not retired again. -/
def State.retireCore (s : State) (die core arr : Nat) : State :=
  let x := s.die die
  let ts := (s.onCore die core).map (·.1)
  let s := s.setCore die core { s.core die core with parity := [] }
  if x.lostCores.contains core then ts.foldl (fun s tid => s.startReplay arr tid) s
  else if 0 < x.spares then ts.foldl (fun s tid => s.startReplay arr tid) (s.setDie die { x with spares := x.spares - 1 })
  else
    let x := { x with lostCores := core :: x.lostCores }
    let s := ts.foldl (fun s tid => s.startReplay arr tid) (s.setDie die x)
    if 4 < x.lostCores.length then s.failDie die 0 else s.publish

/-- A parity error in a register file, port or queue (R374): the task is replayed from its image on the same core; a second
one in the same array of the core within 2^30 c retires the core. Whether that time has passed is a free value: the model
keeps no core clock. -/
def State.parity (s : State) (tid arr : Nat) : State :=
  match Assoc.find s.tasks tid with
  | none => s
  | some t =>
    if !t.resident then s
    else
      let c := s.core t.die t.core
      let again := Assoc.get 0 c.parity arr != 0 && Config.freeChoice s.fresh % 2 == 0
      let c := { c with parity := Assoc.set 0 c.parity arr 1 }
      let s := ({ s with fresh := s.fresh + 1 } : State).setCore t.die t.core c
      if again then s.retireCore t.die t.core arr else s.startReplay arr tid

/-- `PARITY_ERROR` (R374). -/
def execParityError (t : Nat) (arr : Fin 16) (s : State) : Host.Outcome State Fault Refusal := .next (s.parity t arr.val)

/-! ### Channels and links (R19, R378, R379) -/

/-- `CHANNEL_FAILURE` (R19): a spare channel takes over, or the capacity falls by the channel's share, which leaves the top
of the stack's addresses (DEDUCED, assumption 17). -/
def execChannelFailure (stack : Nat) (s : State) : Host.Outcome State Fault Refusal :=
  let x := s.die stack
  .next (if 0 < x.spareChannels then s.setDie stack { x with spareChannels := x.spareChannels - 1 }
    else if 0 < x.channels then
      (s.setDie stack { x with channels := x.channels - 1, lostBytes := x.lostBytes + stackBytes / 32 }).publish
    else s)

/-- The spare lanes of a lane's direction: an even number names a lane inbound to the die, an odd one outbound (DESIGN CHOICE,
assumption 81). -/
def Die.laneSpares (x : Die) (ln : Nat) : Nat := if ln % 2 == 0 then x.laneSparesIn else x.laneSparesOut

/-- A spare of a lane's direction takes its place. -/
def Die.takeLaneSpare (x : Die) (ln : Nat) : Die :=
  if ln % 2 == 0 then { x with laneSparesIn := x.laneSparesIn - 1 } else { x with laneSparesOut := x.laneSparesOut - 1 }

/-- A lane of a link fails its CRC (R378): the eighth time within 2^20 b the lane is retired, for a spare of its direction while
there is one. How many of the earlier failures still count is a free value: the model keeps no plane clock. -/
def State.crcError (s : State) (d ln : Nat) : State :=
  let x := s.die d
  let n := min (Assoc.get 0 x.crc ln) (Config.freeChoice s.fresh % 8) + 1
  let s := { s with fresh := s.fresh + 1 }
  if n < 8 then s.setDie d { x with crc := Assoc.set 0 x.crc ln n }
  else if 0 < x.laneSpares ln then s.setDie d { x.takeLaneSpare ln with crc := Assoc.set 0 x.crc ln 0, repairing := true }
  else s.setDie d { x with crc := Assoc.set 0 x.crc ln 0, lanesLost := x.lanesLost + 1 }

/-- `FLIT_CRC_ERROR` (R378). -/
def execFlitCrcError (die ln : Nat) (s : State) : Host.Outcome State Fault Refusal := .next (s.crcError die ln)

/-- `LANE_REPAIR_COMPLETE` (R378). -/
def execLaneRepairComplete (die : Nat) (s : State) : Host.Outcome State Fault Refusal :=
  .next (s.setDie die { s.die die with repairing := false })

/-- `LINK_SLEEP` (R379). -/
def execLinkSleep (die : Nat) (s : State) : Host.Outcome State Fault Refusal :=
  .next (if s.dieWorks die then s.setDie die { s.die die with linkAsleep := true } else s)

/-- `LINK_WAKE_DONE` (R379). -/
def execLinkWakeDone (die : Nat) (s : State) : Host.Outcome State Fault Refusal := .next (s.wakeLink die)

/-- `LINK_WAKE_TIMEOUT` (R379): a die whose link was to wake and has not is failed. -/
def execLinkWakeTimeout (die : Nat) (s : State) : Host.Outcome State Fault Refusal :=
  .next (if (s.die die).linkAsleep && (s.die die).snoopDue then s.failDie die 18 else s)

/-! ### Operating points and temperature (R12, R13, R411) -/

/-- The contexts that have a persistent task on a die (R13). -/
def State.persistentOn (s : State) (d : Nat) : List Nat :=
  (s.allCtxs).filter fun c => s.tasks.any fun e => e.2.ctx == c && e.2.resident && e.2.die == d && (s.lrec e.2.lr).pers

/-- A point below nominal to which a controller lowers a die, never a faster one than it runs at: how far is open (R12,
R411). -/
def State.drawPoint (s : State) (d : Nat) : Nat × State :=
  (max (s.die d).point (1 + Config.freeChoice s.fresh % 2), { s with fresh := s.fresh + 1 })

/-- A die runs at a point that a controller has drawn for it; every context learns of it when the point falls (R411). -/
def State.lowerTo (s : State) (d p temp reason : Nat) : State :=
  if (s.die d).point < p then
    let s := (s.setPoint d p).retherm
    s.thermal s.allCtxs d temp reason
  else s.retherm

/-- Lower one die for the power cap, unless it is held. -/
def State.capDie (s : State) (d : Nat) : State :=
  if s.holdsDie d then s
  else
    let (p, s) := s.drawPoint d
    let (temp, s) := s.drawTemp
    (s.setDie d { s.die d with capped := true }).lowerTo d p temp 0

/-- `POWER_CAP_EXCEEDED` (R411). -/
def execPowerCapExceeded (s : State) : Host.Outcome State Fault Refusal := .next (s.workingDies.foldl State.capDie s)

/-- A die's junction passes 95 °C: it lowers its own point, held or not; the contexts of the tasks of a held one learn when it leaves
nominal (R13, R411). -/
def State.heat (s : State) (d temp : Nat) : State :=
  if !s.dieWorks d then s
  else
    let overridden := s.holdsDie d && (s.die d).point == 0
    let (p, s) := s.drawPoint d
    let s := (s.setDie d { s.die d with hot := true }).lowerTo d p temp 1
    if overridden then s.thermal (s.persistentOn d) d temp 4 else s

/-- `JUNCTION_OVER_95` (R411). -/
def execJunctionOver95 (die : Nat) (temp : BitVec 8) (s : State) : Host.Outcome State Fault Refusal :=
  .next (s.heat die temp.toNat)

/-- `JUNCTION_CRITICAL` (R411). -/
def execJunctionCritical (die : Nat) (s : State) : Host.Outcome State Fault Refusal :=
  let s := (s.setDie die { s.die die with critical := true }).retherm
  .next (s.thermal s.allCtxs die 105 2)

/-- `COOLANT_FLOW_LOST` (R411). -/
def execCoolantFlowLost (s : State) : Host.Outcome State Fault Refusal :=
  let (temp, s) := ({ s with coolantLost := true } : State).retherm.drawTemp
  .next (s.thermal s.allCtxs 8 temp 3)

/-- A condition clears: a die returns to the host's point, or to nominal while it is held; 8 is the package, whose coolant
flows again (R12, R13, R411). The clearing ends all that lowered the die, heat and power cap alike: the spec does not say that it does
(DESIGN CHOICE, assumption 83). -/
def State.cool (s : State) (d : Nat) : State :=
  let (temp, s) := s.drawTemp
  if 8 ≤ d then
    let s := ({ s with coolantLost := false } : State).retherm
    s.thermal s.allCtxs 8 temp 5
  else
    let s := s.setDie d { s.die d with hot := false, capped := false, critical := false }
    let s := (s.setPoint d (s.basePoint d)).retherm
    s.thermal s.allCtxs d temp 5

/-- `THERMAL_CLEARED` (R411). -/
def execThermalCleared (die : Nat) (s : State) : Host.Outcome State Fault Refusal := .next (s.cool die)

/-- `SHUTDOWN_TIMER` (R411): 100 ms after Critical the package powers down. -/
def execShutdownTimer (s : State) : Host.Outcome State Fault Refusal :=
  .next (if s.therm == 2 then ({ s with poweredDown := true } : State).retherm else s)

/-- `OPERATING_POINT_HALT_END` (R13). -/
def execOperatingPointHaltEnd (die : Nat) (s : State) : Host.Outcome State Fault Refusal :=
  .next (s.setDie die { s.die die with halted := false })

/-! ### Event queues and sensors (R383, R411) -/

/-- `EVQ_SLOT_FREED` (R383): the host advances its consumed count, and a record of lost records that is due is written. -/
def execEvqSlotFreed (ctx : Nat) (consumed : Word) (s : State) : Host.Outcome State Fault Refusal :=
  .next (match (Assoc.find s.ctxs ctx).bind (·.evq) with
    | some (addr, k) =>
      ({ s with hostMem := writeBytes s.hostMem ((addr + 256 * 2 ^ k) % 2 ^ 51) (toBytes 8 consumed.toNat) } : State).evqLost ctx
    | none => s)

/-- `PLDM_SENSOR_READ` (R411): THERM, or a reading the spec gives no value of. -/
def execPldmSensorRead (sensor : Sensor) (s : State) : Host.Outcome State Fault Refusal :=
  .next (match sensor with
    | .therm => { s with sensorRead := s.therm }
    | _ => { s with sensorRead := Config.freeChoice s.fresh, fresh := s.fresh + 1 })

/-! ### Boot (R406, R409) -/

/-- What a test of a die's cores and its stack's channels leaves (R10, R11, R19, R406 step 4), of `n` good cores and `ch` good channels:
32 logical cores and spares, or the lowest numbers, and as many channels in service and spares; a die below 28 cores is left out. -/
def Die.tested (x : Die) (n ch : Nat) : Die :=
  let left := x.leftOut || decide (n < 28)
  { x with leftOut := left, working := !left, spares := min 2 (n - 32),
           lostCores := (List.range 32).filter fun k => n ≤ k,
           channels := min 32 ch, spareChannels := min 2 (ch - 32), lostBytes := (32 - ch) * (stackBytes / 32) }

/-- One step of boot (R406); one whose verification has failed stays at step 1. The test of step 4 is made as step 5 begins, which
publishes the working dies (R407). -/
def State.bootStep (s : State) (ok : Bool) (tested : List (Nat × Nat)) : State :=
  match s.boot with
  | 0 => { s with boot := 1, measure4 := List.replicate 64 0 }
  | 1 => if s.bootFail then s else if ok then { s with boot := 2 } else { s with bootFail := true }
  | 2 => { s with boot := 3 }
  | 3 => { s with boot := 4 }
  | 4 =>
    let s := (List.range 8).foldl (fun s d => s.setDie d ((s.die d).tested (tested.getD d (0, 0)).1 (tested.getD d (0, 0)).2))
      ({ s with boot := 5 } : State)
    { s with bootDies := !s.workingDies.isEmpty }
  | 5 =>
    let s := ({ s with boot := 6 } : State).publish
    { s with measure3 := shake64 s.config }
  | _ => s

/-- `BOOT` (R406): power-on or PERST# starts it anew, and each further event carries out the next step. The contents of
HBM5 and host memory stand through PERST# (PRESUMED, assumption 18). -/
def execBoot (perst ok : Bool) (tested : List (Nat × Nat)) (s : State) : Host.Outcome State Fault Refusal :=
  .next (if perst then
      ({ State.reset with hostMem := s.hostMem, mem := s.mem, agenda := s.agenda, turns := s.turns, fresh := s.fresh,
                          uid := s.uid } : State).bootStep ok tested
    else s.bootStep ok tested)

/-- `LINK_TRAIN_TIMEOUT` (R406 step 3): a die whose link does not train is left out. -/
def execLinkTrainTimeout (die : Nat) (s : State) : Host.Outcome State Fault Refusal :=
  .next (if s.boot == 3 then s.setDie die { s.die die with leftOut := true } else s)

end Sys2Proof.Machine
end

