-- ==== Sys2Proof/Machine/Rounds.lean ====
section
/-! DEFINITION. The end of an auction round (R106 to R112) and the boundary evaluation with its die changes (R68, R69,
R94). -/

namespace Sys2Proof.Machine

/-- Change a task and its image. -/
def State.modSaved (s : State) (tid : Nat) (f : Task → Task) : State :=
  let s := s.modTask tid f
  { s with images := Assoc.modify s.images tid fun x => { x with task := f x.task } }

/-! ### Bids and heartbeats of a round -/

/-- A task's bid ends its round (R108, R333): its result is kept, or discarded for a later bid that is then posted. -/
def Bid.ended (b : Bid) (key own : BitVec 43) : Bid :=
  match b.st with
  | .entered =>
    match b.next with
    | some v => { b with bid := v, st := .posted, next := none }
    | none => { b with st := .result key (own == key) }
  | _ => b

/-- Every task's bid of a round is answered. -/
def State.answer (s : State) (n : Nat) (key : BitVec 43) (es : List Entrant) : State :=
  es.foldl (fun s e =>
    match e.task with
    | some tid => s.modSaved tid (·.modBid n fun b => b.ended key e.key)
    | none => s) s

/-- The presence mask as a key (R111): die d drives key bit 42 − d, the hub is die 8. -/
def State.presence (s : State) (silent : BitVec 8) : BitVec 43 :=
  BitVec.ofNat 43 (2 ^ 34 + ((s.workingDies.filter fun d => !silent.getLsbD d).map fun d => 2 ^ (42 - d)).sum)

/-- A heartbeat round counts the absent dies; the third in a row makes a die silent, and it is failed (R111, R379). -/
def State.heartbeat (s : State) (silent : BitVec 8) : State :=
  s.workingDies.foldl (fun s d =>
    let x := s.die d
    if silent.getLsbD d then
      let s := s.setDie d { x with absent := x.absent + 1 }
      if 2 ≤ x.absent then s.failDie d 19 else s
    else s.setDie d { x with absent := 0 }) s

/-! ### Die changes (R94) -/

/-- The surviving granted die with the fewest resident tasks, ties to the lower number. -/
def State.survivor (s : State) (lr d : Nat) : Option Nat :=
  ((s.lrec lr).onDies.filter fun x => s.dieWorks x && x != d).foldl (fun (b : Option Nat) x =>
    match b with
    | none => some x
    | some y => if s.onDie x < s.onDie y || (s.onDie x == s.onDie y && decide (x < y)) then some x else some y) none

/-- A task of a launch leaves a die that is withdrawn, for die `h`: one on its core is cut, or moves when the cut in progress ends;
one without a core moves at once (R94). -/
def State.leaveDie (s : State) (h tid : Nat) (t : Task) : State :=
  match t.life with
  | .running | .ending => s.startCut tid .withdraw
  | .cut | .halted => (s.dropDiePhasers tid).modTask tid fun t => { t with die := h }
  | .cutting _ => s

/-- A die is withdrawn from a launch: its virtual numbers are rebound (R16), and its tasks of the launch resume on the die that their
number then names. Other launches of the context hold the die until a boundary of their own. -/
def State.withdrawDie (s : State) (lr d : Nat) : State :=
  match s.survivor lr d with
  | some h =>
    let s := s.rebindTo ((s.lrec lr).ctx.getD 0) d h (s.lrec lr).granted
    let r := s.lrec lr
    let s := s.setRec lr { r with dies := r.dies - 1, onDies := r.onDies.filter (· != d) }
    (s.tasks.filter fun e => e.2.lr == lr && e.2.die == d).foldl (fun s e =>
      s.leaveDie ((s.physDie e.2.ctx e.2.vdie).getD h) e.1 e.2) s
  | none => s

/-- A die is added to a launch under the lowest invalid virtual number, if one is left. -/
def State.addDie (s : State) (lr d : Nat) : State :=
  let r := s.lrec lr
  let cid := r.ctx.getD 0
  match Assoc.find s.ctxs cid with
  | none => s
  | some c =>
    match (List.range 8).find? fun v => !Assoc.has c.vdies v with
    | none => s
    | some v =>
      ({ s with ctxs := Assoc.put s.ctxs cid { c with vdies := Assoc.put c.vdies v d } } : State).setRec lr
        { r with dies := r.dies + 1, granted := r.granted ++ [v], onDies := r.onDies ++ [d] }

/-- The running launches of a governor class, in ascending order of record: their changes are settled in this order (DESIGN CHOICE,
assumption 70: the spec gives none). -/
def State.launchesOf (s : State) (cls : Nat) : List Nat :=
  (s.recs.filter fun e => e.2.kind == 0 && e.2.gclass == cls && e.2.state == .running).map (·.1)

/-! ### The boundary evaluation (R68, R69, R94, R376) -/

/-- The contexts that have a live launch of a class. -/
def State.classCtxs (s : State) (cls : Nat) : List Nat :=
  s.allCtxs.filter fun c => s.recs.any fun e => e.2.live && e.2.kind == 0 && e.2.gclass == cls && e.2.ctx == some c

/-- A record of each poisoned PSR an evaluation skips (R376). -/
def State.tellPoisoned (s : State) (cls : Nat) : State :=
  (s.poison.filter fun e => match e.1 with
    | .psr l r => (s.psr (psrKey l r)).cls == cls
    | _ => false).foldl (fun s e => (s.classCtxs cls).foldl (fun s c => s.post c (s.checkRecord e.2 e.1)) s) s

/-- The end of an evaluation: the completing `gvstep` returns, and a target written meanwhile takes effect (R68). A PSR_WRITE that waits
for it has its turn next, before another evaluation begins (R62). -/
def State.endEvaluation (s : State) (cls : Nat) : State :=
  let g := s.govClass cls
  let s := match g.due.head?.bind (·.task) with
    | some t => s.modSaved t fun t => if t.gvDone.isSome then { t with gvDone := some 1 } else t
    | none => s
  let waits := (Assoc.get Ring.start s.rings 0).psrWait.isSome
  let s := ({ s with evaluation := none, agenda := if waits then .ring 0 :: s.agenda else s.agenda } : State).setClass cls
    { g with due := g.due.drop 1, ended := g.ended + 1 }
  match g.newTarget with
  | some n => s.applyTarget cls n
  | none => s

/-- What an evaluation does when no round of number 62 is left to run: the decisions are made, and then the die changes of the
class's launches are settled one by one, each in a round of number 61 (R69, R94). -/
def State.evalNext (s : State) : State :=
  match s.evaluation.filter (·.psr.isNone) with
  | none => s
  | some v =>
    let (s, ls) := match v.changes with
      | none => let s := s.decideAll v; (s, s.launchesOf v.cls)
      | some ls => (s, ls)
    match ls.dropWhile fun lr => (s.changes lr).isEmpty with
    | [] => s.endEvaluation v.cls
    | ls => { s with evaluation := some { v with changes := some ls } }

/-- A round of number 61 has latched a key: the change of the winning die is made, and the next launch's follows (R94). A die that won
with a bid of a change that the allowance has ended meanwhile is changed too (R110). -/
def State.settleChange (s : State) (key : Nat) : State :=
  match s.evaluation with
  | some v =>
    match v.changes with
    | some (lr :: rest) =>
      let r := s.lrec lr
      let d := keyDie key
      let s := if r.state != .running then s
        else if 2 ^ 31 ≤ keyBid key then (if s.mayLose r d then s.withdrawDie lr d else s)
        else if s.mayGain r d then s.addDie lr d else s
      ({ s with evaluation := some { v with changes := some rest } } : State).evalNext
    | _ => s
  | none => s

/-- Begin the evaluation that is due in a class, when none runs: one runs at a time (DESIGN CHOICE, assumption 72). -/
def State.boundary (s : State) (cls : Nat) : State :=
  if s.evaluation.isSome || (s.govClass cls).due.isEmpty then s
  else
    let v : Evaluation := { cls := cls, psr := s.psrFrom cls 0, wins := [], agreed := [], changes := none }
    ({ s.tellPoisoned cls with evaluation := some v } : State).evalNext

/-- `BOUNDARY_EVALUATION` (R69). -/
def execBoundaryEvaluation (cls : Nat) (s : State) : Host.Outcome State Fault Refusal := .next (s.boundary cls)

/-! ### The end of a round -/

/-- What a latched key of a firmware number does: the election is over, a die change is made, or a PSR's evidence is agreed; a
heartbeat counts the absent dies (R69, R94, R111, R380). -/
def State.latched (s : State) (n : Nat) (key : BitVec 43) (silent : BitVec 8) : State :=
  match n with
  | 60 => { s with elections := s.elections.drop 1 }
  | 61 => s.settleChange key.toNat
  | 62 => (s.agree key.toNat).evalNext
  | 63 => s.heartbeat silent
  | _ => s

/-- The end of b51 of a lane's round. With one wire retired voids are no longer detected (R110). -/
def State.endRound (s : State) (lane : Nat) (bad : Bool) (silent : BitVec 8) : State :=
  let l := s.lane lane
  match if l.rerun || l.testing then none else l.round with
  | none => s
  | some (n, es) =>
    if bad && l.retiredWires == 0 then
      s.setLane lane { l with voids := l.voids + 1, run := l.run + 1, rerun := true }
    else
      let key := if n == 63 then s.presence silent else BitVec.ofNat 43 (bestKey (es.map (·.key.toNat)))
      ((s.setLane lane { l with number := n, key := key, round := none, run := 0 }).answer n key es).latched n key silent

/-- `AUCTION_ROUND_END` (R106). -/
def execAuctionRoundEnd (lane : Fin 4) (bad : Bool) (silent : BitVec 8) (s : State) : Host.Outcome State Fault Refusal :=
  .next (s.endRound lane.val bad silent)

end Sys2Proof.Machine
end

