-- ==== Sys2Proof/Machine/Token.lean ====
section
/-! DEFINITION. The TOKEN group (R117, R167, R286, R296, R397). -/

namespace Sys2Proof.Machine

/-- The index of the token queue from one sequencer to another (R332). -/
def tokenQueue (s d : Seq) : Nat := if d.code < s.code then 3 * s.code + d.code else 3 * s.code + d.code - 1

/-- The tokens of a queue, oldest first. -/
def Task.tokensOf (t : Task) (k : Nat) : List (List Nat) := Assoc.get [] t.tokens k

/-- Replace the tokens of a queue. -/
def Task.setTokens (t : Task) (k : Nat) (l : List (List Nat)) : Task := { t with tokens := Assoc.set [] t.tokens k l }

/-- Whether an operand of a store walk from number `j` on lies in the task's scratchpad, in whole or in part. -/
def AgSet.inSpad (a : AgSet) (j : Nat) : Bool := (List.range (a.par.operands - j)).any fun i => a.par.inSpad true (j + i)

/-- The scratchpad writes a sequencer has issued that have not landed (R286). -/
def Task.spadWrites (t : Task) (q : Seq) : List Nat :=
  let held := (t.sq q).held.filterMap fun h => match h.acc with
    | .store _ _ _ (.spad _) => some h.uid
    | _ => none
  let walks := (gensOf q).flatMap fun g =>
    if g < 4 then []
    else (((t.gen g).active.toList.filter (·.inSpad (t.gen g).pos)) ++ (t.gen g).queued.toList.filter (·.inSpad 0)).map (·.uid)
  held ++ walks

/-- Whether no scratchpad write of a generator's walk is on its way any longer: the rest lies elsewhere, or its last one there
stands at its bank, held on a reservation (R221). -/
def Gen.spadOver (x : Gen) : Bool := x.active.any fun a => !a.inSpad (if x.held && x.busy then x.pos + 1 else x.pos)

/-- The outstanding accesses whose scratchpad writes have landed or are held on a reservation (R221, R286). The accesses of the K-seq are performed in
order, so that only what follows none but held stores has reached its bank. -/
def Task.heldWrites (t : Task) : List Nat :=
  (t.kq.held.takeWhile t.heldStore).map (·.uid) ++
  (((gensOf .w).map t.gen).filter Gen.spadOver).flatMap fun x => x.active.toList.map (·.uid)

/-- Whether a token may be taken: the writes before its give have landed or are held on a reservation (R286). -/
def Task.tokenReady (t : Task) (deps : List Nat) : Bool :=
  deps.all fun u => !t.outstanding.contains u || t.heldWrites.contains u

/-- `tgive seq` (R167, R296). -/
def execTgive (w : Stall) (q : Seq) (s : State) : Host.Outcome State Fault Refusal :=
  s.issue w (scalars []) fun s tid me t =>
    let k := tokenQueue me q
    let l := t.tokensOf k
    if (t.sq me).fencing then .wait s .tgive
    else if t.tt.slip ≤ l.length then .wait s .tgive
    else .done (s.modTask tid (·.setTokens k (l ++ [t.spadWrites me])))

/-- `ttake seq` (R167). -/
def execTtake (w : Stall) (q : Seq) (s : State) : Host.Outcome State Fault Refusal :=
  s.issue w (scalars []) fun s tid me t =>
    let k := tokenQueue q me
    match t.tokensOf k with
    | [] => .wait s .ttake
    | d :: rest => if t.tokenReady d then .done (s.modTask tid (·.setTokens k rest)) else .wait s .ttake

/-- `tcnt xd, seq, dir` (R167): `e` is true for in. -/
def execTcnt (w : Stall) (d : SReg) (e : Bool) (q : Seq) (s : State) : Host.Outcome State Fault Refusal :=
  s.issue w (scalars [d]) fun s tid me t =>
    let k := if e then tokenQueue q me else tokenQueue me q
    .done (s.result tid me 1 d (BitVec.ofNat 64 (t.tokensOf k).length))

/-- `TOKEN_WAIT_COMPLETE` (R117): a waiting give or take is tried again. -/
def execTokenWaitComplete (t : Nat) (q : Seq) (s : State) : Host.Outcome State Fault Refusal :=
  .next (s.wake t q fun r => r == .ttake || r == .tgive)

end Sys2Proof.Machine
end

