-- ==== Sys2Proof/Machine/Events.lean ====
section
/-! DEFINITION. The events of the issue clock (R148 to R150, R330 to R332), the end of tasks and launches (R83, R156, R399),
placement (R97 to R99) and page moves (R259). -/

namespace Sys2Proof.Machine

/-! ### The issue clock -/

/-- `STALL_COUNT_EXPIRY` (R148). -/
def execStallCountExpiry (t : Nat) (q : Seq) (s : State) : Host.Outcome State Fault Refusal :=
  .next (match Assoc.find s.tasks t with
    | some x => if x.issues q && !(s.die x.die).halted then s.expireStall t q else s
    | none => s)

/-- The issue-clock cycle at which the next write of a sequencer lands. -/
def SeqState.nextLand (x : SeqState) : Option Nat :=
  ((x.late.take 1).map (·.land) ++ x.ilk.filterMap (·.land)).foldl (fun b n => some (match b with
    | some m => min m n
    | none => n)) none

/-- The next write of a sequencer lands: at once when its cycle has come, and inside a stall count when its cycle lies there
(R148, R149, R277). -/
def Task.landNext (t : Task) (q : Seq) : Task :=
  let x := t.sq q
  match x.nextLand with
  | none => t
  | some n =>
    let k := n - x.clk
    if k ≤ x.stall then (t.setSq q { x with clk := x.clk + k, stall := x.stall - k }).land q else t

/-- `RESULT_LAND` (R149). The issue clock of a task that does not issue stands. -/
def execResultLand (t : Nat) (q : Seq) (s : State) : Host.Outcome State Fault Refusal :=
  .next (match Assoc.find s.tasks t with
    | some x => if x.issues q && !(s.die x.die).halted then s.setTask t (x.landNext q) else s
    | none => s)

/-- The first interlocked result that has arrived and has no stated cycle (R150). -/
def SeqState.returned (x : SeqState) : Option Ilk := x.ilk.find? fun i => i.val.isSome && i.land.isNone

/-- An interlocked result is written, and its register is no longer pending (R150). -/
def SeqState.writeResult (x : SeqState) (i : Ilk) : SeqState := { (x.setReg i.code (i.val.getD 0)) with ilk := x.ilk.erase i }

/-- An interlocked result returns: the first that has arrived is written; with none, the oldest request of a K-seq reaches the hub
(R150, R169). -/
def State.returnResult (s : State) (tid : Nat) (q : Seq) : State :=
  match (Assoc.find s.tasks tid).filter s.moves with
  | none => s
  | some t =>
    match (t.sq q).returned with
    | some i => s.modSq tid q (·.writeResult i)
    | none => if q == .k then s.hubArrive tid t else s

/-- `INTERLOCKED_RESULT` (R150). -/
def execInterlockedResult (t : Nat) (q : Seq) (s : State) : Host.Outcome State Fault Refusal := .next (s.returnResult t q)

/-! ### The stall time-out (R330 to R332) -/

/-- The reason code of a wait (R332); 0 for those that do not count (R330). -/
def Wait.code : Wait → Nat
  | .ttake => 1 | .pop _ => 2 | .push _ => 3 | .phaser => 4 | .superstep => 5 | .monitor => 6 | .mwait => 7 | .cewait => 8
  | .gemvwait => 9 | .lotreq => 10 | .ag => 11 | .mcommit => 12 | .bidw => 13
  | .tgive | .wqpop | .gvstep | .tend | .rft | .interlock | .fence | .bidFull => 0

/-- The reason code of a sequencer. Its BLK bit is set when the code is not 0 (DEDUCED, assumption 19). -/
def SeqState.reason (x : SeqState) : Nat := (x.wait.map Wait.code).getD 0

/-- The instruction a sequencer stands at: by the words it was fetched with while it waits (R130). -/
def State.instrAt (s : State) (t : Task) (q : Seq) : Option Instr :=
  match (t.sq q).words, s.fetch t q with
  | some w, _ => (decode q (w.toNat % 2 ^ 32) (w.toNat / 2 ^ 32)).toOption
  | none, .words w v => (decode q w v).toOption
  | none, _ => none

/-- The number of a location inside its array. -/
def Loc.addr : Loc → Nat
  | .hbm pa | .l1 _ _ pa => pa
  | .scratch _ o => windowAddr o
  | .acc _ w => windowAddr (0x100000 + 8 * w)
  | .md _ o => windowAddr (0x140000 + o)
  | .cluster _ _ _ o => 0xFF1 * 2 ^ 48 + o
  | .stripe _ _ o => 0xFF2 * 2 ^ 48 + o
  | .wq q _ => q
  | .psr l r => psrKey l r
  | .record lr _ => lr
  | .kernel _ _ w => w
  | .flow _ f _ => f
  | .tlb _ _ _ page => page
  | .rcache _ a => a

/-- The blocking operand of a sequencer (R331): a port code, or what its instruction names. -/
def State.object (s : State) (t : Task) (q : Seq) : Nat :=
  let x := t.sq q
  let rd (a : SReg) : Nat := (x.rd a).toNat
  match x.wait with
  | some (.pop ps) => ps.headD 0
  | some (.push p) => p
  | some .monitor => (t.mon.sector.map Loc.addr).getD 0
  | some w =>
    if w.code == 0 then 0
    else match s.instrAt t q with
      | some (.ttake _ d) => tokenQueue d q
      | some (.phsig _ a) | some (.phwait _ _ a) | some (.phsw _ _ a) | some (.ssarr _ _ a) | some (.sswait _ _ a)
      | some (.cewait _ a) | some (.cwait _ a) => rd a
      | some (.cego _ _ a) | some (.hist _ _ a) | some (.mdld _ _ a _) | some (.cwalk _ _ a) => rd a
      | some (.bid _ a _) | some (.bidw _ _ a) => bits (rd a) 5 0
      | some (.mwait _ a) | some (.gemvwait _ a) => rd (.lc a)
      | some (.mcommit _ _) => (t.batchCtr + 1).toNat
      | some (.mma _ d _ _ _) => d.val
      | some (.gemvgo _ _ o) => 256 * o.toNat
      | some (.lotreq _ n) => n.val
      | some (.aggo _ g) | some (.agwait _ g) | some (.agstop _ g) => g.val
      | _ => 0
  | none => 0

/-- The head of an engine (R331). -/
def Task.head (t : Task) (e : Engine) : Nat :=
  match t.eng.find? fun o => o.engine == e with
  | some o => 2 ^ 63 + (if o.started then 2 ^ 62 else 0) + o.seq * 2 ^ 60 + o.block.getD 0 % 2 ^ 20 * 2 ^ 32 + o.num.toNat
  | none => 0

/-- Bits of a list of conditions, the first lowest. -/
def bitList (l : List Bool) : Nat := l.foldr (fun b n => (if b then 1 else 0) + 2 * n) 0

/-- The orphan takes (R332): the queue of a blocked `ttake` that holds no token and whose giver waits itself, be it in a wait
that R330 exempts (DEDUCED, assumption 19). -/
def State.orphanTakes (s : State) (t : Task) : Nat :=
  bitList ((List.range 12).map fun k => (t.tokensOf k).isEmpty && Seq.all.any fun d => (t.sq d).wait == some .ttake &&
    (match s.instrAt t d with
     | some (.ttake _ g) => tokenQueue g d == k && (t.sq g).wait.isSome
     | _ => false))

/-- Whether a load port is one that a waiting instruction lacks an operand of. -/
def SeqState.popsFrom (x : SeqState) (j : Nat) : Bool :=
  match x.wait with
  | some (.pop ps) => ps.contains (32 + j)
  | _ => false

/-- The orphan pops of the ports (R332): load ports, then store ports. -/
def Task.orphanPops (t : Task) : Nat :=
  bitList (((List.range 4).map fun j => t.cq.popsFrom j &&
      (let g := t.gen j
       (g.active.isNone && g.queued.isNone) || g.halt.isSome)) ++
    ((List.range 4).map fun j => (t.gen (4 + j)).active.isSome && (t.storePort j).isEmpty && t.cq.wait.isSome))

/-- The words of a hang record (R331). -/
def State.hangWords (s : State) (t : Task) : List Nat :=
  let pc (q : Seq) : Nat := (t.sq q).pc.toNat
  let fill := ((List.range 4).map fun j => (t.loadPort j).length) ++
    ((List.range 4).map fun j => ((t.storePort j).filter fun e => e.op.isSome).length)
  let pack (w : Nat) (l : List Nat) : Nat := l.foldr (fun v n => v + 2 ^ w * n) 0
  let tc := pack 8 ((List.range 12).map fun k => (t.tokensOf k).length)
  let reasons := Seq.all.map fun q => (t.sq q).reason
  let low := t.lr + t.die * 2 ^ 14 + t.vdie * 2 ^ 18 + t.core * 2 ^ 21 + t.slot * 2 ^ 26 + 2 ^ 28 +
    bitList (reasons.map (· != 0)) * 2 ^ 32 + pack 4 reasons * 2 ^ 36
  let waits := Seq.all.map fun q => if (t.sq q).reason != 0 then (t.sq q).waited else 0
  let lotw := t.cq.wait == some .lotreq
  let w9 := s.orphanTakes t + t.orphanPops * 2 ^ 12 + bitList (Seq.all.map t.marked) * 2 ^ 20 + (if lotw then 2 ^ 24 else 0)
  let oldb := ((t.batches.head?.bind (·.num)).getD t.batchCtr).toNat
  [t.wid.toNat, pc .k, pc .l, pc .w, pc .c, low, waits.foldl max 0, tc % 2 ^ 64, tc / 2 ^ 64 + pack 3 fill * 2 ^ 32,
   w9, t.head .copy, t.head .hist, t.head .gemv, t.head .tmu, t.batchCtr.toNat + oldb * 2 ^ 32, t.evt.toNat,
   s.object t .k, s.object t .l, s.object t .w, s.object t .c]

/-- The sequencer with a wait noted as recorded: its own, when that has reached `n` cycles and has no record yet, or else the first
behind a mark that has (R330). -/
def SeqState.recordWait (x : SeqState) (n : Nat) : Option SeqState :=
  if x.reason != 0 && !x.hung && decide (n ≤ x.waited) then some { x with hung := true }
  else (x.markWaits.find? fun e => !x.markHung.contains e.1 && decide ((n : Int) + e.2 ≤ x.clk + 1)).map fun e =>
    { x with markHung := e.1 :: x.markHung }

/-- Whether a wait of a sequencer has reached STO and has no record yet; an STO of 0 disables the time-out (R330, R392). -/
def Task.timedOut (t : Task) (q : Seq) : Option SeqState :=
  if t.sto == 0 || !t.resident then none else (t.sq q).recordWait t.sto.toNat

/-- A hang record is written for a wait of a sequencer (R330). -/
def State.hang (s : State) (tid : Nat) (q : Seq) : State :=
  match (Assoc.find s.tasks tid).map (·.countMarks q) with
  | none => s
  | some t =>
    match t.timedOut q with
    | none => s.setTask tid t
    | some x =>
      (s.setTask tid (t.setSq q x)).postBytes t.ctx ((s.hangWords t ++ List.replicate 12 0).flatMap (toBytes 8)) 1

/-- `STALL_TIMEOUT` (R330). -/
def execStallTimeout (t : Nat) (q : Seq) (s : State) : Host.Outcome State Fault Refusal := .next (s.hang t q)

/-! ### Tasks and launches end (R83, R156, R399) -/

/-- `TASK_RETIRE` (R156): a waiting `tend` has its turn next. -/
def execTaskRetire (t : Nat) (s : State) : Host.Outcome State Fault Refusal := .next (s.wake t .k (· == .tend))

/-- The CP applies the retirement that arrived first; one of a launch that has ended, or whose dispatch a cancellation has stopped, is
discarded (R399). -/
def State.applyRetirement (s : State) : State :=
  match s.retirements with
  | [] => s
  | x :: rest =>
    let s := { s with retirements := rest }
    let r := s.lrec x.lr
    if r.armcnt != x.arming || r.state != .running || r.ready.isNone then s
    else
      let r := { r with retired := r.retired + 1, held := r.held + x.hold }
      let s := s.setRec x.lr r
      if r.retired == r.total then (s.cpPush [.fire x.lr, .finish x.lr]).runCp cpFuel else s

/-- `RETIREMENT` (R399). -/
def execRetirement (s : State) : Host.Outcome State Fault Refusal := .next s.applyRetirement

/-- A held completion push lands once its queue has room, or its target has passed to another context; the launch then
completes (R83). -/
def State.landPush (s : State) (lr : Nat) : State :=
  let r := s.lrec lr
  if !r.pushHeld then s
  else
    let s := (s.setRec lr { r with pushHeld := false }).fire lr
    if (s.lrec lr).pushHeld then s else (s.cpPush [.finish lr]).runCp cpFuel

/-- `COMPLETION_PUSH_LAND` (R83). -/
def execCompletionPushLand (lr : Nat) (s : State) : Host.Outcome State Fault Refusal := .next (s.landPush lr)

/-- `TASK_PLACEMENT` (R97 to R99). -/
def execTaskPlacement (lr : Nat) (s : State) : Host.Outcome State Fault Refusal := .next (s.dispatch lr)

/-! ### Page moves (R259) -/

/-- The leaf entry of an address: its own address, its content, and its lowest index bit. -/
def State.leafOf (s : State) (table va : Nat) : List (Nat × Nat × Nat) → Option (Nat × Nat × Nat)
  | [] => none
  | (level, shift, n) :: rest =>
    let ea := table + 8 * bits va (shift + n - 1) shift
    let e := leNat (s.physRead ea 8)
    if isHostPa ea || !s.paOk ea || !bitAt e 0 || malformed level shift e then none
    else if bitAt e 1 then some (ea, e, shift)
    else State.leafOf s (bits e 51 8 * 256) va rest

/-- The leaf of a virtual address, which lies in the translated region (R242). -/
def State.pageOf (s : State) (root va : Nat) : Option (Nat × Nat × Nat) :=
  if regionOf va == 0 then s.leafOf root va walkLevels else none

/-- The tables below and with a table, as physical address and size. -/
def State.tablesOf (s : State) (table : Nat) : List (Nat × Nat × Nat) → List (Nat × Nat)
  | [] => []
  | (level, shift, n) :: rest =>
    (table, 8 * 2 ^ n) :: (List.range (2 ^ n)).flatMap fun i =>
      let ea := table + 8 * i
      let e := leNat (s.physRead ea 8)
      if isHostPa ea || !inHbm ea || !bitAt e 0 || malformed level shift e || bitAt e 1 then []
      else State.tablesOf s (bits e 51 8 * 256) rest

/-- Whether a frame overlaps nothing that a context maps or translates through. -/
def frameFree (used : List (Nat × Nat)) (pa size : Nat) : Bool :=
  used.all fun u => decide (pa + size ≤ u.1) || decide (u.1 + u.2 ≤ pa)

/-- The first free frame of a stack from frame `k` on, of `n`. -/
def findFrame (fuel : Nat) (used : List (Nat × Nat)) (base size n k : Nat) : Option Nat :=
  match fuel with
  | 0 => none
  | fuel + 1 =>
    let pa := base + k % n * size
    if frameFree used pa size then some pa else findFrame fuel used base size n (k + 1)

/-- A free frame of a stack for a page: which one is firmware's choice. -/
def State.pickFrame (s : State) (stack size : Nat) : Option Nat :=
  let used := s.ctxs.flatMap fun e => (s.leavesOf e.2.root walkLevels).map (·.2) ++ s.tablesOf e.2.root walkLevels
  let n := (stackBytes - (s.die stack).lostBytes) / size
  if n == 0 || !s.dieWorks stack then none
  else findFrame n used (stack * 2 ^ 37) size n (Config.freeChoice s.fresh)

/-- The sectors of a page that a core's L1 holds. -/
def State.heldOf (s : State) (ck pa size : Nat) : List Nat :=
  (s.lines ck).flatMap fun l => ((if l.s0.valid then [128 * l.line] else []) ++
    (if l.s1.valid then [128 * l.line + 64] else [])).filter fun a => pa ≤ a && decide (a < pa + size)

/-- Recall one sector from a core: it is written back when it is a dirty streaming one, and invalidated. For a die whose link sleeps
the hub holds the recall, and wakes the link (R259, R379). -/
def State.recallSector (s : State) (ck a : Nat) : State :=
  let x := s.die (ck / 32)
  if !x.linkAsleep then s.flushSector ck a
  else if x.snoops.contains (ck, a) then s
  else s.setDie (ck / 32) { x with snoops := x.snoops ++ [(ck, a)] }

/-- Recall a page from every L1. -/
def State.recallPage (s : State) (pa size : Nat) : State :=
  (s.l1.map (·.1)).foldl (fun s ck => (s.heldOf ck pa size).foldl (fun s a => s.recallSector ck a) s) s

/-- Whether an L1 still holds a sector of a page: its recall waits for a sleeping link. -/
def State.pageHeld (s : State) (pa size : Nat) : Bool := (s.l1.map (·.1)).any fun ck => !(s.heldOf ck pa size).isEmpty

/-- A location moved with its page. -/
def movedLoc (old new size : Nat) (l : Loc) : Loc :=
  match l with
  | .hbm pa => if old ≤ pa && decide (pa < old + size) then .hbm (new + (pa - old)) else l
  | _ => l

/-- Whether a location lies in a page. -/
def locIn (pa size : Nat) (l : Loc) : Bool :=
  match l with
  | .hbm x => pa ≤ x && decide (x < pa + size)
  | _ => false

/-- Point every leaf that maps a page at its new frame, in the tables of every context (R259). -/
def State.remapLeaves (s : State) (old size new : Nat) : State :=
  let eas := (s.ctxs.flatMap fun e => s.leavesOf e.2.root walkLevels).filterMap fun x =>
    if x.2.1 == old && x.2.2 == size then some x.1 else none
  eas.eraseDups.foldl (fun s ea => s.physWrite ea (toBytes 8 (leNat (s.physRead ea 8) - old + new))) s

/-- Copy a recalled page to a new frame, with its marks and monitors, and point the tables and the TLBs there (R259). -/
def State.copyPage (s : State) (old size new : Nat) : State :=
  let s := (s.physWrite new (s.physRead old size)).remapLeaves old size new
  let tlb (l : List TlbEntry) : List TlbEntry :=
    l.map fun x => if old ≤ x.pbase && decide (x.pbase + x.size ≤ old + size) then { x with pbase := new + (x.pbase - old) } else x
  let mon (t : Task) : Task := { t with mon := { t.mon with sector := t.mon.sector.map (movedLoc old new size) } }
  { s with coreTlb := s.coreTlb.map fun x => (x.1, tlb x.2),
           dieTlb := s.dieTlb.map fun x => (x.1, tlb x.2),
           poison := (s.poison.filter fun m => !locIn new size m.1).map fun m => (movedLoc old new size m.1, m.2),
           tasks := s.tasks.map fun x => (x.1, mon x.2) }

/-- How a page move comes out: it cannot be, it waits for a sleeping link to give the page up, or it is done. -/
inductive Move where
  | refused
  | waiting (s : State)
  | moved (s : State)

/-- Move the page of an address of a context to a frame of a stack. It cannot be when the address has no leaf of the size asked for,
or there is no frame. -/
def State.movePage (s : State) (ctx va stack : Nat) (sizeOk : Nat → Bool) : Move :=
  match (Assoc.find s.ctxs ctx).bind fun c => s.pageOf c.root va with
  | none => .refused
  | some (_, e, shift) =>
    let size := 2 ^ shift
    let old := bits e 51 8 * 256
    match if sizeOk shift && s.paOk old then s.pickFrame stack size else none with
    | none => .refused
    | some new =>
      let s := s.recallPage old size
      if s.pageHeld old size then .waiting s else .moved (({ s with fresh := s.fresh + 1 } : State).copyPage old size new)

/-- `PAGE_MIGRATION_COMPLETE` (R259): firmware's move of a page inside its stack, for a channel it spares. -/
def execPageMigrationComplete (ctx : Nat) (va : Word) (s : State) : Host.Outcome State Fault Refusal :=
  let stack := match (Assoc.find s.ctxs ctx).bind fun c => s.pageOf c.root va.toNat with
    | some (_, e, _) => let pa := bits e 51 8 * 256
                        if isHostPa pa then 8 else stackOf pa
    | none => 8
  .next (match s.movePage ctx va.toNat stack fun _ => true with
    | .refused => s
    | .waiting s => s
    | .moved s => s)

end Sys2Proof.Machine
end

