-- ==== Sys2Proof/Machine/Pitch.lean ====
section
/-! DEFINITION. Packets at the Ultra Ethernet ports (R353, R361), the pitch processors and their kernels (R354 to R359), and
the checks of a kernel image (R357). -/

namespace Sys2Proof.Machine

/-! ### Flow entries (R353) -/

/-- A flow entry of a port. -/
def State.flow (s : State) (port f : Nat) : Flow := Assoc.get { ctl := 0, state := [] } s.flows (4096 * port + f)

/-- Replace a flow entry. -/
def State.setFlow (s : State) (port f : Nat) (x : Flow) : State :=
  { s with flows := Assoc.set { ctl := 0, state := [] } s.flows (4096 * port + f) x }

/-- Bits [hi:lo] of a flow's control word. -/
def Flow.f (x : Flow) (hi lo : Nat) : Nat := bits x.ctl.toNat hi lo

def Flow.job (x : Flow) : Nat := x.f 127 112
def Flow.valid (x : Flow) : Bool := x.f 111 111 == 1
def Flow.drops (x : Flow) : Bool := x.f 109 109 == 1
def Flow.budget (x : Flow) : Nat := x.f 108 100
def Flow.entry (x : Flow) : Nat := x.f 99 86
def Flow.seq (x : Flow) : BitVec 32 := BitVec.ofNat 32 (x.f 31 0)

/-- A half of a flow's state as 16 lanes. -/
def Flow.half (x : Flow) (h : Nat) : List (BitVec 32) :=
  (List.range 16).map fun i => BitVec.ofNat 32 (leNat (readBytes x.state (64 * h + 4 * i) 4))

/-- Store lanes under a mask into a half of a flow's state. -/
def Flow.store (x : Flow) (h : Nat) (mask : BitVec 16) (v : List (BitVec 32)) : Flow :=
  { x with state := v.zipIdx.foldl (fun m e =>
      if mask.getLsbD e.2 then writeBytes m (64 * h + 4 * e.2) (toBytes 4 e.1.toNat) else m) x.state }

/-- A pitch processor, 2 × port + processor. -/
def State.pitch (s : State) (p : Nat) : Pitch := Assoc.get Pitch.start s.pitches p

/-- Replace a pitch processor. -/
def State.setPitch (s : State) (p : Nat) (x : Pitch) : State := { s with pitches := Assoc.set Pitch.start s.pitches p x }

/-! ### Delivery (R342, R353, R361) -/

/-- The context of a job on this package (R336). -/
def State.ctxOfJob (s : State) (job : Nat) : Option Nat := (s.ctxs.find? fun e => e.2.job == job).map (·.1)

/-- Deliver a packet with a payload as its transport headers direct: a packet of a walk becomes a landing at this package,
when the launch belongs to a context of the walk's job (R336), or goes on to its package; any other leaves the model. -/
def State.deliver (s : State) (port : Nat) (pkt : Packet) (payload : List Byte) : State :=
  match pkt.hdr with
  | none => { s with delivered := s.delivered ++ [(port, { pkt with payload := payload })] }
  | some h =>
    if h.pkg != s.pkgIndex then
      { s with egress := s.egress ++ [{ pkg := h.pkg, port := none, rod := pkt.mode == .rod, flow := pkt.walkFlow,
                                        hdr := pkt.hdr, bytes := payload }] }
    else
      match (s.lrec h.lrec).ctx with
      | none => s
      | some c =>
        if s.jobOf c != h.job then s
        else
          let x : Xfer := { id := s.nextXfer, pkg := s.pkgIndex, sender := none, job := h.job, lrec := h.lrec, wid := h.wid,
                            addr := h.addr, op := h.op, rcnt := h.rcnt, bytes := payload, sse := none,
                            part := if h.total == payload.length then none else some (pkt.srcPkg, h.xid, h.total),
                            rod := if pkt.mode == .rod then some (pkt.srcPkg, h.walk) else none }
          { s with xfers := s.xfers ++ [x], nextXfer := s.nextXfer + 1 }

/-- The flow an arriving packet maps to, when it is valid (R353). -/
def State.flowOf (s : State) (port : Nat) (pkt : Packet) : Option Nat :=
  let f : Option Nat := match pkt.walkFlow with
    | some f => some f
    | none =>
      let mine := s.classifier.filter fun (e : Nat × Nat × Nat × Nat) => e.1 / 4096 == port
      (mine.find? fun e => e.2.1 == pkt.job && e.2.2.1 == pkt.src).map fun e => e.2.2.2
  f.filter fun f => (s.flow port f).valid

/-- Dispatch the packet that has waited longest on an idle pitch processor (R354). SEQ at dispatch is the count before this
packet (DEDUCED). -/
def State.dispatchPacket (s : State) (p : Nat) : State :=
  let x := s.pitch p
  match x.run, x.queue with
  | none, (f, pkt) :: rest =>
    let e := s.flow (p / 2) f
    let r : PitchRun := { pkt := pkt, flow := f, seq := e.seq, pc := e.entry, q := [], k := [(0, BitVec.allOnes 16)],
                          window := pkt.payload, budget := e.budget, rep := none, stores := [], pushes := [], emits := [] }
    let e := { e with ctl := BitVec.ofNat 128 (e.ctl.toNat - e.seq.toNat + (e.seq + 1).toNat) }
    (s.setFlow (p / 2) f e).setPitch p { x with queue := rest, run := some r }
  | _, _ => s

/-- A packet reaches a port (R353, R361). -/
def State.arrival (s : State) (port : Nat) (pkt : Packet) : State :=
  match pkt.mode with
  | .other => { s with dropped := Assoc.set 0 s.dropped port (Assoc.get 0 s.dropped port + 1) }
  | _ =>
    match s.flowOf port pkt with
    | none => s.deliver port pkt pkt.payload
    | some f =>
      let p := 2 * port + f % 2
      let x := s.pitch p
      (s.setPitch p { x with queue := x.queue ++ [(f, pkt)] }).dispatchPacket p

/-- `PACKET_ARRIVAL` (R354). -/
def execPacketArrival (port : Fin 16) (pkt : Packet) (s : State) : Host.Outcome State Fault Refusal :=
  .next (s.arrival port.val pkt)

/-! ### Ending a kernel (R354, R358) -/

/-- The 64 bytes of a pitch trap record (R358). -/
def pitchRecord (p : Nat) (r : PitchRun) (x : Flow) (cause info : Nat) : List Byte :=
  toBytes 64 (2 + p % 2 * 2 ^ 42 + (if x.drops then 2 ^ 43 else 0) + cause * 2 ^ 44 + r.pc % 2 ^ 16 * 2 ^ 48
    + p / 2 * 2 ^ 64 + r.flow * 2 ^ 68 + x.job * 2 ^ 80 + r.seq.toNat * 2 ^ 96 + info % 2 ^ 64 * 2 ^ 128)

/-- A processor is idle, and its next packet is dispatched. -/
def State.endRun (s : State) (p : Nat) : State := (s.setPitch p { s.pitch p with run := none }).dispatchPacket p

/-- A trap ends the kernel: its effects are discarded, the packet goes as POL directs, and the job's context gets the
record (R358). -/
def State.pitchTrap (s : State) (p : Nat) (r : PitchRun) (cause info : Nat) : State :=
  let x := s.flow (p / 2) r.flow
  let s := match s.ctxOfJob x.job with
    | some c => s.postBytes c (pitchRecord p r x cause info) 2
    | none => s
  (if x.drops then s else s.deliver (p / 2) r.pkt r.pkt.payload).endRun p

/-- A queue that lacks room for the pushes of a kernel (R358). -/
def State.fullQueue (s : State) (r : PitchRun) : Option Nat :=
  (r.pushes.map (·.1)).find? fun q =>
    let n := (r.pushes.filter fun e => e.1 == q).length
    match Assoc.find s.queues q with
    | some w => decide (2 ^ w.k < w.entries.length + n)
    | none => true

/-- A store to a half of a flow's state takes effect; one that writes all of it clears its error (R373). -/
def State.storeFlow (s : State) (port : Nat) (e : FlowStore) : State :=
  let s := s.setFlow port e.flow ((s.flow port e.flow).store e.half e.mask e.data)
  if e.mask == BitVec.allOnes 16 then s.clearPoison (.flow port e.flow e.half) else s

/-- The effects of a kernel take effect together at its terminal (R354). -/
def State.commitRun (s : State) (p : Nat) (r : PitchRun) : State :=
  let port := p / 2
  let x := s.flow port r.flow
  let s := r.stores.foldl (fun s e => s.storeFlow port e) s
  let s := r.pushes.foldl (fun s e => s.queueAppend e.1 e.2) s
  let out : List Egress := r.emits.map fun b =>
    { pkg := x.f 80 75, port := some (x.f 84 81), rod := x.f 85 85 == 1, flow := none, hdr := none, bytes := b }
  { s with egress := s.egress ++ out }

/-! ### Registers and masks of a run -/

/-- The lanes of a register. -/
def PitchRun.lanes (r : PitchRun) (q : Fin 16) : List (BitVec 32) := Assoc.dense 0 r.q (16 * q.val) 16

/-- One lane of a register. -/
def PitchRun.lane (r : PitchRun) (q : Fin 16) (i : Nat) : BitVec 32 := Assoc.get 0 r.q (16 * q.val + i)

/-- A mask register; k0 reads as all lanes. -/
def PitchRun.mask (r : PitchRun) (k : Fin 4) : BitVec 16 := if k.val = 0 then BitVec.allOnes 16 else Assoc.get 0 r.k k.val

/-- Write lanes of a register under a mask (R355). -/
def PitchRun.write (r : PitchRun) (q : Fin 16) (m : BitVec 16) (v : List (BitVec 32)) : PitchRun :=
  { r with q := v.zipIdx.foldl (fun x e => if m.getLsbD e.2 then Assoc.set 0 x (16 * q.val + e.2) e.1 else x) r.q }

/-- Write a mask register under a mask (R355); k0 is no destination. -/
def PitchRun.writeMask (r : PitchRun) (d : Fin 4) (m v : BitVec 16) : PitchRun :=
  if d.val = 0 then r else { r with k := Assoc.set 0 r.k d.val ((r.mask d &&& ~~~m) ||| (v &&& m)) }

/-- The first lane under a mask whose window word passes the payload, as its byte offset. -/
def PitchRun.outside (r : PitchRun) (m : BitVec 16) (off : Nat) : Option Nat :=
  ((List.range 16).find? fun i => m.getLsbD i && decide (r.window.length < off + 4 * i + 4)).map fun i => off + 4 * i

/-! ### Running an instruction -/

/-- What a pitch instruction comes to: the next in sequence, a forward branch, a trap with its INFO, or the end. -/
inductive PEff where
  | next (r : PitchRun)
  | jump (r : PitchRun) (n : Nat)
  | trap (cause info : Nat)
  | last (forward : Bool)

/-- The next word, under a `prepn` (R356). -/
def PitchRun.advance (r : PitchRun) : PitchRun :=
  let pc := r.pc + 1
  match r.rep with
  | some (start, len, left) =>
    if pc == start + len then
      (if 1 < left then { r with pc := start, rep := some (start, len, left - 1) } else { r with pc := pc, rep := none })
    else { r with pc := pc }
  | none => { r with pc := pc }

/-- Settle what an instruction came to. At a terminal, a queue without room for the kernel's pushes traps. -/
def State.pitchSettle (s : State) (p : Nat) (r : PitchRun) : PEff → State
  | .next r => s.setPitch p { s.pitch p with run := some r.advance }
  | .jump r n => s.setPitch p { s.pitch p with run := some { r with pc := r.pc + n } }
  | .trap cause info => s.pitchTrap p r cause info
  | .last forward =>
    match s.fullQueue r with
    | some q => s.pitchTrap p r 7 q
    | none =>
      let s := s.commitRun p r
      (if forward then s.deliver (p / 2) r.pkt r.window else s).endRun p

/-- Run an instruction of a cost on the pitch processor that moves (R354, R358). -/
def State.pitchIssue (s : State) (cost : State → Nat → Nat) (f : State → Nat → PitchRun → PEff) :
    Host.Outcome State Fault Refusal :=
  match s.cur with
  | .pitch p =>
    match (s.pitch p).run with
    | none => .fault .noIssuer
    | some r =>
      let c := cost s p
      if r.budget < c then .next (s.pitchTrap p r 1 0)
      else
        let r := { r with budget := r.budget - c }
        .next (({ s with fresh := s.fresh + 1 } : State).pitchSettle p r (f s p r))
  | _ => .fault .noIssuer

/-- A fixed cost. -/
def costs (n : Nat) : State → Nat → Nat := fun _ _ => n

/-- The cost of a `pldf` or `pldfx` (R356): 4 h, and when the port's other processor runs too, a free number up to 8 h. -/
def loadCost (s : State) (p : Nat) : Nat :=
  if (s.pitch (p / 2 * 2 + (1 - p % 2))).run.isSome then 4 + Config.freeChoice s.fresh % 5 else 4

/-- `pnop`. -/
def execPnop (s : State) : Host.Outcome State Fault Refusal := s.pitchIssue (costs 1) fun _ _ r => .next r

/-- `pldp qD, off`. -/
def execPldp (d : Fin 16) (k : Fin 4) (o : BitVec 12) (s : State) : Host.Outcome State Fault Refusal :=
  s.pitchIssue (costs 4) fun _ _ r =>
    let off := 4 * o.toNat
    match r.outside (r.mask k) off with
    | some a => .trap 2 a
    | none => .next (r.write d (r.mask k) ((List.range 16).map fun i =>
        BitVec.ofNat 32 (leNat ((r.window.drop (off + 4 * i)).take 4))))

/-- Replace the four bytes of a window from an offset on. -/
def putWord (w : List Byte) (off : Nat) (v : BitVec 32) : List Byte := w.take off ++ toBytes 4 v.toNat ++ w.drop (off + 4)

/-- `pstp qD, off`. -/
def execPstp (d : Fin 16) (k : Fin 4) (o : BitVec 12) (s : State) : Host.Outcome State Fault Refusal :=
  s.pitchIssue (costs 1) fun _ _ r =>
    let off := 4 * o.toNat
    match r.outside (r.mask k) off with
    | some a => .trap 2 a
    | none =>
      let put (w : List Byte) (e : BitVec 32 × Nat) : List Byte :=
        if (r.mask k).getLsbD e.2 then putWord w (off + 4 * e.2) e.1 else w
      .next { r with window := (r.lanes d).zipIdx.foldl put r.window }

/-- `phdr qD, code`. -/
def execPhdr (d : Fin 16) (k c : Fin 4) (s : State) : Host.Outcome State Fault Refusal :=
  s.pitchIssue (costs 1) fun _ _ r =>
    let v : BitVec 32 := match c.val with
      | 0 => BitVec.ofNat 32 r.window.length
      | 1 => BitVec.ofNat 32 r.pkt.srcPkg
      | 2 => BitVec.ofNat 32 r.pkt.job
      | _ => r.seq
    .next (r.write d (r.mask k) (List.replicate 16 v))

/-- Load a half of a flow's state; a half whose parity error the second read shows traps (R358). -/
def PitchRun.loadHalf (r : PitchRun) (s : State) (p f : Nat) (d : Fin 16) (k : Fin 4) (h : Bool) : PEff :=
  if (s.poisonAt (.flow (p / 2) f h.toNat)).isSome then .trap 6 f
  else .next (r.write d (r.mask k) ((s.flow (p / 2) f).half h.toNat))

/-- Store into a half of a flow's state at the terminal. -/
def PitchRun.storeHalf (r : PitchRun) (f : Nat) (d : Fin 16) (k : Fin 4) (h : Bool) : PEff :=
  .next { r with stores := r.stores ++ [{ flow := f, half := h.toNat, mask := r.mask k, data := r.lanes d }] }

/-- `pldf qD, h`. -/
def execPldf (d : Fin 16) (k : Fin 4) (h : Bool) (s : State) : Host.Outcome State Fault Refusal :=
  s.pitchIssue loadCost fun s p r => r.loadHalf s p r.flow d k h

/-- `pstf qD, h`. -/
def execPstf (d : Fin 16) (k : Fin 4) (h : Bool) (s : State) : Host.Outcome State Fault Refusal :=
  s.pitchIssue (costs 1) fun _ _ r => r.storeHalf r.flow d k h

/-- The flow a register names, when it is valid and of the kernel's own job (R358). -/
def PitchRun.otherFlow (r : PitchRun) (s : State) (p : Nat) (a : Fin 16) (f : Nat → PEff) : PEff :=
  let n := bits (r.lane a 0).toNat 11 0
  let x := s.flow (p / 2) n
  if x.valid && x.job == (s.flow (p / 2) r.flow).job then f n else .trap 3 n

/-- `pldfx qD, qA, h`. -/
def execPldfx (d a : Fin 16) (k : Fin 4) (h : Bool) (s : State) : Host.Outcome State Fault Refusal :=
  s.pitchIssue loadCost fun s p r => r.otherFlow s p a fun f => r.loadHalf s p f d k h

/-- `pstfx qD, qA, h`. -/
def execPstfx (d a : Fin 16) (k : Fin 4) (h : Bool) (s : State) : Host.Outcome State Fault Refusal :=
  s.pitchIssue (costs 1) fun s p r => r.otherFlow s p a fun f => r.storeHalf f d k h

/-! ### Lane arithmetic -/

/-- A lane by lane operation under K, for 1 h. -/
def State.lanewise (s : State) (d a b : Fin 16) (k : Fin 4) (f : BitVec 32 → BitVec 32 → BitVec 32) :
    Host.Outcome State Fault Refusal :=
  s.pitchIssue (costs 1) fun _ _ r => .next (r.write d (r.mask k) ((r.lanes a).zipWith f (r.lanes b)))

/-- `padd qD, qA, qB`. -/
def execPadd (d a b : Fin 16) (k : Fin 4) (s : State) : Host.Outcome State Fault Refusal := s.lanewise d a b k fun x y => x + y

/-- `psub qD, qA, qB`. -/
def execPsub (d a b : Fin 16) (k : Fin 4) (s : State) : Host.Outcome State Fault Refusal := s.lanewise d a b k fun x y => x - y

/-- `pmul qD, qA, qB`: the low 32 bits. -/
def execPmul (d a b : Fin 16) (k : Fin 4) (s : State) : Host.Outcome State Fault Refusal := s.lanewise d a b k fun x y => x * y

/-- `pvand qD, qA, qB`. -/
def execPvand (d a b : Fin 16) (k : Fin 4) (s : State) : Host.Outcome State Fault Refusal :=
  s.lanewise d a b k fun x y => x &&& y

/-- `pvor qD, qA, qB`. -/
def execPvor (d a b : Fin 16) (k : Fin 4) (s : State) : Host.Outcome State Fault Refusal :=
  s.lanewise d a b k fun x y => x ||| y

/-- `pvxor qD, qA, qB`. -/
def execPvxor (d a b : Fin 16) (k : Fin 4) (s : State) : Host.Outcome State Fault Refusal :=
  s.lanewise d a b k fun x y => x ^^^ y

/-- The amount of a pitch shift. -/
def pitchShift (y : BitVec 32) : Nat := y.toNat % 32

/-- `pshl qD, qA, qB`. -/
def execPshl (d a b : Fin 16) (k : Fin 4) (s : State) : Host.Outcome State Fault Refusal :=
  s.lanewise d a b k fun x y => x <<< pitchShift y

/-- `pshr qD, qA, qB`. -/
def execPshr (d a b : Fin 16) (k : Fin 4) (s : State) : Host.Outcome State Fault Refusal :=
  s.lanewise d a b k fun x y => x >>> pitchShift y

/-- `psra qD, qA, qB`. -/
def execPsra (d a b : Fin 16) (k : Fin 4) (s : State) : Host.Outcome State Fault Refusal :=
  s.lanewise d a b k fun x y => x.sshiftRight (pitchShift y)

/-- `pmin qD, qA, qB`, signed. -/
def execPmin (d a b : Fin 16) (k : Fin 4) (s : State) : Host.Outcome State Fault Refusal :=
  s.lanewise d a b k fun x y => if y.toInt < x.toInt then y else x

/-- `pmax qD, qA, qB`, signed. -/
def execPmax (d a b : Fin 16) (k : Fin 4) (s : State) : Host.Outcome State Fault Refusal :=
  s.lanewise d a b k fun x y => if x.toInt < y.toInt then y else x

/-- `pmaxn qD, qA, qB`, unsigned. -/
def execPmaxn (d a b : Fin 16) (k : Fin 4) (s : State) : Host.Outcome State Fault Refusal :=
  s.lanewise d a b k fun x y => if x.toNat < y.toNat then y else x

/-- The 64-bit sums of lane pairs, low word in the even lane (R359). -/
def pairSums : List (BitVec 32) → List (BitVec 32) → List (BitVec 32)
  | a0 :: a1 :: a, b0 :: b1 :: b =>
    let v := (a1 ++ a0) + (b1 ++ b0)
    v.setWidth 32 :: (v >>> 32).setWidth 32 :: pairSums a b
  | _, _ => []

/-- A mask that covers both lanes of each pair whose even lane is set. -/
def evenPairs (m : BitVec 16) : BitVec 16 := (m &&& 0x5555) ||| ((m &&& 0x5555) <<< 1)

/-- `pfxa qD, qA, qB` (R359). -/
def execPfxa (d a b : Fin 16) (k : Fin 4) (s : State) : Host.Outcome State Fault Refusal :=
  s.pitchIssue (costs 1) fun _ _ r => .next (r.write d (evenPairs (r.mask k)) (pairSums (r.lanes a) (r.lanes b)))

/-- `paddi qD, qA, imm`. -/
def execPaddi (d a : Fin 16) (k : Fin 4) (m : BitVec 12) (s : State) : Host.Outcome State Fault Refusal :=
  s.pitchIssue (costs 1) fun _ _ r => .next (r.write d (r.mask k) ((r.lanes a).map fun x => x + m.signExtend 32))

/-- `pmovi qD, imm`. -/
def execPmovi (d : Fin 16) (k : Fin 4) (m : BitVec 20) (s : State) : Host.Outcome State Fault Refusal :=
  s.pitchIssue (costs 1) fun _ _ r => .next (r.write d (r.mask k) (List.replicate 16 (m.signExtend 32)))

/-- Lanes' truths as a mask. -/
def laneMask (l : List Bool) : BitVec 16 := BitVec.ofNat 16 (l.foldr (fun b n => b.toNat + 2 * n) 0)

/-- A comparison into a mask register. -/
def State.compare (s : State) (d : Fin 4) (a b : Fin 16) (k : Fin 4) (f : BitVec 32 → BitVec 32 → Bool) :
    Host.Outcome State Fault Refusal :=
  s.pitchIssue (costs 1) fun _ _ r => .next (r.writeMask d (r.mask k) (laneMask ((r.lanes a).zipWith f (r.lanes b))))

/-- `pceq kD, qA, qB`. -/
def execPceq (d : Fin 4) (a b : Fin 16) (k : Fin 4) (s : State) : Host.Outcome State Fault Refusal :=
  s.compare d a b k fun x y => x == y

/-- `pclt kD, qA, qB`, signed. -/
def execPclt (d : Fin 4) (a b : Fin 16) (k : Fin 4) (s : State) : Host.Outcome State Fault Refusal :=
  s.compare d a b k fun x y => decide (x.toInt < y.toInt)

/-- `pcltn kD, qA, qB`, unsigned. -/
def execPcltn (d : Fin 4) (a b : Fin 16) (k : Fin 4) (s : State) : Host.Outcome State Fault Refusal :=
  s.compare d a b k fun x y => decide (x.toNat < y.toNat)

/-- `pmask kD, imm`. -/
def execPmask (d k : Fin 4) (m : BitVec 16) (s : State) : Host.Outcome State Fault Refusal :=
  s.pitchIssue (costs 1) fun _ _ r => .next (r.writeMask d (r.mask k) m)

/-- `psel qD, qA, qB, kK`. -/
def execPsel (d a b : Fin 16) (k : Fin 4) (s : State) : Host.Outcome State Fault Refusal :=
  s.pitchIssue (costs 1) fun _ _ r =>
    .next (r.write d (BitVec.allOnes 16) (((r.lanes a).zip (r.lanes b)).zipIdx.map fun e =>
      if (r.mask k).getLsbD e.2 then e.1.1 else e.1.2))

/-- `pbcl qD, qA, n`. -/
def execPbcl (d a : Fin 16) (k : Fin 4) (n : Fin 16) (s : State) : Host.Outcome State Fault Refusal :=
  s.pitchIssue (costs 1) fun _ _ r => .next (r.write d (r.mask k) (List.replicate 16 (r.lane a n.val)))

/-! ### Control, and what leaves a kernel -/

/-- `pbany kA, label`. -/
def execPbany (a : Fin 4) (o : BitVec 12) (s : State) : Host.Outcome State Fault Refusal :=
  s.pitchIssue (costs 1) fun _ _ r => if r.mask a = 0 then .next r else .jump r o.toNat

/-- `pj label`. -/
def execPj (o : BitVec 12) (s : State) : Host.Outcome State Fault Refusal :=
  s.pitchIssue (costs 1) fun _ _ r => .jump r o.toNat

/-- `prepn n, len`: the field holds n − 1. -/
def execPrepn (n l : Fin 64) (s : State) : Host.Outcome State Fault Refusal :=
  s.pitchIssue (costs 1) fun _ _ r => .next { r with rep := some (r.pc + 1, l.val, n.val + 1) }

/-- `pfwd`. -/
def execPfwd (s : State) : Host.Outcome State Fault Refusal := s.pitchIssue (costs 2) fun _ _ _ => .last true

/-- `pdrop`. -/
def execPdrop (s : State) : Host.Outcome State Fault Refusal := s.pitchIssue (costs 2) fun _ _ _ => .last false

/-- `penq qA, wq`. -/
def execPenq (a : Fin 16) (q : Fin 256) (s : State) : Host.Outcome State Fault Refusal :=
  s.pitchIssue (costs 1) fun s p r =>
    let owned := match s.ctxOfJob (s.flow (p / 2) r.flow).job with
      | some c => s.ownsQueue c q.val
      | none => false
    if owned then .next { r with pushes := r.pushes ++ [(q.val, r.lane a 1 ++ r.lane a 0)] } else .trap 4 q.val

/-- `pemit n`: the field holds the 64-byte pieces less one. -/
def execPemit (n : Fin 64) (s : State) : Host.Outcome State Fault Refusal :=
  s.pitchIssue (costs 2) fun s p r =>
    let x := s.flow (p / 2) r.flow
    let len := 64 * (n.val + 1)
    if r.window.length < len then .trap 2 r.window.length
    else if !s.inJob x.job (x.f 80 75) || !s.ports.getLsbD (x.f 84 81) then .trap 5 0
    else .next { r with emits := r.emits ++ [r.window.take len] }

/-! ### Checking an image (R357) -/

/-- The worst over the paths from one word: cost, pushes and emits. -/
structure Worst where
  cost : Nat
  pushes : Nat
  emits : Nat

/-- The worst of one word, at the upper cost of its instruction. -/
def worstOf : PitchInstr → Worst
  | .pldp _ _ _ => ⟨4, 0, 0⟩
  | .pldf _ _ _ => ⟨8, 0, 0⟩
  | .pldfx _ _ _ _ => ⟨8, 0, 0⟩
  | .pfwd => ⟨2, 0, 0⟩
  | .pdrop => ⟨2, 0, 0⟩
  | .penq _ _ => ⟨1, 1, 0⟩
  | .pemit _ => ⟨2, 0, 1⟩
  | _ => ⟨1, 0, 0⟩

/-- One word, `n` times, before a path. -/
def Worst.before (n : Nat) (a b : Worst) : Worst := ⟨n * a.cost + b.cost, n * a.pushes + b.pushes, n * a.emits + b.emits⟩

/-- The worse of two paths, in each count. -/
def Worst.sup (a b : Worst) : Worst := ⟨max a.cost b.cost, max a.pushes b.pushes, max a.emits b.emits⟩

/-- Whether a word ends a kernel. -/
def isTerminal : PitchInstr → Bool
  | .pfwd | .pdrop => true
  | _ => false

/-- Whether a word may not stand in a `prepn` body. -/
def noBody : PitchInstr → Bool
  | .pbany _ _ | .pj _ | .prepn _ _ => true
  | _ => false

/-- Whether a word has k0 as its destination. -/
def writesK0 : PitchInstr → Bool
  | .pceq d _ _ _ | .pclt d _ _ _ | .pcltn d _ _ _ => d.val == 0
  | .pmask d _ _ => d.val == 0
  | _ => false

/-- The worst over the paths from the first of some words on, given that of every later suffix; none when a path leaves
the image. -/
def worstFrom (i : PitchInstr) (rest : List PitchInstr) (later : List (Option Worst)) : Option Worst :=
  if isTerminal i then some (worstOf i)
  else match i with
    | .pj o => ((later[o.toNat - 1]?).join).map (Worst.before 1 (worstOf i))
    | .pbany _ o =>
      match (later[0]?).join, (later[o.toNat - 1]?).join with
      | some a, some b => some (Worst.before 1 (worstOf i) (a.sup b))
      | _, _ => none
    | .prepn n l =>
      let body := rest.take l.val
      let once := body.takeWhile fun x => !isTerminal x
      if body.length < l.val || body.any noBody then none
      else if once.length < l.val then
        some (Worst.before 1 (worstOf i) (once.foldr (fun x b => Worst.before 1 (worstOf x) b) ⟨2, 0, 0⟩))
      else ((later[l.val]?).join).map fun b =>
        Worst.before 1 (worstOf i) (body.foldr (fun x b => Worst.before (n.val + 1) (worstOf x) b) b)
    | _ => ((later[0]?).join).map (Worst.before 1 (worstOf i))

/-- The worst of every suffix of an image. -/
def worsts : List PitchInstr → List (Option Worst)
  | [] => []
  | i :: rest =>
    let l := worsts rest
    worstFrom i rest l :: l

/-- Whether word `n` lies in the body of a `prepn` of an image, other than by running into it. -/
def inBody (img : List PitchInstr) (n : Nat) : Bool :=
  img.zipIdx.any fun e => match e.1 with
    | .prepn _ l => decide (e.2 < n) && decide (n ≤ e.2 + l.val)
    | _ => false

/-- Whether every branch stays in the image and out of the bodies. -/
def branchesOk (img : List PitchInstr) : Bool :=
  img.zipIdx.all fun e => match e.1 with
    | .pj o => decide (e.2 + o.toNat < img.length) && !inBody img (e.2 + o.toNat)
    | .pbany _ o => decide (e.2 + o.toNat < img.length) && !inBody img (e.2 + o.toNat)
    | .prepn _ l => ((img.drop (e.2 + 1)).take l.val).length == l.val &&
        !((img.drop (e.2 + 1)).take l.val).any noBody
    | _ => true

/-- The words of an image, when every one is a pitch instruction. -/
def readImage : List Nat → Option (List PitchInstr)
  | [] => some []
  | w :: r => match readPitch w, readImage r with
    | some i, some l => some (i :: l)
    | _, _ => none

/-- The checks of R357. Execution is taken to begin at the image's first word (DEDUCED). -/
def imageOk (ws : List Nat) : Bool :=
  match readImage ws with
  | none => false
  | some img =>
    !img.any writesK0 && branchesOk img &&
    match (worsts img).head?.join with
    | some w => w.cost ≤ 256 && w.pushes ≤ 4 && w.emits ≤ 4
    | none => false

end Sys2Proof.Machine
end

