-- ==== Sys2Proof/Machine/Rings.lean ====
section
/-! DEFINITION. The registers of BAR0, the command rings and their completions (R402, R403, R407), and the host's way to
device memory (R405). -/

namespace Sys2Proof.Machine

/-! ### Rings (R402) -/

/-- A ring. -/
def State.ringAt (s : State) (n : Nat) : Ring := Assoc.get Ring.start s.rings n

/-- Replace a ring. -/
def State.setRing (s : State) (n : Nat) (r : Ring) : State := { s with rings := Assoc.set Ring.start s.rings n r }

/-- The entries of an enabled ring. -/
def Ring.size (r : Ring) : Nat := 2 ^ bits r.live.2.2.toNat 4 0

/-- The context of an enabled ring. -/
def Ring.context (r : Ring) : Nat := bits r.live.2.2.toNat 47 32

/-- A TAIL more than the ring's size ahead of HEAD stops the ring. -/
def Ring.checkTail (r : Ring) : Ring :=
  if r.enabled && decide (r.size < (r.tail - r.head).toNat) then { r with badTail := true } else r

/-- Whether a ring may be enabled: once boot is complete, but ring 0 alone when no die worked at its step 5; or ring 0 after a failed
boot (R406, R407). -/
def State.ringAllowed (s : State) (n : Nat) : Bool :=
  (n == 0 && (s.bootFail || s.boot == 6)) || (s.boot == 6 && s.bootDies)

/-- The enable bit of RCTL. -/
def enableBit : Word := 0x8000000000000000

/-- A write of RCTL (R402). Its bits that R402 does not list, [62:48] and [31:5], are kept as written and read back (DESIGN CHOICE,
assumption 82). -/
def Ring.writeRctl (r : Ring) (v : Word) (allowed : Bool) : Ring :=
  let on := v.getLsbD 63
  if r.enabled then
    if on then r
    else if r.busy then { r with rctl := v, stopping := true }
    else { r with rctl := v, enabled := false }
  else if on && allowed then
    ({ r with rctl := v, enabled := true, stopping := false, busy := false, psrWait := none, live := (r.rbase, r.cbase, v),
              head := 0, badTail := false } : Ring).checkTail
  else { r with rctl := v &&& ~~~enableBit }

/-- A host write of a 64-bit register of BAR0, by its offset. Offsets that name no register, or a read-only one, keep
nothing. -/
def State.writeReg (s : State) (off : Nat) (v : Word) : State :=
  let n := (off - 0x1000) / 64
  if off < 0x1000 || 64 ≤ n then s
  else
    let r := s.ringAt n
    match off % 64 with
    | 0x00 => if r.enabled then s else s.setRing n { r with rbase := v }
    | 0x08 => if r.enabled then s else s.setRing n { r with cbase := v }
    | 0x10 => s.setRing n (r.writeRctl v (s.ringAllowed n))
    | 0x18 => s.setRing n ({ r with tail := v } : Ring).checkTail
    | _ => s

/-- The offset of a register of a ring. -/
def ringReg (n k : Nat) : Nat := 0x1000 + 64 * n + k

/-- `REGISTER_WRITE` (R402). -/
def execRegisterWrite (off : Nat) (v : Word) (s : State) : Host.Outcome State Fault Refusal := .next (s.writeReg off v)

/-- `DOORBELL` (R402). -/
def execDoorbell (ring : Nat) (tail : Word) (s : State) : Host.Outcome State Fault Refusal :=
  .next (s.writeReg (ringReg ring 0x18) tail)

/-- `RING_ENABLE` (R402): a write of RCTL with the enable bit. -/
def execRingEnable (ring : Nat) (v : Word) (s : State) : Host.Outcome State Fault Refusal :=
  .next (s.writeReg (ringReg ring 0x10) (v ||| enableBit))

/-- `RING_DISABLE` (R402): a write of RCTL without it. -/
def execRingDisable (ring : Nat) (v : Word) (s : State) : Host.Outcome State Fault Refusal :=
  .next (s.writeReg (ringReg ring 0x10) (v &&& ~~~enableBit))

/-- RSTOPM (R402). -/
def State.rstopm (s : State) : Nat := bitList ((List.range 64).map fun n => (s.ringAt n).badTail)

/-- The package status register (R407). -/
def State.statusReg (s : State) : Nat :=
  (s.workingDies.map fun d => 2 ^ d).sum * 2 ^ 32 + (if s.rstopm != 0 then 2 ^ 24 else 0) + (if s.bootFail then 2 ^ 8 else 0)
    + s.therm * 2 ^ 4 + s.boot

/-- What a host read of a register of BAR0 gives (R402, R407). -/
def State.readReg (s : State) (off : Nat) : Word :=
  if off == 0 then BitVec.ofNat 64 s.statusReg
  else if off == 8 then BitVec.ofNat 64 s.rstopm
  else if off < 0x1000 || 0x2000 ≤ off then 0
  else
    let r := s.ringAt ((off - 0x1000) / 64)
    match off % 64 with
    | 0x00 => r.rbase
    | 0x08 => r.cbase
    | 0x10 => r.rctl
    | 0x18 => r.tail
    | 0x20 => r.head
    | 0x28 => if r.badTail then 1 else 0
    | _ => 0

/-! ### Completions (R78, R403) -/

/-- What a command comes to: a status and a result, or its ring waits for it in a state. -/
inductive CmdRes where
  | done (s : State) (status : Nat) (result : Word)
  | retry (s : State)

/-- Post the completion of the descriptor at a ring's HEAD, and move on. -/
def State.postCompletion (s : State) (n : Nat) (tag : BitVec 16) (status : Nat) (result : Word) : State :=
  let r := s.ringAt n
  let head := r.head + 1
  let phase := if r.head.toNat / r.size % 2 == 0 then 2 ^ 21 else 0
  let v := tag.toNat + status * 2 ^ 16 + phase + head.toNat % 2 ^ 32 * 2 ^ 32 + result.toNat * 2 ^ 64
  let s := s.hostWrite (r.live.2.1.toNat + 16 * (r.head.toNat % r.size)) (toBytes 16 v)
  s.setRing n { r with head := head, busy := false, psrWait := none, enabled := r.enabled && !r.stopping, stopping := false }

/-- Run a command of a ring (R90, R402 to R404): after a failed boot only the marked ones run; a management command runs on
ring 0 only, and every other one on a ring of a context. -/
def State.command (s : State) (tag : BitVec 16) (mgmt failed : Bool) (f : State → Nat → CmdRes) :
    Host.Outcome State Fault Refusal :=
  match s.cur with
  | .ring n =>
    let c := (s.ringAt n).context
    let res : CmdRes :=
      if s.bootFail && !failed then .done s 13 0
      else if mgmt then (if n == 0 then f s 0 else .done s 11 0)
      else if n == 0 || !Assoc.has s.ctxs c then .done s 13 0
      else f s c
    .next (match res with
      | .done s st v => s.postCompletion n tag st v
      | .retry s => s.setRing n { s.ringAt n with busy := true })
  | _ => .fault .noIssuer

/-- A refused command. -/
def State.refused (s : State) : CmdRes := .done s 13 0

/-- A completed command without a result. -/
def State.fine (s : State) : CmdRes := .done s 0 0

/-- The words of the descriptor at a ring's HEAD. -/
def State.descriptorAt (s : State) (n : Nat) : List Nat :=
  let r := s.ringAt n
  let bs := readBytes s.hostMem ((r.live.1.toNat + 64 * (r.head.toNat % r.size)) % 2 ^ 51) 64
  (wordsOf bs 8).map (·.toNat)

/-- Whether a ring has a descriptor to run: one it has begun, which a bad TAIL does not stop, or a next one (R402). -/
def State.ringReady (s : State) (n : Nat) : Bool :=
  let r := s.ringAt n
  r.enabled && s.ringAllowed n && (r.busy || (!r.badTail && r.head != r.tail))

/-! ### The host's copies (R405) -/

/-- The cores whose L1 holds a sector. -/
def State.holdersOf (s : State) (pa : Nat) : List Nat :=
  (s.l1.map (·.1)).filter fun ck => (s.lineOf ck pa).any fun l => (l.sector pa).valid

/-- Every L1 gives a sector up: a coherent one is recalled, a streaming one is written back and invalidated. -/
def State.recallAll (s : State) (pa : Nat) : State :=
  (s.holdersOf pa).foldl (fun s ck => s.recallSector ck (pa / 64 * 64)) s

/-- The hub writes bytes of one sector. -/
def State.hubWrite (s : State) (pa : Nat) (bs : List Byte) : State :=
  if isHostPa pa then s.physWrite pa bs
  else
    let s := (s.recallAll pa).physWrite pa bs
    let s := if bs.length == 64 then s.clearPoison (.hbm (pa / 64 * 64)) else s
    s.wrote (.hbm (pa / 64 * 64))

/-- Whether the hub meets poison when it reads a sector. -/
def State.hubPoison (s : State) (pa : Nat) : Bool := !isHostPa pa && (s.poisonAt (.hbm (pa / 64 * 64))).isSome

/-- Host bytes at a PCIe address. -/
def State.hostRead (s : State) (a n : Nat) : List Byte := readBytes s.hostMem (a % 2 ^ 51) n

/-- Copy from host memory, piece by piece, until one does not translate: the state and the bytes moved. -/
def State.copyIn (s : State) (pa : State → Nat → Option Nat) (host moved : Nat) : List (Nat × Nat) → State × Nat × Bool
  | [] => (s, moved, true)
  | (a, n) :: rest =>
    match pa s a with
    | some p => State.copyIn (s.hubWrite p (s.hostRead (host + moved) n)) pa host (moved + n) rest
    | none => (s, moved, false)

/-- Copy to host memory, piece by piece, until one does not translate or is poisoned. -/
def State.copyOut (s : State) (pa : State → Nat → Option Nat) (host moved : Nat) : List (Nat × Nat) → State × Nat × Bool
  | [] => (s, moved, true)
  | (a, n) :: rest =>
    match (pa s a).filter fun p => !s.hubPoison p with
    | some p => State.copyOut (s.hostWrite (host + moved) (s.physRead p n)) pa host (moved + n) rest
    | none => (s, moved, false)

/-- A copy's completion. -/
def copyRes (r : State × Nat × Bool) : CmdRes := .done r.1 (if r.2.2 then 0 else 13) (if r.2.2 then 0 else BitVec.ofNat 64 r.2.1)

/-- The recalls of a copy into device memory. -/
def State.recallPieces (s : State) (pa : State → Nat → Option Nat) (ps : List (Nat × Nat)) : State :=
  ps.foldl (fun s e => match (pa s e.1).filter fun p => !isHostPa p with
    | some p => s.recallAll p
    | none => s) s

/-- Whether an L1 still holds a sector of a copy: its recall waits for a sleeping link. -/
def State.piecesHeld (s : State) (pa : State → Nat → Option Nat) (ps : List (Nat × Nat)) : Bool :=
  ps.any fun e => ((pa s e.1).filter fun p => !isHostPa p).any fun p => !(s.holdersOf p).isEmpty

/-- A copy into device memory: every L1 gives its sectors up first, and the ring waits for a link that sleeps (R379, R405). -/
def State.copyInto (s : State) (pa : State → Nat → Option Nat) (host : Nat) (ps : List (Nat × Nat)) : CmdRes :=
  let s := s.recallPieces pa ps
  if s.piecesHeld pa ps then .retry s else copyRes (s.copyIn pa host 0 ps)

/-- The pieces of a copy: one page or sector is never crossed. -/
def copyPieces (a n : Nat) : List (Nat × Nat) := sectors (n / 64 + 2) a n

/-- Whether a length is one a copy takes. -/
def copyLen (n : Word) : Bool := 1 ≤ n.toNat && n.toNat ≤ 2 ^ 30

/-- Whether a physical range lies in the HBM5 of one working stack. -/
def State.physRange (s : State) (pa n : Nat) : Bool :=
  let z := pa + n - 1
  !isHostPa pa && s.paOk pa && !isHostPa z && s.paOk z && stackOf pa == stackOf z

end Sys2Proof.Machine
end

