-- ==== Sys2Proof/Machine/HostCmd.lean ====
section
/-! DEFINITION. The commands of the Herilo Command Set (R90, R404, R405, R410). An operand outside its range, a context that
does not exist among them, completes with Refused (R403). -/

namespace Sys2Proof.Machine

/-! ### Launch records (R73 to R79, R85, R90) -/

/-- Whether a context exists. -/
def State.hasCtx (s : State) (c : Word) : Bool := Assoc.has s.ctxs c.toNat

/-- The indices a command names. -/
def indices (first count : Nat) : List Nat := (List.range count).map (first + ·)

/-- Whether a range of records exists. -/
def recRange (first count : Word) : Bool := 1 ≤ count.toNat && first.toNat + count.toNat ≤ 4096

/-- Bind a Free record to a context (R73, R80). -/
def State.bindRec (s : State) (ctx lr : Nat) : State :=
  let s := (s.setRec lr { LaunchRec.free with ctx := some ctx, state := .idle }).loadCounter lr 0
  { s with retirements := s.retirements.filter (fun x => x.lr != lr),
           poison := s.poison.filter (fun e => match e.1 with
             | .record k _ => k != lr
             | _ => true) }

/-- `REC_BIND` (R73, R90). -/
def execRecBind (tag : BitVec 16) (first count ctx : Word) (s : State) : Host.Outcome State Fault Refusal :=
  s.command tag true false fun s _ =>
    if !recRange first count || !s.hasCtx ctx then s.refused
    else
      let l := indices first.toNat count.toNat
      if l.any fun lr => (s.lrec lr).state != .free then .done s 2 0
      else ((l.foldl (fun s lr => s.bindRec ctx.toNat lr) s).runCp cpFuel).fine

/-- `REC_FREE` (R90): it waits for the cuts of a failed launch's tasks. -/
def execRecFree (tag : BitVec 16) (first count : Word) (s : State) : Host.Outcome State Fault Refusal :=
  s.command tag true false fun s _ =>
    if !recRange first count then s.refused
    else
      let l := indices first.toNat count.toNat
      if l.any fun lr => (s.lrec lr).live then .done s 2 0
      else if s.tasks.any fun e => l.contains e.2.lr then .retry s
      else (l.foldl (fun s lr => s.setRec lr LaunchRec.free) s).fine

/-- Patch words in order from host memory, up to the first refusal. -/
def State.patchAll (fuel : Nat) (s : State) (lr ctx word addr : Nat) : State × Nat :=
  match fuel with
  | 0 => (s, 0)
  | fuel + 1 =>
    match s.patch lr ctx word (BitVec.ofNat 64 (leNat (s.hostRead addr 8))) with
    | (s, 0) => State.patchAll fuel s lr ctx (word + 1) (addr + 8)
    | (s, st) => (s, st)

/-- `REC_WRITE` (R76, R90): a refusal for its count stands in the record's ERR (R78). -/
def execRecWrite (tag : BitVec 16) (idx word count addr : Word) (s : State) : Host.Outcome State Fault Refusal :=
  s.command tag false false fun s c =>
    if 4096 ≤ idx.toNat then s.refused
    else if count.toNat == 0 || 28 < count.toNat then (s.setErr idx.toNat c 13).refused
    else
      let (s, st) := s.patchAll count.toNat idx.toNat c word.toNat addr.toNat
      .done s st 0

/-- `REC_ARM` (R77). -/
def execRecArm (tag : BitVec 16) (idx : Word) (s : State) : Host.Outcome State Fault Refusal :=
  s.command tag false false fun s c =>
    if 4096 ≤ idx.toNat then s.refused
    else
      let (s, st) := s.arm idx.toNat c
      .done (s.runCp cpFuel) st 0

/-- The first member of a list that an arming of all would refuse, with its status: one listed twice is refused the second
time (R77, R79). -/
def State.firstRefused (s : State) (c : Nat) : List Nat → List Nat → Option (Nat × Nat)
  | [], _ => none
  | lr :: rest, seen =>
    let st := if seen.contains lr then 2
      else if (s.lrec lr).ctx == some c && (s.recPoison lr).isSome then 3
      else s.armCheck lr c
    if st == 0 then s.firstRefused c rest (lr :: seen) else some (lr, st)

/-- `GRAPH_ARM` (R77, R90): all or none, with one epoch. -/
def execGraphArm (tag : BitVec 16) (count addr : Word) (s : State) : Host.Outcome State Fault Refusal :=
  s.command tag false false fun s c =>
    let l := (List.range count.toNat).map fun k => leNat (s.hostRead (addr.toNat + 2 * k) 2)
    if count.toNat == 0 || 256 < count.toNat || l.any fun lr => decide (4096 ≤ lr) then s.refused
    else match s.firstRefused c l [] with
      | some (lr, st) => .done (if (s.recPoison lr).isSome then (s.arm lr c).1 else s.setErr lr c st) st 0
      | none => ((l.foldl State.armRec s).runCp cpFuel).fine

/-- The dispatch of a launch stops, and its tasks begin to end (R90). -/
def State.stopLaunch (s : State) (lr : Nat) : State := (s.setRec lr { s.lrec lr with ready := none }).endTasks lr

/-- End a live launch as cancelled (R85), once its resident tasks have ended at their cuts. -/
def State.cancel (s : State) (lr : Nat) : State :=
  let s := s.stopLaunch lr
  if (s.tasksOf lr).isEmpty then s.failLaunch lr 7 else s

/-- Whether a record's completion stands: its end is queued behind no held push, so that it is as one that is Done (R399). -/
def State.completes (s : State) (lr : Nat) : Bool := s.cpq.contains (.finish lr) && !(s.lrec lr).pushHeld

/-- `REC_CANCEL` (R85, R90, R399): it completes when the launch has ended. -/
def execRecCancel (tag : BitVec 16) (idx : Word) (s : State) : Host.Outcome State Fault Refusal :=
  s.command tag false false fun s c =>
    let lr := idx.toNat
    if 4096 ≤ lr then s.refused
    else if (s.lrec lr).ctx != some c then .done s 1 0
    else if !(s.lrec lr).live || s.completes lr then .done (s.setErr lr c 2) 2 0
    else
      let s := s.cancel lr
      if (s.lrec lr).live then .retry s else s.fine

/-! ### Queues (R88) -/

/-- Configure a queue. A waiting popper whose context no longer owns it has its turn next, and traps there. -/
def State.configQueue (s : State) (q ctx k : Nat) (fixed : Bool) : State :=
  let old := match Assoc.find s.queues q with
    | some w => w.waiters
    | none => []
  let owns (p : Popper) : Bool := match Assoc.find s.tasks p.task with
    | some t => t.ctx == ctx
    | none => false
  let w : WorkQueue := { ctx := ctx, k := k, fixed := fixed, taken := 0, entries := [], waiters := old.filter owns }
  let s := { s with queues := Assoc.put s.queues q w,
                    agenda := ((old.filter fun p => !owns p).map fun (p : Popper) => Turn.issue p.task .k) ++ s.agenda }
  { s with poison := s.poison.filter fun e => match e.1 with
             | .wq x _ => x != q
             | _ => true }

/-- `WQ_CONFIG` (R88, R90). -/
def execWqConfig (tag : BitVec 16) (queue ctx k fixed : Word) (s : State) : Host.Outcome State Fault Refusal :=
  s.command tag true false fun s _ =>
    if 256 ≤ queue.toNat || !s.hasCtx ctx || k.toNat < 4 || 16 < k.toNat || 2 ≤ fixed.toNat then s.refused
    else (s.configQueue queue.toNat ctx.toNat k.toNat (fixed == 1)).fine

/-- `WQ_PUSH` (R88, R90). -/
def execWqPush (tag : BitVec 16) (queue v : Word) (s : State) : Host.Outcome State Fault Refusal :=
  s.command tag false false fun s c =>
    if 256 ≤ queue.toNat then s.refused
    else match (Assoc.find s.queues queue.toNat).filter fun w => w.ctx == c with
      | none => .done s 1 0
      | some w => if w.room then (s.queueAppend queue.toNat v).fine else .done s 2 0

/-! ### Contexts (R93, R247, R249, R336, R383, R387, R404) -/

/-- `CTX_CREATE` (R404): a context is numbered below 0xFFFF, which unbinds (R404), and its root table is aligned to its
32 KiB (R249). -/
def execCtxCreate (tag : BitVec 16) (ctx asid root job : Word) (s : State) : Host.Outcome State Fault Refusal :=
  s.command tag true false fun s _ =>
    if 0xFFFF ≤ ctx.toNat || 2 ^ 16 ≤ asid.toNat || root.toNat % 2 ^ 15 != 0 || 2 ^ 52 ≤ root.toNat || 2 ^ 16 ≤ job.toNat then
      s.refused
    else if s.hasCtx ctx then .done s 2 0
    else
      let c : Ctx := { asid := asid.toNat, root := root.toNat, job := job.toNat, allow := 0, vdies := [], stripe := 0,
                       image := none, interval := 0, evq := none, produced := 0, lost := 0 }
      ({ s with ctxs := Assoc.put s.ctxs ctx.toNat c } : State).fine

/-- Free what is bound to a context, and the context. -/
def State.freeCtx (s : State) (c : Nat) : State :=
  let asid := s.asidOf c
  let tlb (l : List TlbEntry) : List TlbEntry := l.filter fun e => e.asid != asid
  { s with recs := s.recs.filter (fun e => e.2.ctx != some c),
           queues := s.queues.filter (fun e => e.2.ctx != c),
           phasers := s.phasers.filter (fun e => e.2.ctx != some c),
           barriers := s.barriers.filter (fun e => e.2.ctx != some c),
           auctions := s.auctions.filter (fun e => e.2 != c),
           stripes := s.stripes.filter (fun e => e.1 % 65536 != c),
           poison := s.poison.filter (fun e => match e.1 with
             | .stripe _ x _ => x != c
             | _ => true),
           coreTlb := s.coreTlb.map fun e => (e.1, tlb e.2),
           dieTlb := s.dieTlb.map fun e => (e.1, tlb e.2),
           ctxs := Assoc.erase s.ctxs c }

/-- `CTX_DESTROY` (R404): its launches are cancelled, and it waits for the cuts of their tasks. -/
def execCtxDestroy (tag : BitVec 16) (ctx : Word) (s : State) : Host.Outcome State Fault Refusal :=
  s.command tag true false fun s _ =>
    if !s.hasCtx ctx then s.refused
    else
      let live := (s.recs.filter fun e => e.2.ctx == some ctx.toNat && e.2.live).map (·.1)
      let s := live.foldl State.cancel s
      if s.tasks.any fun e => e.2.ctx == ctx.toNat then .retry s else (s.freeCtx ctx.toNat).fine

/-- Change a context. -/
def State.modCtx (s : State) (c : Nat) (f : Ctx → Ctx) : State := { s with ctxs := Assoc.modify s.ctxs c f }

/-- `ALLOW` (R93). -/
def execAllow (tag : BitVec 16) (ctx mask : Word) (s : State) : Host.Outcome State Fault Refusal :=
  s.command tag true false fun s _ =>
    if !s.hasCtx ctx || 256 ≤ mask.toNat then s.refused
    else (s.modCtx ctx.toNat fun c => { c with allow := mask.setWidth 8 }).fine

/-- MiB that launches hold in the cluster of a core. -/
def State.clusterUsed (s : State) (die core : Nat) : Nat :=
  (s.tasks.foldl (fun (m : Assoc Nat) e =>
    if e.2.resident && e.2.die == die && e.2.core / 4 == core / 4 then Assoc.put m e.2.lr e.2.tt.clsd else m) []
    |>.map (·.2)).sum

/-- Whether every cluster can give what the stripes of all contexts take (R247). -/
def State.stripesFit (s : State) (total : Nat) : Bool :=
  s.workingDies.all fun d => (List.range 8).all fun k => decide (8 * s.clusterUsed d (4 * k) + total ≤ 64)

/-- `STRIPE` (R247): what lies above a smaller allocation is withdrawn, and what a larger one adds reads as 0. -/
def execStripe (tag : BitVec 16) (ctx d : Word) (s : State) : Host.Outcome State Fault Refusal :=
  s.command tag true false fun s _ =>
    if !s.hasCtx ctx || 8 < d.toNat then s.refused
    else
      let s' := s.modCtx ctx.toNat fun c => { c with stripe := d.toNat }
      let total := (s'.ctxs.map fun e => e.2.stripe).sum
      let n := d.toNat * 2 ^ 20
      if !s'.stripesFit total then s.refused
      else ({ s' with stripes := (s'.stripes.map fun e =>
                        if e.1 % 65536 == ctx.toNat then (e.1, e.2.filter fun b => decide (b.1 < n)) else e).filter
                          (fun e => !e.2.isEmpty),
                      poison := s'.poison.filter (fun e => match e.1 with
                        | .stripe _ x o => x != ctx.toNat || decide (o < n)
                        | _ => true) } : State).fine

/-- Whether every page of a range of a context satisfies a test on its physical base. -/
def State.pagesAll (s : State) (root va n : Nat) (ok : Nat → Bool) : Bool :=
  (List.range ((va + n + 65535) / 65536 - va / 65536)).all fun k =>
    match s.pageOf root ((va / 65536 + k) * 65536) with
    | some (_, e, shift) => ok (bits e 51 8 * 256 / 2 ^ shift * 2 ^ shift)
    | none => false

/-- `IMAGE` (R387, R388): each stack part on its own stack, the host part in host memory. The addresses are virtual ones of the
context, whose pages are checked. -/
def execImage (tag : BitVec 16) (ctx addr size haddr hsize interval : Word) (s : State) : Host.Outcome State Fault Refusal :=
  s.command tag true false fun s _ =>
    match Assoc.find s.ctxs ctx.toNat with
    | none => s.refused
    | some c =>
      let part := size.toNat / 8
      let homes := (List.range 8).all fun d =>
        s.pagesAll c.root (addr.toNat + d * part) part fun pa => !isHostPa pa && stackOf pa == d
      if size.toNat % (8 * 65536) != 0 || 2 ^ 20 < interval.toNat || !homes ||
          !s.pagesAll c.root haddr.toNat hsize.toNat isHostPa then s.refused
      else (s.modCtx ctx.toNat fun c =>
        { c with image := some (addr.toNat, size.toNat, haddr.toNat, hsize.toNat), interval := interval.toNat }).fine

/-- `EVQ` (R383). -/
def execEvq (tag : BitVec 16) (ctx addr k : Word) (s : State) : Host.Outcome State Fault Refusal :=
  s.command tag true false fun s _ =>
    if !s.hasCtx ctx || addr.toNat % 4096 != 0 || 2 ^ 51 ≤ addr.toNat || k.toNat < 4 || 16 < k.toNat then s.refused
    else ((s.modCtx ctx.toNat fun c => { c with evq := some (addr.toNat, k.toNat), produced := 0 }).evqLost ctx.toNat).fine

/-! ### Bindings (R105, R319, R323, R404) -/

/-- Bind a phaser afresh, or unbind it: it has no members (R319). -/
def State.bindPhaser (s : State) (key : Nat) (c : Option Nat) : State :=
  let s := s.setPhaser key { Phaser.unbound with ctx := c }
  { s with tasks := s.tasks.map fun e => (e.1, { e.2 with members := e.2.members.filter fun m => m.key != key }) }

/-- `BIND` (R404). -/
def execBind (tag : BitVec 16) (kind idx ctx : Word) (s : State) : Host.Outcome State Fault Refusal :=
  s.command tag true false fun s _ =>
    let n := idx.toNat
    let c : Option Nat := if ctx == 0xFFFF then none else some ctx.toNat
    let other (x : Option Nat) : Bool := c.isSome && x.isSome && x != c
    let limit := match kind.toNat with
      | 0 => 8192 | 1 => 256 | 2 => 16 | 3 => 60 | _ => 0
    if limit ≤ n || (c.isSome && !s.hasCtx ctx) then s.refused
    else match kind.toNat with
      | 2 =>
        let b := s.barrier n
        if other b.ctx || b.lr.isSome then .done s 2 0
        else (s.setBarrier n { Superstep.unbound with ctx := c }).fine
      | 3 =>
        if other (Assoc.find s.auctions n) then .done s 2 0
        else (match c with
          | some c => ({ s with auctions := Assoc.put s.auctions n c } : State)
          | none => { s with auctions := Assoc.erase s.auctions n }).fine
      | k =>
        let key := if k == 1 then 8192 + n else n
        if other (s.phaser key).ctx then .done s 2 0 else (s.bindPhaser key c).fine

/-! ### Translation and pages (R259, R301) -/

/-- Whether a held translated access of a task in a range is not yet performed. -/
def Task.heldIn (t : Task) (va n : Nat) : Bool := t.kq.held.any fun h =>
  let hit (a : Word) (w : Nat) (pl : Place) : Bool := match pl with
    | .phys _ _ => overlaps (a.toNat, a.toNat + w) va (va + n)
    | _ => false
  match h.acc with
  | .load a w pl => hit a w pl
  | .store a w _ pl => hit a w pl
  | .peer _ _ _ => false

/-- Whether a generator of a task is inside an operand with a translated part in a range. -/
def Task.begunIn (t : Task) (va n : Nat) : Bool := t.gens.any fun e => e.2.busy && e.2.active.any fun a =>
  (a.par.operandPieces (decide (4 ≤ e.1)) e.2.pos).any fun x => regionOf x.va == 0 && overlaps (x.va, x.va + x.len) va (va + n)

/-- Whether a translated access of a context in a range is not yet performed, one of a cut task among them. -/
def State.heldIn (s : State) (ctx va n : Nat) : Bool :=
  s.tasks.any fun e => e.2.ctx == ctx && (e.2.heldIn va n || e.2.begunIn va n)

/-- `TLB_INVAL` (R301): it completes when every access that used an old entry has been performed. -/
def execTlbInval (tag : BitVec 16) (addr len : Word) (s : State) : Host.Outcome State Fault Refusal :=
  s.command tag false false fun s c =>
    if s.heldIn c addr.toNat len.toNat then .retry s
    else
      let asid := s.asidOf c
      let keep (e : TlbEntry) : Bool :=
        e.asid != asid || decide (addr.toNat + len.toNat ≤ e.vbase) || decide (e.vbase + e.size ≤ addr.toNat)
      ({ s with coreTlb := s.coreTlb.map fun x => (x.1, x.2.filter keep),
                dieTlb := s.dieTlb.map fun x => (x.1, x.2.filter keep) } : State).fine

/-- `PAGE_MOVE` (R259): it waits for a link that sleeps (R379). -/
def execPageMove (tag : BitVec 16) (addr stack : Word) (s : State) : Host.Outcome State Fault Refusal :=
  s.command tag false false fun s c =>
    if 8 ≤ stack.toNat then s.refused
    else match s.movePage c addr.toNat stack.toNat (· == 16) with
      | .moved s => s.fine
      | .waiting s => .retry s
      | .refused => s.refused

/-! ### Memory (R405) -/

/-- `MEM_WRITE` (R405). -/
def execMemWrite (tag : BitVec 16) (va len haddr : Word) (s : State) : Host.Outcome State Fault Refusal :=
  s.command tag false false fun s c =>
    if !copyLen len then s.refused
    else s.copyInto (fun s a => s.hubPa c a .write) haddr.toNat (copyPieces va.toNat len.toNat)

/-- `MEM_READ` (R405). -/
def execMemRead (tag : BitVec 16) (va len haddr : Word) (s : State) : Host.Outcome State Fault Refusal :=
  s.command tag false false fun s c =>
    if !copyLen len then s.refused
    else copyRes (s.copyOut (fun s a => s.hubPa c a .read) haddr.toNat 0 (copyPieces va.toNat len.toNat))

/-- `PHYS_WRITE` (R405). -/
def execPhysWrite (tag : BitVec 16) (pa len haddr : Word) (s : State) : Host.Outcome State Fault Refusal :=
  s.command tag true false fun s _ =>
    if !copyLen len || !s.physRange pa.toNat len.toNat then s.refused
    else s.copyInto (fun _ a => some a) haddr.toNat (copyPieces pa.toNat len.toNat)

/-- `PHYS_READ` (R405). -/
def execPhysRead (tag : BitVec 16) (pa len haddr : Word) (s : State) : Host.Outcome State Fault Refusal :=
  s.command tag true false fun s _ =>
    if !copyLen len || !s.physRange pa.toNat len.toNat then s.refused
    else copyRes (s.copyOut (fun _ a => some a) haddr.toNat 0 (copyPieces pa.toNat len.toNat))

/-! ### The weighmaster and operating points (R12, R13, R62, R68) -/

/-- Whether a PSR_WRITE waits: an evaluation of its PSR's class was due when it arrived, and none has ended since (R62). -/
def State.psrWaits (s : State) (g : GovClass) : Bool := !g.due.isEmpty && (s.ringAt 0).psrWait.all (· == g.ended)

/-- `PSR_WRITE` (R62): it waits for the evaluation of its PSR's class that is due when it arrives, and for no later one. The first value
word is the low one. -/
def execPsrWrite (tag : BitVec 16) (layer role lo hi : Word) (s : State) : Host.Outcome State Fault Refusal :=
  s.command tag true false fun s _ =>
    if 65536 ≤ layer.toNat || roleBad role.toNat then s.refused
    else
      let k := psrKey layer.toNat role.toNat
      let g := s.govClass (s.psr k).cls
      if s.psrWaits g then .retry (s.setRing 0 { s.ringAt 0 with psrWait := some g.ended })
      else
        let (s, st) := s.psrWrite k (lo.toNat + 2 ^ 64 * hi.toNat)
        .done s st 0

/-- `CLASS_TARGET` (R68). -/
def execClassTarget (tag : BitVec 16) (cls target : Word) (s : State) : Host.Outcome State Fault Refusal :=
  s.command tag true false fun s _ =>
    if 16 ≤ cls.toNat || target.toNat == 0 || 65535 < target.toNat then s.refused
    else (s.setTarget cls.toNat target.toNat).fine

/-- Set the host's point of a die (R12, R404): a held die keeps its clock, and goes to the host's point when the hold ends (R13; DEDUCED,
assumption 32); one that its temperature or the power cap has lowered runs no faster than it did. -/
def State.hostPoint (s : State) (p d : Nat) : State :=
  let x := s.die d
  let s := s.setDie d { x with hostPoint := p }
  (if s.holdsDie d then s else s.setPoint d (if x.hot || x.capped then max p x.point else p)).retherm

/-- `OP_POINT` (R12, R13). -/
def execOpPoint (tag : BitVec 16) (mask point : Word) (s : State) : Host.Outcome State Fault Refusal :=
  s.command tag true false fun s _ =>
    if 256 ≤ mask.toNat || 3 ≤ point.toNat then s.refused
    else (((List.range 8).filter fun d => bitAt mask.toNat d).foldl (fun s d => s.hostPoint point.toNat d) s).fine

/-! ### Ports and kernels (R353, R357, R409) -/

/-- Whether a control word of a flow is in range: its reserved bits are 0, and a valid one has a budget from 1 to 256. -/
def controlOk (x : Flow) : Bool := x.f 74 32 == 0 && (!x.valid || (1 ≤ x.budget && x.budget ≤ 256))

/-- `FLOW_WRITE` (R353). The first control word is the low one. -/
def execFlowWrite (tag : BitVec 16) (port flow lo hi addr : Word) (s : State) : Host.Outcome State Fault Refusal :=
  s.command tag true false fun s _ =>
    let x : Flow := { ctl := BitVec.ofNat 128 (lo.toNat + 2 ^ 64 * hi.toNat),
                      state := writeBytes [] 0 (s.hostRead addr.toNat 128) }
    if 16 ≤ port.toNat || 4096 ≤ flow.toNat || !controlOk x then s.refused
    else (((s.setFlow port.toNat flow.toNat x).clearPoison (.flow port.toNat flow.toNat 0)).clearPoison
      (.flow port.toNat flow.toNat 1)).fine

/-- `CLASSIFY` (R353). -/
def execClassify (tag : BitVec 16) (port entry job src flow : Word) (s : State) : Host.Outcome State Fault Refusal :=
  s.command tag true false fun s _ =>
    if 16 ≤ port.toNat || 4096 ≤ entry.toNat || 65536 ≤ job.toNat || 4096 ≤ flow.toNat then s.refused
    else ({ s with classifier := Assoc.put s.classifier (4096 * port.toNat + entry.toNat) (job.toNat, src.toNat, flow.toNat) }
      : State).fine

/-- `KERNEL_LOAD` (R357, R409). The length is in bytes, and the store has 16,384 words. -/
def execKernelLoad (tag : BitVec 16) (port pp off addr len : Word) (s : State) : Host.Outcome State Fault Refusal :=
  s.command tag true false fun s _ =>
    if 16 ≤ port.toNat || 2 ≤ pp.toNat || len.toNat % 4 != 0 || len.toNat == 0 || 65536 < 4 * off.toNat + len.toNat then s.refused
    else
      let bs := s.hostRead addr.toNat len.toNat
      let ws := (List.range (len.toNat / 4)).map fun k => leNat ((bs.drop (4 * k)).take 4)
      if !imageOk ws then s.refused
      else
        let p := 2 * port.toNat + pp.toNat
        let x := s.pitch p
        let s := s.setPitch p { x with store := Assoc.splice 0 x.store off.toNat (ws.map (BitVec.ofNat 32)) }
        let old := s.measure4 ++ List.replicate (64 - s.measure4.length) 0
        let id : List Byte := [BitVec.ofNat 8 port.toNat, BitVec.ofNat 8 pp.toNat]
        let lo := off.toNat
        let hi := off.toNat + ws.length
        ({ s with measure4 := shake64 (old ++ id ++ bs),
                  poison := s.poison.filter (fun e => match e.1 with
                    | .kernel a b w => !(a == port.toNat && b == pp.toNat && decide (lo ≤ w / 16 * 16) &&
                        decide (w / 16 * 16 + 16 ≤ hi))
                    | _ => true) } : State).fine

/-! ### Tasks, statistics and records (R395, R401, R404, R408, R410) -/

/-- `TASK_RESUME` (R395): a halted task waits to resume on a core of its die, and resumes at once where one can hold it. Its status
stands in the record's ERR (R78). -/
def execTaskResume (tag : BitVec 16) (lr wid : Word) (s : State) : Host.Outcome State Fault Refusal :=
  s.command tag false false fun s c =>
    if 4096 ≤ lr.toNat then s.refused
    else if (s.lrec lr.toNat).ctx != some c then .done s 1 0
    else match s.tasks.find? fun e => e.2.lr == lr.toNat && e.2.wid == wid && e.2.life == .halted with
      | some (tid, t) => (((s.setTask tid { t with life := .cut }).resumeTask tid).setErr lr.toNat c 0).fine
      | none => .done (s.setErr lr.toNat c 2) 2 0

/-- The block of R401 as a number. -/
def LaunchRec.stats (r : LaunchRec) : Nat :=
  r.epoch.toNat + r.retired % 2 ^ 64 * 2 ^ 64 + r.traps % 2 ^ 32 * 2 ^ 128 + r.cuts % 2 ^ 32 * 2 ^ 160 + r.held % 2 ^ 64 * 2 ^ 192

/-- `LAUNCH_STATS` (R401). -/
def execLaunchStats (tag : BitVec 16) (lr addr : Word) (s : State) : Host.Outcome State Fault Refusal :=
  s.command tag false false fun s c =>
    if 4096 ≤ lr.toNat then s.refused
    else if (s.lrec lr.toNat).ctx != some c then .done s 1 0
    else (s.hostWrite addr.toNat (toBytes 32 (s.lrec lr.toNat).stats)).fine

/-- The bytes of the configuration record; 0 before it is published. -/
def State.configBytes (s : State) : List Byte := s.config ++ List.replicate (64 - s.config.length) 0

/-- `CONFIG_READ` (R408). -/
def execConfigRead (tag : BitVec 16) (addr : Word) (s : State) : Host.Outcome State Fault Refusal :=
  s.command tag true true fun s _ => (s.hostWrite addr.toNat s.configBytes).fine

/-- `ERR_READ` (R372, R404): the counts in the order of the array codes 1 to 10. -/
def execErrRead (tag : BitVec 16) (addr clear : Word) (s : State) : Host.Outcome State Fault Refusal :=
  s.command tag true false fun s _ =>
    let bs := (List.range 10).flatMap fun k => toBytes 8 (Assoc.get 0 s.corrected (k + 1)).toNat
    let s := s.hostWrite addr.toNat bs
    (if clear == 0 then s else { s with corrected := [] }).fine

/-- The measurements 1 to 4 (R409). -/
def State.measurements (s : State) : List Byte :=
  let pad (l : List Byte) : List Byte := l ++ List.replicate (64 - l.length) 0
  (List.range 64).map (Config.measurement 1) ++ (List.range 64).map (Config.measurement 2) ++ pad s.measure3 ++ pad s.measure4

/-- `ATTEST` (R410). -/
def execAttest (tag : BitVec 16) (nonce addr : Word) (s : State) : Host.Outcome State Fault Refusal :=
  s.command tag true true fun s _ =>
    let body := s.hostRead nonce.toNat 32 ++ s.measurements ++ s.configBytes.take 30
    (s.hostWrite addr.toNat (body ++ (List.range 114).map (Config.signature body))).fine

/-- `UNSUPPORTED_COMMAND` (R403): on any ring. -/
def execUnsupportedCommand (tag _op : BitVec 16) (s : State) : Host.Outcome State Fault Refusal :=
  match s.cur with
  | .ring n => .next (s.postCompletion n tag (if s.bootFail then 13 else 12) 0)
  | _ => .fault .noIssuer

end Sys2Proof.Machine
end

