-- ==== Sys2Proof/Machine/Pred.lean ====
section
/-! DEFINITION. PRED: predicate logic (R195). -/

namespace Sys2Proof.Machine

/-- A predicate instruction: it writes the active lanes of pd, on its slot's own pipe (R175, R195). -/
def State.predOp (s : State) (w : Stall) (p : Pfx) (d : Fin 16) (srcs : List (Fin 16)) (f : Mask → Mask → Mask) :
    Host.Outcome State Fault Refusal :=
  s.issue w (fun _ => RegName.p d.val :: pfxNames p ++ (srcs.filter (· != 0)).map fun a => .p a.val) fun s tid _ t =>
    let m := t.active p
    let v (k : Nat) : Mask := match srcs[k]? with
      | some a => t.preg a.val
      | none => 0
    .done (if m == 0 then s else s.predResult tid 4 d.val m (f (v 0) (v 1)))

/-- `pand` (R195): pa AND pb. -/
def execPand (w : Stall) (p : Pfx) (d a b : Fin 16) (s : State) : Host.Outcome State Fault Refusal :=
  s.predOp w p d [a, b] fun x y => x &&& y

/-- `por` (R195): pa OR pb. -/
def execPor (w : Stall) (p : Pfx) (d a b : Fin 16) (s : State) : Host.Outcome State Fault Refusal :=
  s.predOp w p d [a, b] fun x y => x ||| y

/-- `pxor` (R195): pa XOR pb. -/
def execPxor (w : Stall) (p : Pfx) (d a b : Fin 16) (s : State) : Host.Outcome State Fault Refusal :=
  s.predOp w p d [a, b] fun x y => x ^^^ y

/-- `pnot` (R195): NOT pa. -/
def execPnot (w : Stall) (p : Pfx) (d a : Fin 16) (s : State) : Host.Outcome State Fault Refusal :=
  s.predOp w p d [a] fun x _ => ~~~x

/-- `pset` (R195): the lanes of the first `y` rows and the first `x` columns. -/
def execPset (w : Stall) (p : Pfx) (d : Fin 16) (y : BitVec 5) (x : BitVec 7) (s : State) :
    Host.Outcome State Fault Refusal :=
  s.predOp w p d [] fun _ _ => maskOf (fun k => decide (k / 64 < y.toNat) && decide (k % 64 < x.toNat)) 1024

/-- `pcnt` (R195): per row, the active lanes in which pa is 1. -/
def execPcnt (w : Stall) (p : Pfx) (d : VDst) (a : Fin 16) (s : State) : Host.Outcome State Fault Refusal :=
  s.issue w (fun t => dstNames t d ++ pfxNames p ++ (if a = 0 then [] else [.p a.val])) fun s tid _ t =>
    let m := t.active p
    if m == 0 then .done s
    else if !t.pushReady d then .hold s (pushWait d)
    else
      let on := m &&& t.preg a.val
      let count (r : Nat) : Nat := ((List.range 64).filter fun c => on.getLsbD (64 * r + c)).length
      let rows := (List.range 16).map count
      .done (s.vecResult tid t 8 d m (mapLanes m (fun k _ _ _ => rows.getD (k / 64) 0) [] [] []))

end Sys2Proof.Machine
end

