-- ==== Sys2Proof/Machine/VArith.lean ====
section
/-! DEFINITION. VARITH: elementwise arithmetic (R176 to R178). -/

namespace Sys2Proof.Machine

/-- `vadd` (R177): a + b. -/
def execVadd (w : Stall) (p : Pfx) (t : NumType) (r : Rnd) (u : Bool) (d : VDst) (a b : VSrc) (s : State) :
    Host.Outcome State Fault Refusal :=
  s.vecTyped w p t r u 4 d [a, b] fun x y _ => x.add r y

/-- `vsub` (R177): a − b. -/
def execVsub (w : Stall) (p : Pfx) (t : NumType) (r : Rnd) (u : Bool) (d : VDst) (a b : VSrc) (s : State) :
    Host.Outcome State Fault Refusal :=
  s.vecTyped w p t r u 4 d [a, b] fun x y _ => x.add r y.neg

/-- `vmul` (R177): a × b. -/
def execVmul (w : Stall) (p : Pfx) (t : NumType) (r : Rnd) (u : Bool) (d : VDst) (a b : VSrc) (s : State) :
    Host.Outcome State Fault Refusal :=
  s.vecTyped w p t r u 4 d [a, b] fun x y _ => x.mul y

/-- `vfma` (R177): a × b + c, rounded once. -/
def execVfma (w : Stall) (p : Pfx) (t : NumType) (r : Rnd) (u : Bool) (d : VDst) (a b c : VSrc) (s : State) :
    Host.Outcome State Fault Refusal :=
  s.vecTyped w p t r u 6 d [a, b, c] fun x y z => (x.mul y).add r z

/-- `vfms` (R177): a × b − c, rounded once. -/
def execVfms (w : Stall) (p : Pfx) (t : NumType) (r : Rnd) (u : Bool) (d : VDst) (a b c : VSrc) (s : State) :
    Host.Outcome State Fault Refusal :=
  s.vecTyped w p t r u 6 d [a, b, c] fun x y z => (x.mul y).add r z.neg

/-- `vfnma` (R177): c − a × b, rounded once. -/
def execVfnma (w : Stall) (p : Pfx) (t : NumType) (r : Rnd) (u : Bool) (d : VDst) (a b c : VSrc) (s : State) :
    Host.Outcome State Fault Refusal :=
  s.vecTyped w p t r u 6 d [a, b, c] fun x y z => z.add r (x.mul y).neg

/-- `vmin` (R177, R178): the smaller of a and b. -/
def execVmin (w : Stall) (p : Pfx) (t : NumType) (r : Rnd) (u : Bool) (d : VDst) (a b : VSrc) (s : State) :
    Host.Outcome State Fault Refusal :=
  s.vecTyped w p t r u 4 d [a, b] fun x y _ => x.min y

/-- `vmax` (R177, R178): the larger of a and b. -/
def execVmax (w : Stall) (p : Pfx) (t : NumType) (r : Rnd) (u : Bool) (d : VDst) (a b : VSrc) (s : State) :
    Host.Outcome State Fault Refusal :=
  s.vecTyped w p t r u 4 d [a, b] fun x y _ => x.max y

/-- `vabs` (R177, R178): |a|. -/
def execVabs (w : Stall) (p : Pfx) (t : NumType) (r : Rnd) (u : Bool) (d : VDst) (a : VSrc) (s : State) :
    Host.Outcome State Fault Refusal :=
  s.vecTyped w p t r u 4 d [a] fun x _ _ => x.abs

/-- `vneg` (R177, R178): −a. -/
def execVneg (w : Stall) (p : Pfx) (t : NumType) (r : Rnd) (u : Bool) (d : VDst) (a : VSrc) (s : State) :
    Host.Outcome State Fault Refusal :=
  s.vecTyped w p t r u 4 d [a] fun x _ _ => x.neg

/-- `vclmp` (R177, R178): min(max(a, b), c). -/
def execVclmp (w : Stall) (p : Pfx) (t : NumType) (r : Rnd) (u : Bool) (d : VDst) (a b c : VSrc) (s : State) :
    Host.Outcome State Fault Refusal :=
  s.vecTyped w p t r u 4 d [a, b, c] fun x y z => (x.max y).min z

/-- A float rounded to an integral value under a rounding (R178). -/
def integral (x : Ext) (r : Rnd) (draw : Nat) : Ext :=
  match x with
  | .fin neg _ _ => .fin neg (roundInt x r draw).natAbs 0
  | x => x

/-- `vrnd` (R177, R178): a rounded to an integral value in TYPE under RND. -/
def execVrnd (w : Stall) (p : Pfx) (t : NumType) (r : Rnd) (u : Bool) (d : VDst) (a : VSrc) (s : State) :
    Host.Outcome State Fault Refusal :=
  s.vecOne w (VForm.of p r [a]) 6 d fun tk m a _ _ =>
    (m, mapElements m t.width (fun k e x _ _ => convert t (integral (valOf t x) r (tk.draw k e)) .rne u 0) a [] [])

end Sys2Proof.Machine
end

