-- ==== Sys2Proof/Machine/VCmp.lean ====
section
/-! DEFINITION. VCMP: comparisons into predicates (R181). -/

namespace Sys2Proof.Machine

/-- A comparison of the 32-bit lanes of a type (R181). -/
def State.vecCmp (s : State) (w : Stall) (p : Pfx) (t : NumType) (d : Fin 16) (a b : VSrc) (f : Ext → Ext → Bool) :
    Host.Outcome State Fault Refusal :=
  s.vecTest w p d [a, b] fun x y => f (valOf t x) (valOf t y)

/-- `vcmpeq` (R181): a = b. -/
def execVcmpeq (w : Stall) (p : Pfx) (t : NumType) (d : Fin 16) (a b : VSrc) (s : State) :
    Host.Outcome State Fault Refusal :=
  s.vecCmp w p t d a b fun x y => x.eq y

/-- `vcmpne` (R181): a ≠ b; true of a NaN. -/
def execVcmpne (w : Stall) (p : Pfx) (t : NumType) (d : Fin 16) (a b : VSrc) (s : State) :
    Host.Outcome State Fault Refusal :=
  s.vecCmp w p t d a b fun x y => !x.eq y

/-- `vcmplt` (R181): a < b. -/
def execVcmplt (w : Stall) (p : Pfx) (t : NumType) (d : Fin 16) (a b : VSrc) (s : State) :
    Host.Outcome State Fault Refusal :=
  s.vecCmp w p t d a b fun x y => x.lt y

/-- `vcmple` (R181): a ≤ b. -/
def execVcmple (w : Stall) (p : Pfx) (t : NumType) (d : Fin 16) (a b : VSrc) (s : State) :
    Host.Outcome State Fault Refusal :=
  s.vecCmp w p t d a b fun x y => x.lt y || x.eq y

/-- `vcmpgt` (R181): a > b. -/
def execVcmpgt (w : Stall) (p : Pfx) (t : NumType) (d : Fin 16) (a b : VSrc) (s : State) :
    Host.Outcome State Fault Refusal :=
  s.vecCmp w p t d a b fun x y => y.lt x

/-- `vcmpge` (R181): a ≥ b. -/
def execVcmpge (w : Stall) (p : Pfx) (t : NumType) (d : Fin 16) (a b : VSrc) (s : State) :
    Host.Outcome State Fault Refusal :=
  s.vecCmp w p t d a b fun x y => y.lt x || x.eq y

/-- The bit of IMM12 that stands for the class of an f32 code (R181). -/
def classBit (x : Nat) : Nat :=
  let neg := bitAt x 31
  let e := bits x 30 23
  let f := bits x 22 0
  if e == 255 then (if f != 0 then 8 else if neg then 0 else 7)
  else if e != 0 then (if neg then 1 else 6)
  else if f != 0 then (if neg then 2 else 5)
  else if neg then 3 else 4

/-- `vclass` (R181). -/
def execVclass (w : Stall) (p : Pfx) (d : Fin 16) (a : VSrc) (m : BitVec 9) (s : State) :
    Host.Outcome State Fault Refusal :=
  s.vecTest w p d [a] fun x _ => m.getLsbD (classBit x)

end Sys2Proof.Machine
end

