-- ==== Sys2Proof/Machine/Lines.lean ====
section
/-! DEFINITION. Lines of a vector register: what the row group and the column group share (R183 to R185). -/

namespace Sys2Proof.Machine

/-! ### Lines -/

/-- A list cut into pieces of `n`. -/
def pieces {α : Type} (fuel n : Nat) (l : List α) : List (List α) :=
  match fuel with
  | 0 => []
  | fuel + 1 => if l.isEmpty then [] else l.take n :: pieces fuel n (l.drop n)

/-- The columns of rows of length `n`. -/
def columns {α : Type} (n : Nat) (rows : List (List α)) : List (List α) :=
  rows.foldr (fun row acc => row.zipWith List.cons acc) (List.replicate n [])

/-- Apply a function to every line of a register of 16 rows of `n` values: its rows, or its columns. -/
def byLine {α β : Type} (col : Bool) (n : Nat) (f : Nat → List α → List β) (l : List α) : List β :=
  let rows := pieces 16 n l
  if col then (columns 16 ((numbered 0 (columns n rows)).map fun e => f e.1 e.2)).flatten
  else ((numbered 0 rows).map fun e => f e.1 e.2).flatten

/-- Whether each lane of a set is in it, in order; `step` 2 takes the lower lane of each fxa value. -/
def maskBits (m : Mask) (step n : Nat) : List Bool := (List.range n).map fun k => m.getLsbD (step * k)

/-! ### Rotations, broadcasts and lookups (R183, R185) -/

/-- A move of whole lanes along lines, which reads every lane. -/
def State.lineMove (s : State) (w : Stall) (p : Pfx) (col : Bool) (lat : Nat) (d : VDst) (a : VSrc) (f : List Nat → List Nat) :
    Host.Outcome State Fault Refusal :=
  s.vecOne w (VForm.of p .rne [a]) lat d fun _ m a _ _ =>
    let moved := byLine col 64 (fun _ l => f l) (laneVals a)
    (m, VReg.of (((maskBits m 1 1024).zip moved).map fun e => if e.1 then e.2 else 0))

/-- Position j moves to position j + k of its line. -/
def rotateLine (k : Nat) (l : List Nat) : List Nat := l.drop (l.length - k) ++ l.take (l.length - k)

/-- Every position takes the value at position k. -/
def spreadLine (k : Nat) (l : List Nat) : List Nat := List.replicate l.length (l.getD k 0)

/-- A lookup along lines (R185): a lane is written when it and the lane it reads are active. -/
def State.lineLook (s : State) (w : Stall) (p : Pfx) (col : Bool) (lat : Nat) (d : VDst) (a b : VSrc) :
    Host.Outcome State Fault Refusal :=
  s.vecOne w (VForm.of p .rne [a, b]) lat d fun _ m a b _ =>
    let n := if col then 16 else 64
    let got := byLine col 64 (fun _ (l : List (Bool × Nat × Nat)) =>
      l.map fun x =>
        match l.getD (x.2.2 % n) (false, 0, 0) with
        | (on, v, _) => if x.1 && on then some v else none)
      ((maskBits m 1 1024).zip ((laneVals a).zip (laneVals b)))
    (resultMask d m (BitVec.ofNat 1024 (((numbered 0 got).map fun e => if e.2.isSome then 2 ^ e.1 else 0).sum)),
     VReg.of (got.map fun v => v.getD 0))

/-! ### Reductions and scans (R184) -/

/-- The value of a reduction: its operation folded over the contributing values, in any order the same. -/
def foldLine (g : Ext → Ext → Ext) (l : List (Option Ext)) : Option Ext :=
  l.foldl (fun acc x => match acc, x with
    | some a, some v => some (g a v)
    | none, x => x
    | acc, none => acc) none

/-- The values of a scan, position by position. -/
def scanLine (g : Ext → Ext → Ext) : Option Ext → List (Option Ext) → List (Option Ext)
  | _, [] => []
  | acc, x :: r =>
    let a := match acc, x with
      | some a, some v => some (g a v)
      | none, x => x
      | acc, none => acc
    a :: scanLine g a r

/-- A reduction or scan along lines: exact, rounded once, with one draw for each line, that of its first lane. -/
def lineReduce (t : Task) (col : Bool) (ty : NumType) (rnd : Rnd) (sat : Bool)
    (f : List (Option Ext) → List (Option Ext)) (m : Mask) (a : VReg) : Mask × VReg :=
  let fxa := ty == .fxa
  let n := if fxa then 32 else 64
  let step := if fxa then 2 else 1
  let vals := if fxa then pairs (laneVals a) else laneVals a
  let out := byLine col n (fun line (l : List (Option Ext)) =>
    let lane := if col then step * line else 64 * line
    (f l).map fun v => match v with
      | some v => convert ty v rnd sat (t.draw lane 0)
      | none => 0)
    (((maskBits m step (16 * n)).zip vals).map fun e => if e.1 then some (valOf ty e.2) else none)
  let out := ((maskBits m step (16 * n)).zip out).map fun e => if e.1 then e.2 else 0
  if fxa then (pairMask m, VReg.of (unpairs out)) else (m, VReg.of out)

/-- An instruction that reduces along lines. -/
def State.lineFold (s : State) (w : Stall) (p : Pfx) (col : Bool) (ty : NumType) (r : Rnd) (u : Bool) (lat : Nat) (d : VDst)
    (a : VSrc) (g : Ext → Ext → Ext) : Host.Outcome State Fault Refusal :=
  s.vecOne w (VForm.of p r [a]) lat d fun t m a _ _ =>
    lineReduce t col ty r u (fun l => List.replicate l.length (foldLine g l)) m a

/-- An instruction that scans along lines. -/
def State.lineScan (s : State) (w : Stall) (p : Pfx) (col : Bool) (ty : NumType) (r : Rnd) (u : Bool) (lat : Nat) (d : VDst)
    (a : VSrc) (g : Ext → Ext → Ext) : Host.Outcome State Fault Refusal :=
  s.vecOne w (VForm.of p r [a]) lat d fun t m a _ _ => lineReduce t col ty r u (scanLine g none) m a

end Sys2Proof.Machine
end

