-- ==== Sys2Proof/Machine/VCol.lean ====
section
/-! DEFINITION. VCOL: along a column (R183 to R185). -/

namespace Sys2Proof.Machine

/-- `vrotc` (R183). -/
def execVrotc (w : Stall) (p : Pfx) (d : VDst) (a : VSrc) (k : Fin 16) (s : State) : Host.Outcome State Fault Refusal :=
  s.lineMove w p true 10 d a (rotateLine k.val)

/-- `vbcc` (R183). -/
def execVbcc (w : Stall) (p : Pfx) (d : VDst) (a : VSrc) (k : Fin 16) (s : State) : Host.Outcome State Fault Refusal :=
  s.lineMove w p true 10 d a (spreadLine k.val)

/-- `vsumc` (R183, R184). -/
def execVsumc (w : Stall) (p : Pfx) (t : NumType) (r : Rnd) (u : Bool) (d : VDst) (a : VSrc) (s : State) :
    Host.Outcome State Fault Refusal :=
  s.lineFold w p true t r u 12 d a (Ext.add r)

/-- `vmaxc` (R183, R184). -/
def execVmaxc (w : Stall) (p : Pfx) (t : NumType) (d : VDst) (a : VSrc) (s : State) : Host.Outcome State Fault Refusal :=
  s.lineFold w p true t .rne false 12 d a Ext.max

/-- `vminc` (R183, R184). -/
def execVminc (w : Stall) (p : Pfx) (t : NumType) (d : VDst) (a : VSrc) (s : State) : Host.Outcome State Fault Refusal :=
  s.lineFold w p true t .rne false 12 d a Ext.min

/-- `vscnc` (R183, R184). -/
def execVscnc (w : Stall) (p : Pfx) (t : NumType) (r : Rnd) (u : Bool) (d : VDst) (a : VSrc) (s : State) :
    Host.Outcome State Fault Refusal :=
  s.lineScan w p true t r u 12 d a (Ext.add r)

/-- `vxlc` (R183, R185). -/
def execVxlc (w : Stall) (p : Pfx) (d : VDst) (a b : VSrc) (s : State) : Host.Outcome State Fault Refusal :=
  s.lineLook w p true 10 d a b

end Sys2Proof.Machine
end

