-- ==== Sys2Proof/Machine/VMove.lean ====
section
/-! DEFINITION. VMOVE: moves, selection and constants (R182). -/

namespace Sys2Proof.Machine

/-- `vmov` (R182). -/
def execVmov (w : Stall) (p : Pfx) (d : VDst) (a : VSrc) (s : State) : Host.Outcome State Fault Refusal :=
  s.vecBits w p 4 d [a] fun _ x _ _ => x

/-- `vsel` (R182): the predicate selects, and every lane is written whatever it holds. A pushed entry carries its selected value
in every lane, and beside it the activity mask (R173, R266). -/
def execVsel (w : Stall) (p : Pfx) (d : VDst) (a b : VSrc) (s : State) : Host.Outcome State Fault Refusal :=
  s.vecOne w { VForm.of p .rne [a, b] with every := true } 4 d fun _ m a b _ =>
    (resultMask d m (BitVec.allOnes 1024), mapLanes (BitVec.allOnes 1024) (fun k x y _ => if m.getLsbD k then x else y) a b [])

/-- `vsplat` (R182). -/
def execVsplat (w : Stall) (p : Pfx) (d : VDst) (a : VSrc) (y : Fin 16) (x : Fin 64) (s : State) :
    Host.Outcome State Fault Refusal :=
  s.vecOne w (VForm.of p .rne [a]) 10 d fun _ m a _ _ =>
    let v := (Assoc.get 0 a (64 * y.val + x.val)).toNat
    (m, mapLanes m (fun _ _ _ _ => v) [] [] [])

/-- The lane value of `vmovi` (R182). -/
def immLane (t : NumType) (k : BitVec 18) : Nat := if t == .f32 then k.toNat * 2 ^ 14 else (k.signExtend 32).toNat

/-- `vmovi` (R182). -/
def execVmovi (w : Stall) (p : Pfx) (t : NumType) (d : VDst) (k : BitVec 18) (s : State) :
    Host.Outcome State Fault Refusal :=
  s.vecBits w p 4 d [] fun _ _ _ _ => immLane t k

/-- An element extended to 32 bits: by sign for i-types, by zeros for n-types. -/
def extendElement (t : NumType) (x : Nat) : Nat := if t.isSInt then wrap 32 (signed t.width x) else x % 2 ^ t.width

/-- `vextr` (R182). -/
def execVextr (w : Stall) (p : Pfx) (t : NumType) (d : VDst) (a : VSrc) (e : Fin 16) (s : State) :
    Host.Outcome State Fault Refusal :=
  s.vecBits w p 4 d [a] fun _ x _ _ => extendElement t (element t.width e.val x)

end Sys2Proof.Machine
end

