-- ==== Sys2Proof/Machine/VConv.lean ====
section
/-! DEFINITION. VCONV: conversion, block quantisation and packing (R186 to R190). -/

namespace Sys2Proof.Machine

/-! ### Conversion (R186) -/

/-- An elementwise conversion of one-per-lane elements. -/
def cvtLane (t : Task) (src dst : NumType) (rnd : Rnd) (sat : Bool) (lane x : Nat) : Nat :=
  convert dst (valOf src (x % 2 ^ src.width)) rnd sat (t.draw lane 0)

/-- A value times 2^k. An exponent far outside every format stands for any farther one: it rounds alike. -/
def scaleBy (x : Ext) (k : Int) : Ext := x.scale (clampInt (-4096) 4096 k)

/-- The exponent X of a row: its lane in column 0 of vb, as i32. -/
def rowExp (b : VReg) (lane : Nat) : Int := signed 32 (Assoc.get 0 b (64 * (lane / 64))).toNat

/-- A conversion from a float or an i32 into fxa: lane (r, 2j) gives value j. -/
def cvtIntoFxa (t : Task) (src : NumType) (rnd : Rnd) (sat : Bool) (m : Mask) (a b : VReg) : Mask × VReg :=
  (pairMask m, VReg.of (unpairs ((numbered 0 (pairs (laneVals a))).map fun e =>
    if m.getLsbD (2 * e.1) then
      convert .fxa (scaleBy (valOf src (e.2 % 2 ^ 32)) (-rowExp b (2 * e.1))) rnd sat (t.draw (2 * e.1) 0)
    else 0)))

/-- A conversion out of fxa: value j gives lane (r, 2j), and lane (r, 2j + 1) is written 0. -/
def cvtOutOfFxa (t : Task) (dst : NumType) (rnd : Rnd) (sat : Bool) (m : Mask) (a b : VReg) : Mask × VReg :=
  (pairMask m, VReg.of (unpairs ((numbered 0 (pairs (laneVals a))).map fun e =>
    if m.getLsbD (2 * e.1) then
      convert dst (scaleBy (valOf .fxa e.2) (rowExp b (2 * e.1))) rnd sat (t.draw (2 * e.1) 0)
    else 0)))

/-- `vcvt` (R186): a one-per-lane form, and the fxa forms. -/
def execVcvt (w : Stall) (p : Pfx) (t : NumType) (r : Rnd) (u : Bool) (d : VDst) (a : VSrc) (b : Option VSrc) (f : NumType)
    (s : State) : Host.Outcome State Fault Refusal :=
  s.vecOne w (VForm.of p r (a :: b.toList)) 6 d fun tk m a b _ =>
    if t == .fxa then cvtIntoFxa tk f r u m a b
    else if f == .fxa then cvtOutOfFxa tk t r u m a b
    else (m, mapLanes m (fun k x _ _ => cvtLane tk f t r u k x) a [] [])

/-! ### Block quantisation (R187, R188) -/

/-- One group of `vqnt`: its active lanes quantised under one scale. Members are (lane, active, code). -/
def quantGroup (t : Task) (ty : NumType) (rnd : Rnd) (sat : Bool) (g : List (Nat × Bool × Nat)) : List (Nat × Nat) :=
  let s := chooseScale ty ((g.filter (·.2.1)).map fun e => valOf .f32 e.2.2)
  g.map fun e => if e.2.1 then (groupElement ty s (valOf .f32 e.2.2) rnd sat (t.draw e.1 0), s) else (0, 0)

/-- `vqnt` (R187): elements into vd and scales into vc. -/
def execVqnt (w : Stall) (p : Pfx) (t : NumType) (r : Rnd) (u : Bool) (d : VDst) (a : VSrc) (c : Fin 32) (k : Blk)
    (s : State) : Host.Outcome State Fault Refusal :=
  s.vecIssue w { VForm.of p r [a] with dsts := [d, .v c] } fun s tid tk m vs =>
    let ls := numbered 0 ((maskBits m 1 1024).zip (laneVals (vs.getD 0 [])))
    let n := 2 ^ k.code * 16
    let out := (pieces (1024 / n) n ls).flatMap (quantGroup tk t r u)
    let lat := if k == .b128 then 12 else 8
    (s.vecResult tid tk lat d m (VReg.of (out.map (·.1)))).vecResult tid tk lat (.v c) m (VReg.of (out.map (·.2)))

/-- `vdqn` (R188). -/
def execVdqn (w : Stall) (p : Pfx) (t : NumType) (r : Rnd) (u : Bool) (d : VDst) (a b : VSrc) (s : State) :
    Host.Outcome State Fault Refusal :=
  s.vecOne w (VForm.of p r [a, b]) 6 d fun tk m a b _ =>
    (m, mapLanes m (fun k x y _ =>
      convert .f32 (blockValue t 1 (y % 256) (x % 2 ^ t.width)) r u (tk.draw k 0)) a b [])

/-! ### Packing and scaling (R189, R190) -/

/-- `vpack` (R189). -/
def execVpack (w : Stall) (p : Pfx) (t : NumType) (d : VDst) (a : VSrc) (e : Fin 16) (s : State) :
    Host.Outcome State Fault Refusal :=
  s.vecOne w (VForm.of p .rne [a]) 6 d fun _ m a _ _ =>
    let n := 32 / t.width
    let l := 64 / n
    let part := maskOf (fun k => decide (k % 64 / l = e.val)) 1024
    (resultMask d m (m &&& part), mapLanes (m &&& part) (fun k _ _ _ => packLane t.width fun i =>
      (Assoc.get 0 a (k / 64 * 64 + n * (k % 64 - e.val * l) + i)).toNat) [] [] [])

/-- `vunpk` (R189). -/
def execVunpk (w : Stall) (p : Pfx) (t : NumType) (d : VDst) (a : VSrc) (e : Fin 16) (s : State) :
    Host.Outcome State Fault Refusal :=
  s.vecOne w (VForm.of p .rne [a]) 6 d fun _ m a _ _ =>
    let n := 32 / t.width
    let l := 64 / n
    (m, mapLanes m (fun k _ _ _ =>
      extendElement t (element t.width (k % 64 % n) (Assoc.get 0 a (k / 64 * 64 + e.val * l + k % 64 / n)).toNat)) [] [] [])

/-- `vscale` (R190): a × 2^k, k the matching element as a signed integer. -/
def execVscale (w : Stall) (p : Pfx) (t : NumType) (r : Rnd) (u : Bool) (d : VDst) (a b : VSrc) (s : State) :
    Host.Outcome State Fault Refusal :=
  s.vecOne w (VForm.of p r [a, b]) 6 d fun tk m a b _ =>
    (m, mapElements m t.width (fun k e x y _ =>
      convert t (scaleBy (valOf t x) (signed t.width y)) r u (tk.draw k e)) a b [])

end Sys2Proof.Machine
end

