-- ==== Sys2Proof/Machine/VLogic.lean ====
section
/-! DEFINITION. VLOGIC: bits, shifts and counts (R180). -/

namespace Sys2Proof.Machine

/-- Leading zero bits of an element of width `n`; n for 0. -/
def leadZeros (n x : Nat) : Nat := if x == 0 then n else n - 1 - x.log2

/-- One bits of an element of width `n`. -/
def oneBits (n x : Nat) : Nat := ((List.range n).map fun k => x / 2 ^ k % 2).sum

/-- `vand` (R180): a AND b. -/
def execVand (w : Stall) (p : Pfx) (d : VDst) (a b : VSrc) (s : State) : Host.Outcome State Fault Refusal :=
  s.vecBits w p 4 d [a, b] fun _ x y _ => x &&& y

/-- `vor` (R180): a OR b. -/
def execVor (w : Stall) (p : Pfx) (d : VDst) (a b : VSrc) (s : State) : Host.Outcome State Fault Refusal :=
  s.vecBits w p 4 d [a, b] fun _ x y _ => x ||| y

/-- `vxor` (R180): a XOR b. -/
def execVxor (w : Stall) (p : Pfx) (d : VDst) (a b : VSrc) (s : State) : Host.Outcome State Fault Refusal :=
  s.vecBits w p 4 d [a, b] fun _ x y _ => x ^^^ y

/-- `vnot` (R180): NOT a. -/
def execVnot (w : Stall) (p : Pfx) (d : VDst) (a : VSrc) (s : State) : Host.Outcome State Fault Refusal :=
  s.vecBits w p 4 d [a] fun _ x _ _ => 2 ^ 32 - 1 - x

/-- The sources of a shift. -/
def shiftSrcs (a : VSrc) : ShAmt → List VSrc
  | .reg b => [a, b]
  | .imm _ => [a]

/-- The amount by which an element of width `n` is shifted: the low bits of the matching element, or the immediate. -/
def shiftAmount (n y : Nat) : ShAmt → Nat
  | .reg _ => y % n
  | .imm k => k.val

/-- A shift of elements of a width. -/
def State.vecShift (s : State) (w : Stall) (p : Pfx) (t : NumType) (d : VDst) (a : VSrc) (m : ShAmt) (f : Nat → Nat → Nat) :
    Host.Outcome State Fault Refusal :=
  s.vecElems w p t.width 4 d (shiftSrcs a m) fun x y _ => f x (shiftAmount t.width y m)

/-- `vshl` (R180): a shifted left, zeros in. -/
def execVshl (w : Stall) (p : Pfx) (t : NumType) (d : VDst) (a : VSrc) (m : ShAmt) (s : State) :
    Host.Outcome State Fault Refusal :=
  s.vecShift w p t d a m fun x k => x * 2 ^ k

/-- `vshr` (R180): a shifted right, zeros in. -/
def execVshr (w : Stall) (p : Pfx) (t : NumType) (d : VDst) (a : VSrc) (m : ShAmt) (s : State) :
    Host.Outcome State Fault Refusal :=
  s.vecShift w p t d a m fun x k => x / 2 ^ k

/-- `vsra` (R180): a shifted right, sign in. -/
def execVsra (w : Stall) (p : Pfx) (t : NumType) (d : VDst) (a : VSrc) (m : ShAmt) (s : State) :
    Host.Outcome State Fault Refusal :=
  s.vecShift w p t d a m fun x k => wrap t.width (signed t.width x / ((2 ^ k : Nat) : Int))

/-- `vpopc` (R180): number of one bits of a. -/
def execVpopc (w : Stall) (p : Pfx) (t : NumType) (d : VDst) (a : VSrc) (s : State) : Host.Outcome State Fault Refusal :=
  s.vecElems w p t.width 4 d [a] fun x _ _ => oneBits t.width x

/-- `vclz` (R180): leading zero bits of a. -/
def execVclz (w : Stall) (p : Pfx) (t : NumType) (d : VDst) (a : VSrc) (s : State) : Host.Outcome State Fault Refusal :=
  s.vecElems w p t.width 4 d [a] fun x _ _ => leadZeros t.width x

end Sys2Proof.Machine
end

