-- ==== Sys2Proof/Machine/VOpt.lean ====
section
/-! DEFINITION. VOPT: optimiser steps (R191 to R194). -/

namespace Sys2Proof.Machine

/-- An f32 result rounded rne with SAT = 0, as the matching single instruction would round it (R192). -/
def rf (x : Ext) : Ext := roundTo .f32 x .rne false 0

/-- A product, a sum, a difference, a quotient and a square root of R192 and R193, each rounded once. -/
def mulF (x y : Ext) : Ext := rf (x.mul y)
def addF (x y : Ext) : Ext := rf (x.add .rne y)
def subF (x y : Ext) : Ext := rf (x.add .rne y.neg)
def divF (x y : Ext) : Ext := rf (x.div y)
def sqrtF (x : Ext) : Ext := rf x.sqrt

/-- The optimiser registers, as values (R191). -/
structure OptRegs where
  b1 : Ext
  b2 : Ext
  lr : Ext
  eps : Ext
  wd : Ext
  c1 : Ext
  c2 : Ext
  mu : Ext

/-- The value of an optimiser register of a task. -/
def Task.optReg (t : Task) (r : SysReg) : Ext := valOf .f32 (Assoc.get 0 t.opr (r.code - 4)).toNat

/-- The optimiser registers of a task, read at issue. -/
def Task.optRegs (t : Task) : OptRegs :=
  { b1 := t.optReg .opb1, b2 := t.optReg .opb2, lr := t.optReg .oplr, eps := t.optReg .opeps, wd := t.optReg .opwd,
    c1 := t.optReg .opc1, c2 := t.optReg .opc2, mu := t.optReg .opmu }

/-- The code of an f32 value. -/
def f32Code (x : Ext) : Nat := convert .f32 x .rne false 0

/-- One lane of `vadam`: w1, m1 and v1 (R192). -/
def adamLane (o : OptRegs) (w g m v : Ext) : Ext × Ext × Ext :=
  let one := Ext.ofInt 1
  let m1 := addF (mulF o.b1 m) (mulF (subF one o.b1) g)
  let v1 := addF (mulF o.b2 v) (mulF (subF one o.b2) (mulF g g))
  let d := divF (mulF m1 o.c1) (addF (sqrtF (mulF v1 o.c2)) o.eps)
  let w1 := subF w (mulF o.lr (addF d (mulF o.wd w)))
  (w1, m1, v1)

/-- One lane of `vsgdm`: w1 and u1 (R193). -/
def sgdmLane (o : OptRegs) (w g u : Ext) : Ext × Ext :=
  let u1 := addF (addF (mulF o.mu u) g) (mulF o.wd w)
  (subF w (mulF o.lr u1), u1)

/-- A lane-by-lane function of four operands, for the active lanes; the others keep the popped value `keep`. -/
def optLanes {α : Type} (m : Mask) (f : Nat → Nat → Nat → Nat → α) (keep : Nat → Nat → Nat → Nat → α) (vs : List VReg) : List α :=
  let l (k : Nat) : List Nat := laneVals (vs.getD k [])
  (zip3 (fun k x y (z : Nat) => (k, x, y, z)) (l 0) (l 1) ((l 2).zipWith (fun a b => a + 2 ^ 32 * b) (l 3))).map fun e =>
    let z := e.2.2.2
    if m.getLsbD e.1 then f e.2.1 e.2.2.1 (z % 2 ^ 32) (z / 2 ^ 32) else keep e.2.1 e.2.2.1 (z % 2 ^ 32) (z / 2 ^ 32)

/-- `vadam` (R192): w, g, m and v from lq0 to lq3; w1, m1 and v1 to sq0 to sq2. -/
def execVadam (w : Stall) (p : Pfx) (s : State) : Host.Outcome State Fault Refusal :=
  s.vecIssue w { VForm.of p .rne [.lq 0, .lq 1, .lq 2, .lq 3] with dsts := [.sq 0, .sq 1, .sq 2] } fun s tid t m vs =>
    let o := t.optRegs
    let v (x : Nat) : Ext := valOf .f32 x
    let out := optLanes m (fun a b c d =>
      let r := adamLane o (v a) (v b) (v c) (v d)
      (f32Code r.1, f32Code r.2.1, f32Code r.2.2)) (fun a _ c d => (a, c, d)) vs
    ((s.vecResult tid t 16 (.sq 0) m (VReg.of (out.map (·.1)))).vecResult tid t 16 (.sq 1) m
      (VReg.of (out.map (·.2.1)))).vecResult tid t 16 (.sq 2) m (VReg.of (out.map (·.2.2)))

/-- `vsgdm` (R193): w, g and u from lq0 to lq2; w1 and u1 to sq0 and sq1. -/
def execVsgdm (w : Stall) (p : Pfx) (s : State) : Host.Outcome State Fault Refusal :=
  s.vecIssue w { VForm.of p .rne [.lq 0, .lq 1, .lq 2] with dsts := [.sq 0, .sq 1] } fun s tid t m vs =>
    let o := t.optRegs
    let v (x : Nat) : Ext := valOf .f32 x
    let out := optLanes m (fun a b c _ =>
      let r := sgdmLane o (v a) (v b) (v c)
      (f32Code r.1, f32Code r.2)) (fun a _ c _ => (a, c)) vs
    (s.vecResult tid t 6 (.sq 0) m (VReg.of (out.map (·.1)))).vecResult tid t 6 (.sq 1) m (VReg.of (out.map (·.2)))

/-- `vnormsq` (R194): the sum of squares over the active lanes of each row, formed exactly and rounded once. -/
def execVnormsq (w : Stall) (p : Pfx) (d : VDst) (a : VSrc) (s : State) : Host.Outcome State Fault Refusal :=
  s.vecOne w (VForm.of p .rne [a]) 8 d fun t m a _ _ =>
    lineReduce t false .f32 .rne false
      (fun l => List.replicate l.length (foldLine (Ext.add .rne) (l.map fun x => x.map fun v => v.mul v))) m a

end Sys2Proof.Machine
end

