-- ==== Sys2Proof/Machine/VRow.lean ====
section
/-! DEFINITION. VROW: along a row (R183 to R185). -/

namespace Sys2Proof.Machine

/-- `vrotr` (R183). -/
def execVrotr (w : Stall) (p : Pfx) (d : VDst) (a : VSrc) (k : Fin 64) (s : State) : Host.Outcome State Fault Refusal :=
  s.lineMove w p false 6 d a (rotateLine k.val)

/-- `vbcr` (R183). -/
def execVbcr (w : Stall) (p : Pfx) (d : VDst) (a : VSrc) (k : Fin 64) (s : State) : Host.Outcome State Fault Refusal :=
  s.lineMove w p false 6 d a (spreadLine k.val)

/-- `vsumr` (R183, R184). -/
def execVsumr (w : Stall) (p : Pfx) (t : NumType) (r : Rnd) (u : Bool) (d : VDst) (a : VSrc) (s : State) :
    Host.Outcome State Fault Refusal :=
  s.lineFold w p false t r u 8 d a (Ext.add r)

/-- `vmaxr` (R183, R184). -/
def execVmaxr (w : Stall) (p : Pfx) (t : NumType) (d : VDst) (a : VSrc) (s : State) : Host.Outcome State Fault Refusal :=
  s.lineFold w p false t .rne false 8 d a Ext.max

/-- `vminr` (R183, R184). -/
def execVminr (w : Stall) (p : Pfx) (t : NumType) (d : VDst) (a : VSrc) (s : State) : Host.Outcome State Fault Refusal :=
  s.lineFold w p false t .rne false 8 d a Ext.min

/-- `vscnr` (R183, R184). -/
def execVscnr (w : Stall) (p : Pfx) (t : NumType) (r : Rnd) (u : Bool) (d : VDst) (a : VSrc) (s : State) :
    Host.Outcome State Fault Refusal :=
  s.lineScan w p false t r u 8 d a (Ext.add r)

/-- `vxlr` (R183, R185). -/
def execVxlr (w : Stall) (p : Pfx) (d : VDst) (a b : VSrc) (s : State) : Host.Outcome State Fault Refusal :=
  s.lineLook w p false 6 d a b

end Sys2Proof.Machine
end

