-- ==== Sys2Proof/Machine/VSpec.lean ====
section
/-! DEFINITION. VSPEC: the special functions (R179). -/

namespace Sys2Proof.Machine

/-- `vrcp` (R179): 1/a. -/
def execVrcp (w : Stall) (p : Pfx) (t : NumType) (r : Rnd) (u : Bool) (d : VDst) (a : VSrc) (s : State) :
    Host.Outcome State Fault Refusal :=
  s.vecTyped w p t r u 14 d [a] fun x _ _ => SpecFn.value .rcp x

/-- `vrsq` (R179): 1/√a. -/
def execVrsq (w : Stall) (p : Pfx) (t : NumType) (r : Rnd) (u : Bool) (d : VDst) (a : VSrc) (s : State) :
    Host.Outcome State Fault Refusal :=
  s.vecTyped w p t r u 14 d [a] fun x _ _ => SpecFn.value .rsq x

/-- `vsqrt` (R179): √a. -/
def execVsqrt (w : Stall) (p : Pfx) (t : NumType) (r : Rnd) (u : Bool) (d : VDst) (a : VSrc) (s : State) :
    Host.Outcome State Fault Refusal :=
  s.vecTyped w p t r u 14 d [a] fun x _ _ => SpecFn.value .sqrt x

/-- `vexp2` (R179): 2^a. -/
def execVexp2 (w : Stall) (p : Pfx) (t : NumType) (r : Rnd) (u : Bool) (d : VDst) (a : VSrc) (s : State) :
    Host.Outcome State Fault Refusal :=
  s.vecTyped w p t r u 14 d [a] fun x _ _ => SpecFn.value .exp2 x

/-- `vlog2` (R179): log₂ a. -/
def execVlog2 (w : Stall) (p : Pfx) (t : NumType) (r : Rnd) (u : Bool) (d : VDst) (a : VSrc) (s : State) :
    Host.Outcome State Fault Refusal :=
  s.vecTyped w p t r u 14 d [a] fun x _ _ => SpecFn.value .log2 x

/-- `vtanh` (R179): tanh a. -/
def execVtanh (w : Stall) (p : Pfx) (t : NumType) (r : Rnd) (u : Bool) (d : VDst) (a : VSrc) (s : State) :
    Host.Outcome State Fault Refusal :=
  s.vecTyped w p t r u 14 d [a] fun x _ _ => SpecFn.value .tanh x

/-- `vsigm` (R179): 1/(1 + e^−a). -/
def execVsigm (w : Stall) (p : Pfx) (t : NumType) (r : Rnd) (u : Bool) (d : VDst) (a : VSrc) (s : State) :
    Host.Outcome State Fault Refusal :=
  s.vecTyped w p t r u 14 d [a] fun x _ _ => SpecFn.value .sigm x

end Sys2Proof.Machine
end

