-- ==== Sys2Proof/Machine/Dispatch.lean ====
section
/-! DEFINITION. The meaning of every row of the opcode table: one arm each. -/

namespace Sys2Proof.Machine

/-- The meaning of an instruction, a command or an event. -/
def exec (i : Instr) (s : State) : Host.Outcome State Fault Refusal :=
  match i with
  | .nop w => Sys2Proof.Machine.execNop w s
  | .trap w code => Sys2Proof.Machine.execTrap w code s
  | .rft w => Sys2Proof.Machine.execRft w s
  | .brk w => Sys2Proof.Machine.execBrk w s
  | .tend w => Sys2Proof.Machine.execTend w s
  | .srd w d r => Sys2Proof.Machine.execSrd w d r s
  | .swr w a r => Sys2Proof.Machine.execSwr w a r s
  | .imgcut w d => Sys2Proof.Machine.execImgcut w d s
  | .add w d a b => Sys2Proof.Machine.execAdd w d a b s
  | .sub w d a b => Sys2Proof.Machine.execSub w d a b s
  | .and w d a b => Sys2Proof.Machine.execAnd w d a b s
  | .or w d a b => Sys2Proof.Machine.execOr w d a b s
  | .xor w d a b => Sys2Proof.Machine.execXor w d a b s
  | .shl w d a b => Sys2Proof.Machine.execShl w d a b s
  | .shr w d a b => Sys2Proof.Machine.execShr w d a b s
  | .sra w d a b => Sys2Proof.Machine.execSra w d a b s
  | .min w d a b => Sys2Proof.Machine.execMin w d a b s
  | .max w d a b => Sys2Proof.Machine.execMax w d a b s
  | .minn w d a b => Sys2Proof.Machine.execMinn w d a b s
  | .maxn w d a b => Sys2Proof.Machine.execMaxn w d a b s
  | .slt w d a b => Sys2Proof.Machine.execSlt w d a b s
  | .sltn w d a b => Sys2Proof.Machine.execSltn w d a b s
  | .seq w d a b => Sys2Proof.Machine.execSeq w d a b s
  | .sne w d a b => Sys2Proof.Machine.execSne w d a b s
  | .mul w d a b => Sys2Proof.Machine.execMul w d a b s
  | .mulh w d a b => Sys2Proof.Machine.execMulh w d a b s
  | .mulhn w d a b => Sys2Proof.Machine.execMulhn w d a b s
  | .div w d a b => Sys2Proof.Machine.execDiv w d a b s
  | .divn w d a b => Sys2Proof.Machine.execDivn w d a b s
  | .rem w d a b => Sys2Proof.Machine.execRem w d a b s
  | .remn w d a b => Sys2Proof.Machine.execRemn w d a b s
  | .clz w d a => Sys2Proof.Machine.execClz w d a s
  | .ctz w d a => Sys2Proof.Machine.execCtz w d a s
  | .popc w d a => Sys2Proof.Machine.execPopc w d a s
  | .brev w d a => Sys2Proof.Machine.execBrev w d a s
  | .lea2 w d a b => Sys2Proof.Machine.execLea2 w d a b s
  | .lea4 w d a b => Sys2Proof.Machine.execLea4 w d a b s
  | .lea8 w d a b => Sys2Proof.Machine.execLea8 w d a b s
  | .addi w d a m => Sys2Proof.Machine.execAddi w d a m s
  | .andi w d a m => Sys2Proof.Machine.execAndi w d a m s
  | .ori w d a m => Sys2Proof.Machine.execOri w d a m s
  | .xori w d a m => Sys2Proof.Machine.execXori w d a m s
  | .shli w d a n => Sys2Proof.Machine.execShli w d a n s
  | .shri w d a n => Sys2Proof.Machine.execShri w d a n s
  | .srai w d a n => Sys2Proof.Machine.execSrai w d a n s
  | .slti w d a m => Sys2Proof.Machine.execSlti w d a m s
  | .sltni w d a m => Sys2Proof.Machine.execSltni w d a m s
  | .lui w d m => Sys2Proof.Machine.execLui w d m s
  | .lsh w d m => Sys2Proof.Machine.execLsh w d m s
  | .beq w a b o => Sys2Proof.Machine.execBeq w a b o s
  | .bne w a b o => Sys2Proof.Machine.execBne w a b o s
  | .blt w a b o => Sys2Proof.Machine.execBlt w a b o s
  | .bge w a b o => Sys2Proof.Machine.execBge w a b o s
  | .bltn w a b o => Sys2Proof.Machine.execBltn w a b o s
  | .bgen w a b o => Sys2Proof.Machine.execBgen w a b o s
  | .j w o => Sys2Proof.Machine.execJ w o s
  | .jal w d m => Sys2Proof.Machine.execJal w d m s
  | .jr w a => Sys2Proof.Machine.execJr w a s
  | .jalr w d a => Sys2Proof.Machine.execJalr w d a s
  | .loop w l o => Sys2Proof.Machine.execLoop w l o s
  | .lcset w d m => Sys2Proof.Machine.execLcset w d m s
  | .lds w d a v m => Sys2Proof.Machine.execLds w d a v m s
  | .sts w d a v m => Sys2Proof.Machine.execSts w d a v m s
  | .tgive w q => Sys2Proof.Machine.execTgive w q s
  | .ttake w q => Sys2Proof.Machine.execTtake w q s
  | .tcnt w d e q => Sys2Proof.Machine.execTcnt w d e q s
  | .lpatch w d a b => Sys2Proof.Machine.execLpatch w d a b s
  | .larm w d a => Sys2Proof.Machine.execLarm w d a s
  | .lstat w d a => Sys2Proof.Machine.execLstat w d a s
  | .wqpush w d a b => Sys2Proof.Machine.execWqpush w d a b s
  | .wqpop w d a => Sys2Proof.Machine.execWqpop w d a s
  | .wqlen w d a => Sys2Proof.Machine.execWqlen w d a s
  | .hops w d a b => Sys2Proof.Machine.execHops w d a b s
  | .vdid w d => Sys2Proof.Machine.execVdid w d s
  | .widf w d x => Sys2Proof.Machine.execWidf w d x s
  | .tile w d => Sys2Proof.Machine.execTile w d s
  | .agbase w a g => Sys2Proof.Machine.execAgbase w a g s
  | .aglev w d a l g => Sys2Proof.Machine.execAglev w d a l g s
  | .agpat w a l g => Sys2Proof.Machine.execAgpat w a l g s
  | .aggo w g => Sys2Proof.Machine.execAggo w g s
  | .agstop w g => Sys2Proof.Machine.execAgstop w g s
  | .agwait w g => Sys2Proof.Machine.execAgwait w g s
  | .agstat w d g => Sys2Proof.Machine.execAgstat w d g s
  | .ldq w p a m => Sys2Proof.Machine.execLdq w p a m s
  | .ldqb w p a m => Sys2Proof.Machine.execLdqb w p a m s
  | .stq w p a m => Sys2Proof.Machine.execStq w p a m s
  | .stqm w p a m => Sys2Proof.Machine.execStqm w p a m s
  | .pref w a b => Sys2Proof.Machine.execPref w a b s
  | .cwb w a b => Sys2Proof.Machine.execCwb w a b s
  | .cinv w a b => Sys2Proof.Machine.execCinv w a b s
  | .cwbi w a b => Sys2Proof.Machine.execCwbi w a b s
  | .czero w a b => Sys2Proof.Machine.execCzero w a b s
  | .cego w d a => Sys2Proof.Machine.execCego w d a s
  | .cewait w a => Sys2Proof.Machine.execCewait w a s
  | .cepoll w d a => Sys2Proof.Machine.execCepoll w d a s
  | .rcfence w => Sys2Proof.Machine.execRcfence w s
  | .tsrld w d a x => Sys2Proof.Machine.execTsrld w d a x s
  | .mdld w d a b => Sys2Proof.Machine.execMdld w d a b s
  | .hist w d a => Sys2Proof.Machine.execHist w d a s
  | .histrd w d n z => Sys2Proof.Machine.execHistrd w d n z s
  | .gvget w d a => Sys2Proof.Machine.execGvget w d a s
  | .gvrep w d a b => Sys2Proof.Machine.execGvrep w d a b s
  | .gvstep w d => Sys2Proof.Machine.execGvstep w d s
  | .fence w p q v b c => Sys2Proof.Machine.execFence w p q v b c s
  | .mark w q => Sys2Proof.Machine.execMark w q s
  | .phjoin w d a m => Sys2Proof.Machine.execPhjoin w d a m s
  | .phdrop w a => Sys2Proof.Machine.execPhdrop w a s
  | .phsig w a => Sys2Proof.Machine.execPhsig w a s
  | .phwait w d a => Sys2Proof.Machine.execPhwait w d a s
  | .phsw w d a => Sys2Proof.Machine.execPhsw w d a s
  | .phqry w d a => Sys2Proof.Machine.execPhqry w d a s
  | .ssarr w d a => Sys2Proof.Machine.execSsarr w d a s
  | .sswait w d a => Sys2Proof.Machine.execSswait w d a s
  | .ssqry w d a => Sys2Proof.Machine.execSsqry w d a s
  | .monarm w a => Sys2Proof.Machine.execMonarm w a s
  | .monwait w d => Sys2Proof.Machine.execMonwait w d s
  | .monclr w => Sys2Proof.Machine.execMonclr w s
  | .accadd w a b => Sys2Proof.Machine.execAccadd w a b s
  | .accaddf w d a b => Sys2Proof.Machine.execAccaddf w d a b s
  | .accswp w d a b => Sys2Proof.Machine.execAccswp w d a b s
  | .accget w d a => Sys2Proof.Machine.execAccget w d a s
  | .accset w a b => Sys2Proof.Machine.execAccset w a b s
  | .bid w a b => Sys2Proof.Machine.execBid w a b s
  | .bidw w d a => Sys2Proof.Machine.execBidw w d a s
  | .ares w d a => Sys2Proof.Machine.execAres w d a s
  | .trigarm w d a b => Sys2Proof.Machine.execTrigarm w d a b s
  | .trigdis w d a => Sys2Proof.Machine.execTrigdis w d a s
  | .rcvcnt w d a b => Sys2Proof.Machine.execRcvcnt w d a b s
  | .cwalk w d a => Sys2Proof.Machine.execCwalk w d a s
  | .cwait w a => Sys2Proof.Machine.execCwait w a s
  | .vadd w p t r u d a b => Sys2Proof.Machine.execVadd w p t r u d a b s
  | .vsub w p t r u d a b => Sys2Proof.Machine.execVsub w p t r u d a b s
  | .vmul w p t r u d a b => Sys2Proof.Machine.execVmul w p t r u d a b s
  | .vfma w p t r u d a b c => Sys2Proof.Machine.execVfma w p t r u d a b c s
  | .vfms w p t r u d a b c => Sys2Proof.Machine.execVfms w p t r u d a b c s
  | .vfnma w p t r u d a b c => Sys2Proof.Machine.execVfnma w p t r u d a b c s
  | .vmin w p t r u d a b => Sys2Proof.Machine.execVmin w p t r u d a b s
  | .vmax w p t r u d a b => Sys2Proof.Machine.execVmax w p t r u d a b s
  | .vabs w p t r u d a => Sys2Proof.Machine.execVabs w p t r u d a s
  | .vneg w p t r u d a => Sys2Proof.Machine.execVneg w p t r u d a s
  | .vclmp w p t r u d a b c => Sys2Proof.Machine.execVclmp w p t r u d a b c s
  | .vrnd w p t r u d a => Sys2Proof.Machine.execVrnd w p t r u d a s
  | .vrcp w p t r u d a => Sys2Proof.Machine.execVrcp w p t r u d a s
  | .vrsq w p t r u d a => Sys2Proof.Machine.execVrsq w p t r u d a s
  | .vsqrt w p t r u d a => Sys2Proof.Machine.execVsqrt w p t r u d a s
  | .vexp2 w p t r u d a => Sys2Proof.Machine.execVexp2 w p t r u d a s
  | .vlog2 w p t r u d a => Sys2Proof.Machine.execVlog2 w p t r u d a s
  | .vtanh w p t r u d a => Sys2Proof.Machine.execVtanh w p t r u d a s
  | .vsigm w p t r u d a => Sys2Proof.Machine.execVsigm w p t r u d a s
  | .vand w p d a b => Sys2Proof.Machine.execVand w p d a b s
  | .vor w p d a b => Sys2Proof.Machine.execVor w p d a b s
  | .vxor w p d a b => Sys2Proof.Machine.execVxor w p d a b s
  | .vnot w p d a => Sys2Proof.Machine.execVnot w p d a s
  | .vshl w p t d a m => Sys2Proof.Machine.execVshl w p t d a m s
  | .vshr w p t d a m => Sys2Proof.Machine.execVshr w p t d a m s
  | .vsra w p t d a m => Sys2Proof.Machine.execVsra w p t d a m s
  | .vpopc w p t d a => Sys2Proof.Machine.execVpopc w p t d a s
  | .vclz w p t d a => Sys2Proof.Machine.execVclz w p t d a s
  | .vcmpeq w p t d a b => Sys2Proof.Machine.execVcmpeq w p t d a b s
  | .vcmpne w p t d a b => Sys2Proof.Machine.execVcmpne w p t d a b s
  | .vcmplt w p t d a b => Sys2Proof.Machine.execVcmplt w p t d a b s
  | .vcmple w p t d a b => Sys2Proof.Machine.execVcmple w p t d a b s
  | .vcmpgt w p t d a b => Sys2Proof.Machine.execVcmpgt w p t d a b s
  | .vcmpge w p t d a b => Sys2Proof.Machine.execVcmpge w p t d a b s
  | .vclass w p d a m => Sys2Proof.Machine.execVclass w p d a m s
  | .vmov w p d a => Sys2Proof.Machine.execVmov w p d a s
  | .vsel w p d a b => Sys2Proof.Machine.execVsel w p d a b s
  | .vsplat w p d a y x => Sys2Proof.Machine.execVsplat w p d a y x s
  | .vmovi w p t d k => Sys2Proof.Machine.execVmovi w p t d k s
  | .vextr w p t d a e => Sys2Proof.Machine.execVextr w p t d a e s
  | .vrotr w p d a k => Sys2Proof.Machine.execVrotr w p d a k s
  | .vbcr w p d a k => Sys2Proof.Machine.execVbcr w p d a k s
  | .vsumr w p t r u d a => Sys2Proof.Machine.execVsumr w p t r u d a s
  | .vmaxr w p t d a => Sys2Proof.Machine.execVmaxr w p t d a s
  | .vminr w p t d a => Sys2Proof.Machine.execVminr w p t d a s
  | .vscnr w p t r u d a => Sys2Proof.Machine.execVscnr w p t r u d a s
  | .vxlr w p d a b => Sys2Proof.Machine.execVxlr w p d a b s
  | .vrotc w p d a k => Sys2Proof.Machine.execVrotc w p d a k s
  | .vbcc w p d a k => Sys2Proof.Machine.execVbcc w p d a k s
  | .vsumc w p t r u d a => Sys2Proof.Machine.execVsumc w p t r u d a s
  | .vmaxc w p t d a => Sys2Proof.Machine.execVmaxc w p t d a s
  | .vminc w p t d a => Sys2Proof.Machine.execVminc w p t d a s
  | .vscnc w p t r u d a => Sys2Proof.Machine.execVscnc w p t r u d a s
  | .vxlc w p d a b => Sys2Proof.Machine.execVxlc w p d a b s
  | .vcvt w p t r u d a b f => Sys2Proof.Machine.execVcvt w p t r u d a b f s
  | .vqnt w p t r u d a c k => Sys2Proof.Machine.execVqnt w p t r u d a c k s
  | .vdqn w p t r u d a b => Sys2Proof.Machine.execVdqn w p t r u d a b s
  | .vpack w p t d a e => Sys2Proof.Machine.execVpack w p t d a e s
  | .vunpk w p t d a e => Sys2Proof.Machine.execVunpk w p t d a e s
  | .vscale w p t r u d a b => Sys2Proof.Machine.execVscale w p t r u d a b s
  | .vadam w p => Sys2Proof.Machine.execVadam w p s
  | .vsgdm w p => Sys2Proof.Machine.execVsgdm w p s
  | .vnormsq w p d a => Sys2Proof.Machine.execVnormsq w p d a s
  | .pand w p d a b => Sys2Proof.Machine.execPand w p d a b s
  | .por w p d a b => Sys2Proof.Machine.execPor w p d a b s
  | .pxor w p d a b => Sys2Proof.Machine.execPxor w p d a b s
  | .pnot w p d a => Sys2Proof.Machine.execPnot w p d a s
  | .pset w p d y x => Sys2Proof.Machine.execPset w p d y x s
  | .pcnt w p d a => Sys2Proof.Machine.execPcnt w p d a s
  | .cloop w d o => Sys2Proof.Machine.execCloop w d o s
  | .cbrany w a o => Sys2Proof.Machine.execCbrany w a o s
  | .cbrall w a o => Sys2Proof.Machine.execCbrall w a o s
  | .cj w o => Sys2Proof.Machine.execCj w o s
  | .clcset w d m => Sys2Proof.Machine.execClcset w d m s
  | .cstage w n => Sys2Proof.Machine.execCstage w n s
  | .mshape w d m n => Sys2Proof.Machine.execMshape w d m n s
  | .mtile w d o => Sys2Proof.Machine.execMtile w d o s
  | .asetx w d e x => Sys2Proof.Machine.execAsetx w d e x s
  | .azero w d n => Sys2Proof.Machine.execAzero w d n s
  | .lotreq w n => Sys2Proof.Machine.execLotreq w n s
  | .lotrel w n => Sys2Proof.Machine.execLotrel w n s
  | .mma w d a b n => Sys2Proof.Machine.execMma w d a b n s
  | .mmaa w d a b n => Sys2Proof.Machine.execMmaa w d a b n s
  | .mmas w d a b n => Sys2Proof.Machine.execMmas w d a b n s
  | .mcommit w d => Sys2Proof.Machine.execMcommit w d s
  | .mwait w a => Sys2Proof.Machine.execMwait w a s
  | .mpoll w d a => Sys2Proof.Machine.execMpoll w d a s
  | .anorm w d n => Sys2Proof.Machine.execAnorm w d n s
  | .acvt w p t r u d a => Sys2Proof.Machine.execAcvt w p t r u d a s
  | .aadd w d a => Sys2Proof.Machine.execAadd w d a s
  | .ald w d a b => Sys2Proof.Machine.execAld w d a b s
  | .ast w p d a h => Sys2Proof.Machine.execAst w p d a h s
  | .ahdr w d a => Sys2Proof.Machine.execAhdr w d a s
  | .amov w d a => Sys2Proof.Machine.execAmov w d a s
  | .gemvgo w d o => Sys2Proof.Machine.execGemvgo w d o s
  | .gemvwait w a => Sys2Proof.Machine.execGemvwait w a s
  | .pnop => Sys2Proof.Machine.execPnop s
  | .pldp d k o => Sys2Proof.Machine.execPldp d k o s
  | .pstp d k o => Sys2Proof.Machine.execPstp d k o s
  | .phdr d k c => Sys2Proof.Machine.execPhdr d k c s
  | .pldf d k h => Sys2Proof.Machine.execPldf d k h s
  | .pstf d k h => Sys2Proof.Machine.execPstf d k h s
  | .pldfx d a k h => Sys2Proof.Machine.execPldfx d a k h s
  | .pstfx d a k h => Sys2Proof.Machine.execPstfx d a k h s
  | .padd d a b k => Sys2Proof.Machine.execPadd d a b k s
  | .psub d a b k => Sys2Proof.Machine.execPsub d a b k s
  | .pmul d a b k => Sys2Proof.Machine.execPmul d a b k s
  | .pvand d a b k => Sys2Proof.Machine.execPvand d a b k s
  | .pvor d a b k => Sys2Proof.Machine.execPvor d a b k s
  | .pvxor d a b k => Sys2Proof.Machine.execPvxor d a b k s
  | .pshl d a b k => Sys2Proof.Machine.execPshl d a b k s
  | .pshr d a b k => Sys2Proof.Machine.execPshr d a b k s
  | .psra d a b k => Sys2Proof.Machine.execPsra d a b k s
  | .pmin d a b k => Sys2Proof.Machine.execPmin d a b k s
  | .pmax d a b k => Sys2Proof.Machine.execPmax d a b k s
  | .pmaxn d a b k => Sys2Proof.Machine.execPmaxn d a b k s
  | .pfxa d a b k => Sys2Proof.Machine.execPfxa d a b k s
  | .paddi d a k m => Sys2Proof.Machine.execPaddi d a k m s
  | .pmovi d k m => Sys2Proof.Machine.execPmovi d k m s
  | .pceq d a b k => Sys2Proof.Machine.execPceq d a b k s
  | .pclt d a b k => Sys2Proof.Machine.execPclt d a b k s
  | .pcltn d a b k => Sys2Proof.Machine.execPcltn d a b k s
  | .pmask d k m => Sys2Proof.Machine.execPmask d k m s
  | .psel d a b k => Sys2Proof.Machine.execPsel d a b k s
  | .pbcl d a k n => Sys2Proof.Machine.execPbcl d a k n s
  | .pbany a o => Sys2Proof.Machine.execPbany a o s
  | .pj o => Sys2Proof.Machine.execPj o s
  | .prepn n l => Sys2Proof.Machine.execPrepn n l s
  | .pfwd => Sys2Proof.Machine.execPfwd s
  | .pdrop => Sys2Proof.Machine.execPdrop s
  | .penq a q => Sys2Proof.Machine.execPenq a q s
  | .pemit n => Sys2Proof.Machine.execPemit n s
  | .recBind tag first count ctx => Sys2Proof.Machine.execRecBind tag first count ctx s
  | .recFree tag first count => Sys2Proof.Machine.execRecFree tag first count s
  | .recWrite tag idx word count addr => Sys2Proof.Machine.execRecWrite tag idx word count addr s
  | .recArm tag idx => Sys2Proof.Machine.execRecArm tag idx s
  | .graphArm tag count addr => Sys2Proof.Machine.execGraphArm tag count addr s
  | .recCancel tag idx => Sys2Proof.Machine.execRecCancel tag idx s
  | .wqConfig tag queue ctx k fixed => Sys2Proof.Machine.execWqConfig tag queue ctx k fixed s
  | .wqPush tag queue v => Sys2Proof.Machine.execWqPush tag queue v s
  | .ctxCreate tag ctx asid root job => Sys2Proof.Machine.execCtxCreate tag ctx asid root job s
  | .ctxDestroy tag ctx => Sys2Proof.Machine.execCtxDestroy tag ctx s
  | .allow tag ctx mask => Sys2Proof.Machine.execAllow tag ctx mask s
  | .stripe tag ctx d => Sys2Proof.Machine.execStripe tag ctx d s
  | .image tag ctx addr size haddr hsize interval => Sys2Proof.Machine.execImage tag ctx addr size haddr hsize interval s
  | .bind tag kind idx ctx => Sys2Proof.Machine.execBind tag kind idx ctx s
  | .tlbInval tag addr len => Sys2Proof.Machine.execTlbInval tag addr len s
  | .pageMove tag addr stack => Sys2Proof.Machine.execPageMove tag addr stack s
  | .evq tag ctx addr k => Sys2Proof.Machine.execEvq tag ctx addr k s
  | .memWrite tag va len haddr => Sys2Proof.Machine.execMemWrite tag va len haddr s
  | .memRead tag va len haddr => Sys2Proof.Machine.execMemRead tag va len haddr s
  | .physWrite tag pa len haddr => Sys2Proof.Machine.execPhysWrite tag pa len haddr s
  | .physRead tag pa len haddr => Sys2Proof.Machine.execPhysRead tag pa len haddr s
  | .psrWrite tag layer role lo hi => Sys2Proof.Machine.execPsrWrite tag layer role lo hi s
  | .classTarget tag cls target => Sys2Proof.Machine.execClassTarget tag cls target s
  | .opPoint tag mask point => Sys2Proof.Machine.execOpPoint tag mask point s
  | .flowWrite tag port flow lo hi addr => Sys2Proof.Machine.execFlowWrite tag port flow lo hi addr s
  | .classify tag port entry job src flow => Sys2Proof.Machine.execClassify tag port entry job src flow s
  | .kernelLoad tag port pp off addr len => Sys2Proof.Machine.execKernelLoad tag port pp off addr len s
  | .taskResume tag lr wid => Sys2Proof.Machine.execTaskResume tag lr wid s
  | .launchStats tag lr addr => Sys2Proof.Machine.execLaunchStats tag lr addr s
  | .configRead tag addr => Sys2Proof.Machine.execConfigRead tag addr s
  | .errRead tag addr clear => Sys2Proof.Machine.execErrRead tag addr clear s
  | .attest tag nonce addr => Sys2Proof.Machine.execAttest tag nonce addr s
  | .unsupportedCommand tag op => Sys2Proof.Machine.execUnsupportedCommand tag op s
  | .doorbell ring tail => Sys2Proof.Machine.execDoorbell ring tail s
  | .ringEnable ring v => Sys2Proof.Machine.execRingEnable ring v s
  | .ringDisable ring v => Sys2Proof.Machine.execRingDisable ring v s
  | .registerWrite off v => Sys2Proof.Machine.execRegisterWrite off v s
  | .pldmSensorRead sensor => Sys2Proof.Machine.execPldmSensorRead sensor s
  | .stallCountExpiry t q => Sys2Proof.Machine.execStallCountExpiry t q s
  | .resultLand t q => Sys2Proof.Machine.execResultLand t q s
  | .interlockedResult t q => Sys2Proof.Machine.execInterlockedResult t q s
  | .tokenWaitComplete t q => Sys2Proof.Machine.execTokenWaitComplete t q s
  | .portWaitComplete t q => Sys2Proof.Machine.execPortWaitComplete t q s
  | .agOperandAccept t g => Sys2Proof.Machine.execAgOperandAccept t g s
  | .agOperandComplete t g => Sys2Proof.Machine.execAgOperandComplete t g s
  | .engineStart t e => Sys2Proof.Machine.execEngineStart t e s
  | .copyChunk t => Sys2Proof.Machine.execCopyChunk t s
  | .histRetire t => Sys2Proof.Machine.execHistRetire t s
  | .gemvRetire t => Sys2Proof.Machine.execGemvRetire t s
  | .matrixChunk t => Sys2Proof.Machine.execMatrixChunk t s
  | .lotGrant die core => Sys2Proof.Machine.execLotGrant die core s
  | .wqpopServed queue => Sys2Proof.Machine.execWqpopServed queue s
  | .monitorWake t reason => Sys2Proof.Machine.execMonitorWake t reason s
  | .spuriousMonitorWake t => Sys2Proof.Machine.execSpuriousMonitorWake t s
  | .fenceComplete t q => Sys2Proof.Machine.execFenceComplete t q s
  | .markPairComplete t q d => Sys2Proof.Machine.execMarkPairComplete t q d s
  | .stallTimeout t q => Sys2Proof.Machine.execStallTimeout t q s
  | .walkTransferSend t => Sys2Proof.Machine.execWalkTransferSend t s
  | .transferLand n => Sys2Proof.Machine.execTransferLand n s
  | .pageWalkComplete die ctx va => Sys2Proof.Machine.execPageWalkComplete die ctx va s
  | .pageMigrationComplete ctx va => Sys2Proof.Machine.execPageMigrationComplete ctx va s
  | .taskRetire t => Sys2Proof.Machine.execTaskRetire t s
  | .retirement => Sys2Proof.Machine.execRetirement s
  | .completionPushLand lr => Sys2Proof.Machine.execCompletionPushLand lr s
  | .taskPlacement lr => Sys2Proof.Machine.execTaskPlacement lr s
  | .cutComplete t => Sys2Proof.Machine.execCutComplete t s
  | .resume t => Sys2Proof.Machine.execResume t s
  | .imageIntervalExpiry ctx => Sys2Proof.Machine.execImageIntervalExpiry ctx s
  | .boundaryEvaluation cls => Sys2Proof.Machine.execBoundaryEvaluation cls s
  | .auctionCall lane => Sys2Proof.Machine.execAuctionCall lane s
  | .auctionRoundEnd lane bad silent => Sys2Proof.Machine.execAuctionRoundEnd lane bad silent s
  | .wireTestComplete lane stuck => Sys2Proof.Machine.execWireTestComplete lane stuck s
  | .heartbeatTick => Sys2Proof.Machine.execHeartbeatTick s
  | .linkWakeDone die => Sys2Proof.Machine.execLinkWakeDone die s
  | .linkWakeTimeout die => Sys2Proof.Machine.execLinkWakeTimeout die s
  | .flitCrcError die ln => Sys2Proof.Machine.execFlitCrcError die ln s
  | .correctableError arr => Sys2Proof.Machine.execCorrectableError arr s
  | .uncorrectableError arr loc => Sys2Proof.Machine.execUncorrectableError arr loc s
  | .machineCheck t => Sys2Proof.Machine.execMachineCheck t s
  | .parityError t arr => Sys2Proof.Machine.execParityError t arr s
  | .scrub arr => Sys2Proof.Machine.execScrub arr s
  | .channelFailure stack => Sys2Proof.Machine.execChannelFailure stack s
  | .evqSlotFreed ctx consumed => Sys2Proof.Machine.execEvqSlotFreed ctx consumed s
  | .packetArrival port pkt => Sys2Proof.Machine.execPacketArrival port pkt s
  | .boot perst ok tested => Sys2Proof.Machine.execBoot perst ok tested s
  | .linkTrainTimeout die => Sys2Proof.Machine.execLinkTrainTimeout die s
  | .powerCapExceeded => Sys2Proof.Machine.execPowerCapExceeded s
  | .junctionOver95 die temp => Sys2Proof.Machine.execJunctionOver95 die temp s
  | .junctionCritical die => Sys2Proof.Machine.execJunctionCritical die s
  | .coolantFlowLost => Sys2Proof.Machine.execCoolantFlowLost s
  | .thermalCleared die => Sys2Proof.Machine.execThermalCleared die s
  | .shutdownTimer => Sys2Proof.Machine.execShutdownTimer s
  | .operatingPointHaltEnd die => Sys2Proof.Machine.execOperatingPointHaltEnd die s
  | .vectorUnitOccupancyEnd die core acc => Sys2Proof.Machine.execVectorUnitOccupancyEnd die core acc s
  | .laneRepairComplete die => Sys2Proof.Machine.execLaneRepairComplete die s
  | .linkSleep die => Sys2Proof.Machine.execLinkSleep die s

end Sys2Proof.Machine
end

