-- ==== Sys2Proof/Machine/Turns.lean ====
section
/-! DEFINITION. What a pitch processor and a command ring run in their turns (R354, R402): the word of the kernel store or the
descriptor of the ring, decoded, and the meaning of its row of the opcode table. -/

namespace Sys2Proof.Machine

/-- The meaning of a pitch instruction. -/
def pitchMeaning (i : PitchInstr) (s : State) : Host.Outcome State Fault Refusal :=
  match i with
  | .pnop => Sys2Proof.Machine.execPnop s
  | .pldp d k o => Sys2Proof.Machine.execPldp d k o s
  | .pstp d k o => Sys2Proof.Machine.execPstp d k o s
  | .phdr d k c => Sys2Proof.Machine.execPhdr d k c s
  | .pldf d k h => Sys2Proof.Machine.execPldf d k h s
  | .pstf d k h => Sys2Proof.Machine.execPstf d k h s
  | .pldfx d a k h => Sys2Proof.Machine.execPldfx d a k h s
  | .pstfx d a k h => Sys2Proof.Machine.execPstfx d a k h s
  | .padd d a b k => Sys2Proof.Machine.execPadd d a b k s
  | .psub d a b k => Sys2Proof.Machine.execPsub d a b k s
  | .pmul d a b k => Sys2Proof.Machine.execPmul d a b k s
  | .pvand d a b k => Sys2Proof.Machine.execPvand d a b k s
  | .pvor d a b k => Sys2Proof.Machine.execPvor d a b k s
  | .pvxor d a b k => Sys2Proof.Machine.execPvxor d a b k s
  | .pshl d a b k => Sys2Proof.Machine.execPshl d a b k s
  | .pshr d a b k => Sys2Proof.Machine.execPshr d a b k s
  | .psra d a b k => Sys2Proof.Machine.execPsra d a b k s
  | .pmin d a b k => Sys2Proof.Machine.execPmin d a b k s
  | .pmax d a b k => Sys2Proof.Machine.execPmax d a b k s
  | .pmaxn d a b k => Sys2Proof.Machine.execPmaxn d a b k s
  | .pfxa d a b k => Sys2Proof.Machine.execPfxa d a b k s
  | .paddi d a k m => Sys2Proof.Machine.execPaddi d a k m s
  | .pmovi d k m => Sys2Proof.Machine.execPmovi d k m s
  | .pceq d a b k => Sys2Proof.Machine.execPceq d a b k s
  | .pclt d a b k => Sys2Proof.Machine.execPclt d a b k s
  | .pcltn d a b k => Sys2Proof.Machine.execPcltn d a b k s
  | .pmask d k m => Sys2Proof.Machine.execPmask d k m s
  | .psel d a b k => Sys2Proof.Machine.execPsel d a b k s
  | .pbcl d a k n => Sys2Proof.Machine.execPbcl d a k n s
  | .pbany a o => Sys2Proof.Machine.execPbany a o s
  | .pj o => Sys2Proof.Machine.execPj o s
  | .prepn n l => Sys2Proof.Machine.execPrepn n l s
  | .pfwd => Sys2Proof.Machine.execPfwd s
  | .pdrop => Sys2Proof.Machine.execPdrop s
  | .penq a q => Sys2Proof.Machine.execPenq a q s
  | .pemit n => Sys2Proof.Machine.execPemit n s

/-- The meaning of a command. -/
def commandMeaning (c : Command) (s : State) : Host.Outcome State Fault Refusal :=
  match c with
  | .recBind tag first count ctx => Sys2Proof.Machine.execRecBind tag first count ctx s
  | .recFree tag first count => Sys2Proof.Machine.execRecFree tag first count s
  | .recWrite tag idx word count addr => Sys2Proof.Machine.execRecWrite tag idx word count addr s
  | .recArm tag idx => Sys2Proof.Machine.execRecArm tag idx s
  | .graphArm tag count addr => Sys2Proof.Machine.execGraphArm tag count addr s
  | .recCancel tag idx => Sys2Proof.Machine.execRecCancel tag idx s
  | .wqConfig tag queue ctx k fixed => Sys2Proof.Machine.execWqConfig tag queue ctx k fixed s
  | .wqPush tag queue v => Sys2Proof.Machine.execWqPush tag queue v s
  | .ctxCreate tag ctx asid root job => Sys2Proof.Machine.execCtxCreate tag ctx asid root job s
  | .ctxDestroy tag ctx => Sys2Proof.Machine.execCtxDestroy tag ctx s
  | .allow tag ctx mask => Sys2Proof.Machine.execAllow tag ctx mask s
  | .stripe tag ctx d => Sys2Proof.Machine.execStripe tag ctx d s
  | .image tag ctx addr size haddr hsize interval => Sys2Proof.Machine.execImage tag ctx addr size haddr hsize interval s
  | .bind tag kind idx ctx => Sys2Proof.Machine.execBind tag kind idx ctx s
  | .tlbInval tag addr len => Sys2Proof.Machine.execTlbInval tag addr len s
  | .pageMove tag addr stack => Sys2Proof.Machine.execPageMove tag addr stack s
  | .evq tag ctx addr k => Sys2Proof.Machine.execEvq tag ctx addr k s
  | .memWrite tag va len haddr => Sys2Proof.Machine.execMemWrite tag va len haddr s
  | .memRead tag va len haddr => Sys2Proof.Machine.execMemRead tag va len haddr s
  | .physWrite tag pa len haddr => Sys2Proof.Machine.execPhysWrite tag pa len haddr s
  | .physRead tag pa len haddr => Sys2Proof.Machine.execPhysRead tag pa len haddr s
  | .psrWrite tag layer role lo hi => Sys2Proof.Machine.execPsrWrite tag layer role lo hi s
  | .classTarget tag cls target => Sys2Proof.Machine.execClassTarget tag cls target s
  | .opPoint tag mask point => Sys2Proof.Machine.execOpPoint tag mask point s
  | .flowWrite tag port flow lo hi addr => Sys2Proof.Machine.execFlowWrite tag port flow lo hi addr s
  | .classify tag port entry job src flow => Sys2Proof.Machine.execClassify tag port entry job src flow s
  | .kernelLoad tag port pp off addr len => Sys2Proof.Machine.execKernelLoad tag port pp off addr len s
  | .taskResume tag lr wid => Sys2Proof.Machine.execTaskResume tag lr wid s
  | .launchStats tag lr addr => Sys2Proof.Machine.execLaunchStats tag lr addr s
  | .configRead tag addr => Sys2Proof.Machine.execConfigRead tag addr s
  | .errRead tag addr clear => Sys2Proof.Machine.execErrRead tag addr clear s
  | .attest tag nonce addr => Sys2Proof.Machine.execAttest tag nonce addr s
  | .unsupportedCommand tag op => Sys2Proof.Machine.execUnsupportedCommand tag op s

/-- The array code of a poisoned word of a kernel store (R358, R373). -/
def State.kernelPoison (s : State) (p pc : Nat) : Bool :=
  s.poison.any fun e => match e.1 with
    | .kernel port pp w => port == p / 2 && pp == p % 2 && w / 16 == pc / 16
    | _ => false

/-- A turn of a pitch processor: the next word of its kernel runs. One that reads a poisoned word traps; a word that is no
instruction, which no verified image holds, leaves the state. -/
def State.pitchTurn (s : State) (p : Nat) : Host.Outcome State Fault Refusal :=
  let x := s.pitch p
  match x.run with
  | none => .next s
  | some r =>
    if s.kernelPoison p r.pc then .next (s.pitchTrap p r 6 0)
    else match readPitch (Assoc.get 0 x.store r.pc).toNat with
      | some i => pitchMeaning i { s with cur := .pitch p }
      | none => .next s

/-- A turn of a command ring: the descriptor at HEAD runs. -/
def State.ringTurn (s : State) (n : Nat) : Host.Outcome State Fault Refusal :=
  if s.ringReady n then commandMeaning (readDescriptor (s.descriptorAt n)) { s with cur := .ring n } else .next s

/-- Whether a write of an operation is held still (R221). -/
def State.opHeld (s : State) (t : Task) (o : EngOp) : Bool :=
  match o.kept with
  | some k => k.bytes.any fun r => s.rangeHeld t r.1 r.2.length
  | none => t.gemvHeld o

/-- The held writes of a task's operations whose reservations have ended land (R221, R286). -/
def State.landOps (s : State) (tid : Nat) : State :=
  match Assoc.find s.tasks tid with
  | none => s
  | some t => (t.eng.filter fun o => o.held && !s.opHeld t o).foldl (fun s o => match o.engine with
      | .copy => s.copyEngine tid
      | .hist => s.histEngine tid
      | .gemv => s.gemvRetire tid
      | .tmu => s.retireOp tid o) s

/-- What a task that moves does between turns beside its accesses: what was held on reservations that have ended lands, and forks
that what they follow has left take their copies (R221, R286, R297). -/
def State.settleEngines (s : State) : State :=
  (s.tasks.filter fun e => s.moves e.2).foldl (fun s e =>
    let s := (s.agSettle e.1).landOps e.1
    (Seq.all.foldl (fun s q => s.landZero e.1 q) s).takeForks e.1) s

/-- The requests of every core's tasks join the queue of its generator front (R245). -/
def State.settleFronts (s : State) : State :=
  s.tasks.foldl (fun s e => if e.2.gens.isEmpty then s else s.frontUpdate e.2.die e.2.core) s

/-- What comes before the turn of a step: what nothing holds any longer is performed, unless the package has powered down (R166,
R327, R411). -/
def State.settled (s : State) : State := if s.poweredDown then s else s.settle.settleEngines.settle.settleFronts

/-- The firmware of the CP sets a core's service mode: 0 Normal, 1 Bring-up, 2 Test or 3 Recovery (R104). -/
def State.setService (s : State) (die core mode : Nat) : State :=
  if mode < 4 then s.setCore die core { s.core die core with mode := mode } else s

/-- Whether a turn moves the machine: a package that has powered down boots and does nothing else (R411), and the host keeps
its own memory. -/
def State.awake (s : State) (turn : Turn) : Bool :=
  !s.poweredDown || (match turn with
    | .event (.boot _ _ _) => true
    | .hostMem _ _ => true
    | _ => false)

end Sys2Proof.Machine
end

