-- ==== Sys2Proof/Machine/Step.lean ====
section
/-! DEFINITION. The step of the package: the next turn of the agenda is taken. -/

namespace Sys2Proof.Machine

/-- Take a turn. -/
def State.take (s : State) (turn : Turn) : Host.Outcome State Fault Refusal :=
  match turn with
  | .issue t q =>
    match s.front t q with
    | .state s => .next s
    | .instr i s => exec i s
  | .pitch p => s.pitchTurn p
  | .ring n => s.ringTurn n
  | .event i => if isEvent i then exec i { s with cur := .outside } else .next s
  | .hostMem a bs => .next (s.hostWrite a bs)
  | .cp => .next (s.runCp cpFuel)
  | .cycle t => .next { s with agenda := Seq.all.map (Turn.issue t) ++ s.agenda }
  | .service d c m => .next (s.setService d c m)

/-- One step: held accesses that can be performed are, and the agent whose turn it is moves. -/
def step (s : State) : Host.Outcome State Fault Refusal :=
  let (turn, s) := s.settled.nextTurn
  if s.awake turn then s.take turn else .next s

/-- The state whose next step fetches and runs an instruction: placed as a program is placed from outside (assumption 1). -/
def State.withFetchWord (s : State) (nbits w : Nat) : State :=
  if nbits = 32 then
    match if pitchFirst (w % 2 ^ 32) then none else legalSeq (w % 2 ^ 32) with
    | some (q, _) => s.placeProgram q (toBytes 4 (w % 2 ^ 32))
    | none =>
      if (readPitch (w % 2 ^ 32)).isSome then s.placeKernel (w % 2 ^ 32) else s.placeProgram .c (toBytes 8 (w % 2 ^ 32))
  else s.placeProgram .c (toBytes 8 (w % 2 ^ 64))

end Sys2Proof.Machine
end

