-- ==== Sys2Proof/Safety.lean ====
section
/-! DEFINITION. What counts as a safe run, and the terms in which claims speak of one instruction: that it is ready to run,
that it completes, that it traps, that it waits. -/

namespace Sys2Proof.Safety

open Sys2Proof.Machine

/-- A step goes on. -/
def goesOn (s : State) : Prop := ∃ t, step s = .next t

/-- `n` steps from a state all go on. -/
def safeFor (n : Nat) (s : State) : Prop :=
  match n with
  | 0 => True
  | n + 1 => ∃ t, step s = .next t ∧ safeFor n t

/-- An instruction that names the registers `ns` runs now: sequencer `q` of task `tid` moves, the task stands as `t` once the
writes that are due have landed, none of the names is interlocked (R150) and, under CHK, none is pending (R153). -/
def Ready (s : State) (tid : Nat) (q : Seq) (t : Task) (ns : List RegName) : Prop :=
  s.cur = .seq tid q ∧ (Assoc.find s.tasks tid).map (fun t0 => t0.land q) = some t ∧
  (∀ n ∈ ns, (t.sq q).interlocked n = false) ∧ (t.tt.chk = true → ∀ n ∈ ns, (t.sq q).shadowed n = false)

/-- The state in which a ready instruction has its effect: the task stands as `t`. -/
def seen (s : State) (tid : Nat) (t : Task) : State := s.setTask tid t

/-- The address of the next instruction in sequence: 8 bytes on in the C-seq, else 4 (R113, R120). -/
def following (t : Task) (q : Seq) : Word := (t.sq q).pc + (if q = .c then 8 else 4)

/-- Completing in `s1`, with the next instruction in sequence to follow. -/
def ends (s1 : State) (tid : Nat) (q : Seq) (t : Task) (w : Stall) : Host.Outcome State Fault Refusal :=
  .next (s1.complete tid q w (following t q))

/-- Completing in `s1`, with the instruction at `pc` to follow. -/
def goes (s1 : State) (tid : Nat) (q : Seq) (w : Stall) (pc : Word) : Host.Outcome State Fault Refusal :=
  .next (s1.complete tid q w pc)

/-- Taking a precise trap in `s1`. -/
def traps (s1 : State) (tid : Nat) (q : Seq) (e : Trap) : Host.Outcome State Fault Refusal := .next (s1.takeTrap tid q e)

/-- Waiting a cycle: blocked after it has issued (`issued`), or at issue. -/
def waits (s1 : State) (tid : Nat) (q : Seq) (why : Wait) (issued : Bool) : Host.Outcome State Fault Refusal :=
  .next (s1.waitCycle tid q why issued)

/-- What a step that concerns only task `tid` leaves alone: every other task, and every part of the package beside the
tasks, memory included. -/
def OnlyTask (tid : Nat) (s s' : State) : Prop :=
  { s' with tasks := s.tasks } = s ∧ ∀ k, k ≠ tid → Assoc.find s'.tasks k = Assoc.find s.tasks k

/-- What an instruction of sequencer `q` that concerns only its scalar registers leaves of its task: the other sequencers, the
vector registers, the predicates, the special registers, the accumulator tiles, the saved registers and all else. -/
def OnlySeq (q : Seq) (t t' : Task) : Prop := t'.setSq q (t.sq q) = t

/-- No due write of a sequencer is to anything but its scalar registers: what the K-, L- and W-seq pend (R149). -/
def ScalarLate (x : SeqState) : Prop := ∀ e ∈ x.late, ∃ c v, e.what = .sreg c v

/-- The registers of a sequencer are listed in canonical form. -/
def RegsOk (x : SeqState) : Prop := Assoc.wf 0 x.regs = true

/-- The tasks are listed in canonical form: each once, in rising order. -/
def TasksOk (s : State) : Prop := (s.tasks.map (·.1)).Pairwise (· < ·)

end Sys2Proof.Safety
end

