-- ==== Sys2Proof/Certificates/Slice0/Obligations.lean ====
section
/-! DEFINITION. The statements for the provers. Each docstring cites the rule of spec/ it formalises; the terms `Ready`,
`ends`, `goes`, `traps`, `waits`, `OnlyTask` and `OnlySeq` are those of `Safety`. -/

open Sys2Proof Sys2Proof.Machine Sys2Proof.Safety

/-! ### Scalar instructions -/

/-- R157, R151: each ALU instruction completes with its result pending for one cycle, whatever its operands. The example
word of the rule is `add x3, x1, x2`. -/
def Obligations.AluResults : Prop :=
  (decode .k 0x00430420 0 = .ok (.add 0 (.x 3) (.x 1) (.x 2))) ∧
  ∀ (s : State) (tid : Nat) (q : Seq) (t : Task) (w : Stall) (d a b : SReg),
    Ready s tid q t [.s d.code, .s a.code, .s b.code] →
    let x := (t.sq q).rd a
    let y := (t.sq q).rd b
    let n := y.toNat % 64
    let gives := fun v : Word => ends ((seen s tid t).result tid q 1 d v) tid q t w
    exec (.add w d a b) s = gives (x + y) ∧
    exec (.sub w d a b) s = gives (x - y) ∧
    exec (.and w d a b) s = gives (x &&& y) ∧
    exec (.or w d a b) s = gives (x ||| y) ∧
    exec (.xor w d a b) s = gives (x ^^^ y) ∧
    exec (.shl w d a b) s = gives (BitVec.ofNat 64 (x.toNat * 2 ^ n)) ∧
    exec (.shr w d a b) s = gives (BitVec.ofNat 64 (x.toNat / 2 ^ n)) ∧
    exec (.sra w d a b) s = gives (BitVec.ofInt 64 (x.toInt / 2 ^ n)) ∧
    exec (.min w d a b) s = gives (if x.toInt ≤ y.toInt then x else y) ∧
    exec (.max w d a b) s = gives (if x.toInt ≤ y.toInt then y else x) ∧
    exec (.minn w d a b) s = gives (if x.toNat ≤ y.toNat then x else y) ∧
    exec (.maxn w d a b) s = gives (if x.toNat ≤ y.toNat then y else x) ∧
    exec (.slt w d a b) s = gives (if x.toInt < y.toInt then 1 else 0) ∧
    exec (.sltn w d a b) s = gives (if x.toNat < y.toNat then 1 else 0) ∧
    exec (.seq w d a b) s = gives (if x = y then 1 else 0) ∧
    exec (.sne w d a b) s = gives (if x = y then 0 else 1)

/-- R158, R151: the multiplies take 3 cycles, the divisions 18 and the rest 1; no division traps.
R158: the bit counts and the reversal, characterised by the bits of their operand.
R159, R160: the immediate forms and the two that build constants. -/
def Obligations.MulDivAndImmediateResults : Prop :=
  (∀ (s : State) (tid : Nat) (q : Seq) (t : Task) (w : Stall) (d a b : SReg),
    Ready s tid q t [.s d.code, .s a.code, .s b.code] →
    let x := (t.sq q).rd a
    let y := (t.sq q).rd b
    let gives := fun (lat : Nat) (v : Word) => ends ((seen s tid t).result tid q lat d v) tid q t w
    exec (.mul w d a b) s = gives 3 (BitVec.ofNat 64 (x.toNat * y.toNat)) ∧
    exec (.mulh w d a b) s = gives 3 (BitVec.ofInt 64 (x.toInt * y.toInt / 2 ^ 64)) ∧
    exec (.mulhn w d a b) s = gives 3 (BitVec.ofNat 64 (x.toNat * y.toNat / 2 ^ 64)) ∧
    exec (.div w d a b) s =
      gives 18 (if y = 0 then BitVec.allOnes 64 else BitVec.ofInt 64 (x.toInt.tdiv y.toInt)) ∧
    exec (.divn w d a b) s =
      gives 18 (if y = 0 then BitVec.allOnes 64 else BitVec.ofNat 64 (x.toNat / y.toNat)) ∧
    exec (.rem w d a b) s =
      gives 18 (if y = 0 then x else BitVec.ofInt 64 (x.toInt - y.toInt * x.toInt.tdiv y.toInt)) ∧
    exec (.remn w d a b) s =
      gives 18 (if y = 0 then x else BitVec.ofNat 64 (x.toNat - y.toNat * (x.toNat / y.toNat))) ∧
    exec (.lea2 w d a b) s = gives 1 (x + 2 * y) ∧
    exec (.lea4 w d a b) s = gives 1 (x + 4 * y) ∧
    exec (.lea8 w d a b) s = gives 1 (x + 8 * y)) ∧
  (∀ (s : State) (tid : Nat) (q : Seq) (t : Task) (w : Stall) (d a : SReg),
    Ready s tid q t [.s d.code, .s a.code] →
    let x := (t.sq q).rd a
    let gives := fun v : Word => ends ((seen s tid t).result tid q 1 d v) tid q t w
    (∃ n : Nat, n ≤ 64 ∧ x.toNat < 2 ^ (64 - n) ∧ (n < 64 → 2 ^ (63 - n) ≤ x.toNat) ∧
      exec (.clz w d a) s = gives (BitVec.ofNat 64 n)) ∧
    (∃ n : Nat, n ≤ 64 ∧ (∀ i < n, x.getLsbD i = false) ∧ (n < 64 → x.getLsbD n = true) ∧
      exec (.ctz w d a) s = gives (BitVec.ofNat 64 n)) ∧
    exec (.popc w d a) s = gives (BitVec.ofNat 64 (((List.range 64).filter fun i => x.getLsbD i).length)) ∧
    (∃ r : Word, (∀ i < 64, r.getLsbD (63 - i) = x.getLsbD i) ∧ exec (.brev w d a) s = gives r)) ∧
  (∀ (s : State) (tid : Nat) (q : Seq) (t : Task) (w : Stall) (d a : SReg) (m : BitVec 10) (n : BitVec 6)
    (k : BitVec 16),
    Ready s tid q t [.s d.code, .s a.code] →
    let x := (t.sq q).rd a
    let y := (t.sq q).rd d
    let i : Word := m.signExtend 64
    let gives := fun v : Word => ends ((seen s tid t).result tid q 1 d v) tid q t w
    exec (.addi w d a m) s = gives (x + i) ∧
    exec (.andi w d a m) s = gives (x &&& i) ∧
    exec (.ori w d a m) s = gives (x ||| i) ∧
    exec (.xori w d a m) s = gives (x ^^^ i) ∧
    exec (.shli w d a n) s = gives (BitVec.ofNat 64 (x.toNat * 2 ^ n.toNat)) ∧
    exec (.shri w d a n) s = gives (BitVec.ofNat 64 (x.toNat / 2 ^ n.toNat)) ∧
    exec (.srai w d a n) s = gives (BitVec.ofInt 64 (x.toInt / 2 ^ n.toNat)) ∧
    exec (.slti w d a m) s = gives (if x.toInt < m.toInt then 1 else 0) ∧
    exec (.sltni w d a m) s = gives (if x.toNat < i.toNat then 1 else 0) ∧
    exec (.lui w d k) s = gives (BitVec.ofInt 64 (k.toInt * 2 ^ 16)) ∧
    exec (.lsh w d k) s = gives (y * 2 ^ 16 + k.setWidth 64))

/-- R161: a taken branch goes to PC + 4 × SignExt(OFF9, 9), another to PC + 4, and neither writes a register.
R162: the jumps; a misaligned register target takes the alignment trap at the jump and writes no link. -/
def Obligations.BranchAndJumpTargets : Prop :=
  (∀ (s : State) (tid : Nat) (q : Seq) (t : Task) (w : Stall) (a b : SReg) (o : BitVec 9),
    q ≠ .c → Ready s tid q t [.s a.code, .s b.code] →
    let x := (t.sq q).rd a
    let y := (t.sq q).rd b
    let pc := (t.sq q).pc
    let goesIf := fun (p : Prop) [Decidable p] =>
      goes (seen s tid t) tid q w (if p then pc + BitVec.ofInt 64 (4 * o.toInt) else pc + 4)
    exec (.beq w a b o) s = goesIf (x = y) ∧
    exec (.bne w a b o) s = goesIf (x ≠ y) ∧
    exec (.blt w a b o) s = goesIf (x.toInt < y.toInt) ∧
    exec (.bge w a b o) s = goesIf (y.toInt ≤ x.toInt) ∧
    exec (.bltn w a b o) s = goesIf (x.toNat < y.toNat) ∧
    exec (.bgen w a b o) s = goesIf (y.toNat ≤ x.toNat)) ∧
  (∀ (s : State) (tid : Nat) (t : Task) (w : Stall) (d a : SReg) (o : BitVec 22) (m : BitVec 16),
    Ready s tid .k t [.s d.code, .s a.code] →
    let pc := t.kq.pc
    let x := t.kq.rd a
    let linked := (seen s tid t).result tid .k 1 d (pc + 4)
    exec (.j w o) s = goes (seen s tid t) tid .k w (pc + BitVec.ofInt 64 (4 * o.toInt)) ∧
    exec (.jal w d m) s = goes linked tid .k w (pc + BitVec.ofInt 64 (4 * m.toInt)) ∧
    (x.toNat % 4 = 0 → exec (.jr w a) s = goes (seen s tid t) tid .k w x ∧ exec (.jalr w d a) s = goes linked tid .k w x) ∧
    (x.toNat % 4 ≠ 0 →
      let e : Trap := { cls := 5, cspace := 0, cause := 0, addr := x.toNat, info := 0, words := true, async := false }
      exec (.jr w a) s = traps (seen s tid t) tid .k e ∧ exec (.jalr w d a) s = traps (seen s tid t) tid .k e))

/-- R163: `loop` counts down and repeats, and falls out at 0; the rule's example is the word 0x040F_FFFE.
R164: `lcset` writes the zero-extended immediate; the rule's two example words. -/
def Obligations.LoopCounters : Prop :=
  ((decode .k 0x040FFFFE 0 = .ok (.loop 0 0 (BitVec.ofInt 20 (-2)))) ∧
  ∀ (s : State) (tid : Nat) (q : Seq) (t : Task) (w : Stall) (l : Fin 4) (o : BitVec 20),
    q ≠ .c → Ready s tid q t [.s (48 + l.val)] →
    let n := (t.sq q).rd (.lc l)
    let pc := (t.sq q).pc
    (n = 0 → exec (.loop w l o) s = goes (seen s tid t) tid q w (pc + 4)) ∧
    (n ≠ 0 → exec (.loop w l o) s =
      goes ((seen s tid t).result tid q 1 (.lc l) (n - 1)) tid q w
        (if n - 1 = 0 then pc + 4 else pc + BitVec.ofInt 64 (4 * o.toInt)))) ∧
  ((decode .k 0x0470000A 0 = .ok (.lcset 0 0 10)) ∧ (decode .k 0x0471012C 0 = .ok (.lcset 0 1 300)) ∧
  ∀ (s : State) (tid : Nat) (q : Seq) (t : Task) (w : Stall) (l : Fin 4) (m : BitVec 16),
    Ready s tid q t [.s (48 + l.val)] →
    exec (.lcset w l m) s = ends ((seen s tid t).result tid q 1 (.lc l) (m.setWidth 64)) tid q t w)

/-- R150: an instruction that names an interlocked register, as a source or a destination, waits at issue for one cycle of
the issue clock, and has no effect.
R153: under CHK an instruction that issues and names a register with a fixed-latency write pending takes the scoreboard
trap, class 8, without effect; a register pending under R150 waits instead. Shown on an instruction of each shape: one of the
ALU, a multiply and an interlocked one. -/
def Obligations.PendingRegistersHold : Prop :=
  (∀ (s : State) (tid : Nat) (q : Seq) (t0 : Task) (w : Stall) (d a b r : SReg),
    s.cur = .seq tid q → Assoc.find s.tasks tid = some t0 → r ∈ [d, a, b] →
    ((t0.land q).sq q).interlocked (.s r.code) = true →
    exec (.add w d a b) s = waits (s.setTask tid (t0.land q)) tid q .interlock false ∧
    exec (.mul w d a b) s = waits (s.setTask tid (t0.land q)) tid q .interlock false ∧
    exec (.lpatch w d a b) s = waits (s.setTask tid (t0.land q)) tid q .interlock false) ∧
  (∀ (s : State) (tid : Nat) (q : Seq) (t0 : Task) (w : Stall) (d a b r : SReg),
    s.cur = .seq tid q → Assoc.find s.tasks tid = some t0 → t0.tt.chk = true → r ∈ [d, a, b] →
    ((t0.land q).sq q).shadowed (.s r.code) = true → ((t0.land q).sq q).ilk = [] → ((t0.land q).sq q).atIssue = none →
    let e : Trap := { cls := 8, cspace := 0, cause := 0, addr := 0, info := 0, words := true, async := false }
    exec (.add w d a b) s = traps (s.setTask tid (t0.land q)) tid q e ∧
    exec (.mul w d a b) s = traps (s.setTask tid (t0.land q)) tid q e ∧
    exec (.lpatch w d a b) s = traps (s.setTask tid (t0.land q)) tid q e)

/-- Whether an instruction is one of those R151 gives a fixed scalar result or none, and that writes no other state. -/
def scalarOnly : Instr → Bool
  | .nop _ | .add _ _ _ _ | .sub _ _ _ _ | .and _ _ _ _ | .or _ _ _ _ | .xor _ _ _ _ | .shl _ _ _ _ | .shr _ _ _ _
  | .sra _ _ _ _ | .min _ _ _ _ | .max _ _ _ _ | .minn _ _ _ _ | .maxn _ _ _ _ | .slt _ _ _ _ | .sltn _ _ _ _
  | .seq _ _ _ _ | .sne _ _ _ _ | .mul _ _ _ _ | .mulh _ _ _ _ | .mulhn _ _ _ _ | .div _ _ _ _ | .divn _ _ _ _
  | .rem _ _ _ _ | .remn _ _ _ _ | .clz _ _ _ | .ctz _ _ _ | .popc _ _ _ | .brev _ _ _ | .lea2 _ _ _ _ | .lea4 _ _ _ _
  | .lea8 _ _ _ _ | .addi _ _ _ _ | .andi _ _ _ _ | .ori _ _ _ _ | .xori _ _ _ _ | .shli _ _ _ _ | .shri _ _ _ _
  | .srai _ _ _ _ | .slti _ _ _ _ | .sltni _ _ _ _ | .lui _ _ _ | .lsh _ _ _ | .beq _ _ _ _ | .bne _ _ _ _
  | .blt _ _ _ _ | .bge _ _ _ _ | .bltn _ _ _ _ | .bgen _ _ _ _ | .j _ _ | .jal _ _ _ | .loop _ _ _ | .lcset _ _ _
  | .tcnt _ _ _ _ | .vdid _ _ | .widf _ _ _ | .tile _ _ => true
  | _ => false

/-- The register such an instruction writes, if it writes one. -/
def scalarDest : Instr → Option SReg
  | .add _ d _ _ | .sub _ d _ _ | .and _ d _ _ | .or _ d _ _ | .xor _ d _ _ | .shl _ d _ _ | .shr _ d _ _
  | .sra _ d _ _ | .min _ d _ _ | .max _ d _ _ | .minn _ d _ _ | .maxn _ d _ _ | .slt _ d _ _ | .sltn _ d _ _
  | .seq _ d _ _ | .sne _ d _ _ | .mul _ d _ _ | .mulh _ d _ _ | .mulhn _ d _ _ | .div _ d _ _ | .divn _ d _ _
  | .rem _ d _ _ | .remn _ d _ _ | .clz _ d _ | .ctz _ d _ | .popc _ d _ | .brev _ d _ | .lea2 _ d _ _ | .lea4 _ d _ _
  | .lea8 _ d _ _ | .addi _ d _ _ | .andi _ d _ _ | .ori _ d _ _ | .xori _ d _ _ | .shli _ d _ _ | .shri _ d _ _
  | .srai _ d _ _ | .slti _ d _ _ | .sltni _ d _ _ | .lui _ d _ | .lsh _ d _ | .jal _ d _
  | .tcnt _ d _ _ | .vdid _ d | .widf _ d _ | .tile _ d => some d
  | .loop _ l _ => some (.lc l)
  | .lcset _ l _ => some (.lc l)
  | _ => none

/-- The frame of the instructions of R155, R157 to R164, R167 (`tcnt`) and R170 (`vdid`, `widf`, `tile`) on the K-, L- and
W-seq: no other task, nothing of the package beside its tasks, so no byte of memory and no command register, and nothing of
the task beside the sequencer that moves; and of that sequencer no register but the destination, once nothing earlier is
pending there. -/
def Obligations.ScalarFrame : Prop :=
  ∀ (s s' : State) (tid : Nat) (q : Seq) (t t' : Task) (i : Instr),
    scalarOnly i = true → q ≠ .c → s.cur = .seq tid q → Assoc.find s.tasks tid = some t → ScalarLate (t.sq q) →
    RegsOk (t.sq q) → t.tt.chk = false → exec i s = .next s' → Assoc.find s'.tasks tid = some t' →
    OnlyTask tid s s' ∧ OnlySeq q t t' ∧ RegsOk (t'.sq q) ∧
    ((t.sq q).late = [] → (∀ i ∈ (t.sq q).ilk, i.land = none) →
      ∀ c, (∀ d, scalarDest i = some d → c ≠ d.code) → (t'.sq q).regAt c = (t.sq q).regAt c)

/-! ### The SYS group, traps and returns -/

/-- R155, R391, R393: `nop` changes nothing else, `trap` traps with class 1 and its code in TINFO, `srd` gives the content
of the register and `swr` writes the registers that can be written, the saved PCs only in handler mode and aligned. -/
def Obligations.SysRegisterAccess : Prop :=
  ∀ (s : State) (tid : Nat) (t : Task) (w : Stall) (d a : SReg) (r : SysReg) (code : BitVec 6),
    Ready s tid .k t [.s d.code, .s a.code] →
    let v := t.kq.rd a
    let keeps := fun t' : Task => ends ((seen s tid t).modTask tid fun _ => t') tid .k t w
    let gives := fun v : Word => ends ((seen s tid t).interlock tid .k d v) tid .k t w
    exec (.nop w) s = ends (seen s tid t) tid .k t w ∧
    exec (.trap w code) s = traps (seen s tid t) tid .k
      { cls := 1, cspace := 0, cause := 0, addr := 0, info := code.toNat, words := true, async := false } ∧
    exec (.srd w d .trec) s = gives t.trec ∧ exec (.srd w d .tpck) s = gives t.tpck ∧
    exec (.srd w d .tpcl) s = gives t.tpcl ∧ exec (.srd w d .tpcw) s = gives t.tpcw ∧
    exec (.srd w d .tpcc) s = gives t.tpcc ∧ exec (.srd w d .taddr) s = gives t.taddr ∧
    exec (.srd w d .tinfo) s = gives t.tinfo ∧ exec (.srd w d .tword) s = gives t.tword ∧
    exec (.srd w d .evt) s = gives t.evt ∧ exec (.srd w d .sto) s = gives (t.sto.setWidth 64) ∧
    exec (.srd w d .srndcnt) s = gives (t.srnd.setWidth 64) ∧ exec (.srd w d .holdcnt) s = gives t.holdcnt ∧
    exec (.srd w d .imgseq) s = gives t.imgseq ∧
    (r ∈ [.opb1, .opb2, .oplr, .opeps, .opwd, .opc1, .opc2, .opmu] →
      exec (.srd w d r) s = gives ((Assoc.get 0 t.opr (r.code - 4)).setWidth 64) ∧
      exec (.swr w a r) s = keeps { t with opr := Assoc.set 0 t.opr (r.code - 4) (v.setWidth 32) }) ∧
    exec (.swr w a .evt) s = keeps { t with evt := v } ∧
    exec (.swr w a .sto) s = keeps { t with sto := v.setWidth 32 } ∧
    (r ∈ [.srndcnt, .holdcnt, .imgseq, .trec, .taddr, .tinfo, .tword] → exec (.swr w a r) s = keeps t) ∧
    (t.handler = none → r ∈ [.tpck, .tpcl, .tpcw, .tpcc] → exec (.swr w a r) s = keeps t) ∧
    (t.handler.isSome = true →
      exec (.swr w a .tpck) s = keeps { t with tpck := BitVec.ofNat 64 (v.toNat / 4 * 4) } ∧
      exec (.swr w a .tpcl) s = keeps { t with tpcl := BitVec.ofNat 64 (v.toNat / 4 * 4) } ∧
      exec (.swr w a .tpcw) s = keeps { t with tpcw := BitVec.ofNat 64 (v.toNat / 4 * 4) } ∧
      exec (.swr w a .tpcc) s = keeps { t with tpcc := BitVec.ofNat 64 (v.toNat / 8 * 8) })

/-- R367, R368: a trap of a task outside handler mode saves the four PCs at their instruction boundaries, writes TREC, TADDR,
TINFO and TWORD, sets the K-seq's clock, stall count and late writes aside, and goes to TRAPV.
A machine check is the K-seq's (R375).
R370: a trap of another class in handler mode is a double trap: the task ends without retiring, and its launch fails with Task
fault; a machine check there is held, and the handler goes on. -/
def Obligations.TrapsAndDoubleTraps : Prop :=
  (∀ (s : State) (tid : Nat) (q : Seq) (t : Task) (e : Trap),
    Assoc.find s.tasks tid = some t → t.handler = none → t.popped = none → t.sync = none →
    ∃ t', Assoc.find (s.takeTrap tid q e).tasks tid = some t' ∧
      t'.tpck = t.kq.pc ∧ t'.tpcl = t.lq.pc ∧ t'.tpcw = t.wq.pc ∧ t'.tpcc = t.cq.pc ∧
      t'.trec = BitVec.ofNat 64 (e.cause * 2 ^ 48 + e.cspace * 2 ^ 44 + e.cls * 2 ^ 32 +
        (if e.async then Seq.k else q).code * 2 ^ 30 + (if e.async then 2 ^ 29 else 0)) ∧
      t'.taddr = BitVec.ofNat 64 e.addr ∧ t'.tinfo = BitVec.ofNat 64 e.info ∧
      t'.tword = (if e.words then s.curWord else 0) ∧
      t'.handler = some { clk := t.kq.clk, stall := t.kq.stall, late := t.kq.late } ∧
      t'.kq.pc = t.tt.trapv ∧ t'.kq.clk = 0 ∧ t'.kq.stall = 0 ∧ t'.kq.late = [] ∧
      t'.kq.regs = t.kq.regs ∧ t'.lq.regs = t.lq.regs ∧ t'.wq.regs = t.wq.regs ∧
      (∀ r : Seq, (t'.sq r).wait = none ∧ (t'.sq r).waited = 0) ∧
      (∀ r : Seq, r ≠ .k → t'.issues r = false) ∧
      (s.takeTrap tid q e).mem = s.mem ∧ (s.takeTrap tid q e).hostMem = s.hostMem) ∧
  (∀ (s : State) (tid : Nat) (q : Seq) (t : Task) (e : Trap),
    Assoc.find s.tasks tid = some t → t.handler.isSome = true → e.cls ≠ 15 → TasksOk s →
    Assoc.find (s.takeTrap tid q e).tasks tid = none ∧
    ((s.takeTrap tid q e).lrec t.lr).state = .failed ∧ ((s.takeTrap tid q e).lrec t.lr).err = 10 ∧
    (s.takeTrap tid q e).retirements = s.retirements) ∧
  (∀ (s : State) (tid : Nat) (q : Seq) (t : Task) (e : Trap),
    Assoc.find s.tasks tid = some t → t.handler.isSome = true → e.cls = 15 →
    ∃ t', Assoc.find (s.takeTrap tid q e).tasks tid = some t' ∧ t'.handler = t.handler ∧ t'.kq.pc = t.kq.pc ∧
      t'.checks = t.checks ++
        [{ array := e.info, cspace := e.cspace, cause := e.cause, addr := BitVec.ofNat 64 e.addr }] ∧
      (s.takeTrap tid q e).recs = s.recs ∧ (s.takeTrap tid q e).retirements = s.retirements)

/-- R394, R152: `rft` in handler mode, with no write of the handler's own pending, resumes the four sequencers at the saved PCs,
with the K-seq's clock, stall count and late writes as they were, and waits while one is; outside handler mode it is an illegal
instruction. -/
def Obligations.ReturnFromTrap : Prop :=
  ∀ (s : State) (tid : Nat) (t : Task) (w : Stall), Ready s tid .k t [] →
    (t.handler = none → exec (.rft w) s = traps (seen s tid t) tid .k
      { cls := 2, cspace := 0, cause := 0, addr := 0, info := 0, words := true, async := false }) ∧
    (∀ h, t.handler = some h → t.kq.late = [] → (∀ i ∈ t.kq.ilk, i.handler = false) →
      ∃ s' t', exec (.rft w) s = .next s' ∧ Assoc.find s'.tasks tid = some t' ∧ t'.handler = none ∧
        t'.kq.pc = t.tpck ∧ t'.lq.pc = t.tpcl ∧ t'.wq.pc = t.tpcw ∧ t'.cq.pc = t.tpcc ∧
        t'.kq.clk = h.clk ∧ t'.kq.stall = h.stall ∧ t'.kq.late = h.late ∧ t'.kq.regs = t.kq.regs ∧
        t'.trec = t.trec ∧ t'.taddr = t.taddr ∧ OnlyTask tid s s') ∧
    (∀ h, t.handler = some h → (t.kq.late ≠ [] ∨ ∃ i ∈ t.kq.ilk, i.handler = true) →
      exec (.rft w) s = waits (seen s tid t) tid .k .rft true)

/-- R156, R399: `tend` of a task that has nothing outstanding, no fault unreported and no membership removes it and sends its
retirement, in a package whose superstep barriers are all free; while an access, an operation or a fence is outstanding it
waits. -/
def Obligations.TendRetires : Prop :=
  ∀ (s : State) (tid : Nat) (t : Task) (w : Stall), Ready s tid .k t [] →
    (t.life = .ending → t.busy = true → exec (.tend w) s = waits (seen s tid t) tid .k .tend true) ∧
    ((t.life = .ending ∧ t.busy = false ∨ t.life ≠ .ending ∧ t.beginEnd.busy = false ∧ t.openBatch.ops = []) →
      t.faults = [] → t.sync = none → t.members = [] → s.barriers = [] → TasksOk s →
      ∃ s', exec (.tend w) s = .next s' ∧ Assoc.has s'.tasks tid = false ∧
        s'.retirements = s.retirements ++ [{ lr := t.lr, arming := t.arming, hold := t.holdcnt.toNat }] ∧
        s'.mem = s.mem ∧ s'.hostMem = s.hostMem)

/-! ### Scalar memory -/

/-- A byte of a place as it stands outside every L1. -/
def placeByte (s : State) (tid : Nat) (p : Place) : Byte :=
  match Assoc.find s.tasks tid with
  | none => 0
  | some t => match p with
    | .spad o => Assoc.get 0 t.spad o
    | .md o => Assoc.get 0 t.md o
    | .acc o => BitVec.ofNat 8 ((Assoc.get 0 (t.tile (o / 8192)).m (o % 8192 / 8)).toNat / 2 ^ (8 * (o % 8)))
    | .cluster o => Assoc.get 0 (Assoc.get [] s.cluster (clusterKey t.die t.core t.lr)) o
    | .stripe o => Assoc.get 0 (Assoc.get [] s.stripes (stripeKey t.die t.ctx)) o
    | .phys pa _ => if isHostPa pa then Assoc.get 0 s.hostMem (pa % 2 ^ 51) else Assoc.get 0 s.mem pa

/-- The place `k` bytes on. -/
def placeAfter (p : Place) (k : Nat) : Place :=
  match p with
  | .spad o => .spad (o + k)
  | .md o => .md (o + k)
  | .acc o => .acc (o + k)
  | .cluster o => .cluster (o + k)
  | .stripe o => .stripe (o + k)
  | .phys pa st => .phys (pa + k) st

/-- A place of one of the four windows that `lds` and `sts` reach at every width (R243, R246, R247). -/
def byteWindow (p : Place) : Bool :=
  match p with
  | .spad _ | .md _ | .cluster _ | .stripe _ => true
  | .acc _ | .phys _ _ => false

/-- The byte memories a task's scalar accesses reach are in canonical form. -/
def MemoriesOk (s : State) (t : Task) : Prop :=
  Assoc.wf 0 s.mem = true ∧ Assoc.wf 0 s.hostMem = true ∧ Assoc.wf 0 t.spad = true ∧ Assoc.wf 0 t.md = true ∧
  Assoc.wf 0 (Assoc.get [] s.cluster (clusterKey t.die t.core t.lr)) = true ∧
  Assoc.wf 0 (Assoc.get [] s.stripes (stripeKey t.die t.ctx)) = true

/-- The address of `lds` and `sts`: xa + SignExt(IMM8, 8) × 2^W (R165). -/
def scalarAccess (t : Task) (a : SReg) (v : Fin 4) (m : BitVec 8) : Word :=
  t.kq.rd a + BitVec.ofInt 64 (m.toInt * 2 ^ v.val)

/-- The K-seq of a task has nothing that an access could wait behind. -/
def NothingHeld (t : Task) : Prop := t.kq.held = [] ∧ t.kq.peers = [] ∧ t.kq.barriers = []

/-- R165, R243: `sts.T` to the scratchpad, the metadata, the cluster or the striped window stores the low 2^W bytes of xd at
the address it computes, and no other byte of any memory; the store keeps every memory in canonical form.
R165, R255: a coherent `sts.T` to translated HBM5 memory, with no dirty sector in its core's L1, stores its bytes in memory
at the physical address and leaves every other byte of HBM5 and host memory alone. -/
def Obligations.ScalarStores : Prop :=
  (∀ (s : State) (tid : Nat) (t : Task) (w : Stall) (d a : SReg) (v : Fin 4) (m : BitVec 8) (p : Place),
    Ready s tid .k t [.s d.code, .s a.code] → NothingHeld t → MemoriesOk s t →
    (scalarAccess t a v m).toNat < 2 ^ 60 → (scalarAccess t a v m).toNat % 2 ^ v.val = 0 →
    (seen s tid t).resolve t (scalarAccess t a v m).toNat .write = .ok p → byteWindow p = true →
    t.holdsWrite p (2 ^ v.val) = false →
    ∃ s', exec (.sts w d a v m) s = .next s' ∧
      (∀ k < 2 ^ v.val, placeByte s' tid (placeAfter p k) = BitVec.ofNat 8 ((t.kq.rd d).toNat / 2 ^ (8 * k))) ∧
      (∀ p', (∀ k < 2 ^ v.val, p' ≠ placeAfter p k) → placeByte s' tid p' = placeByte s tid p') ∧
      s'.mem = s.mem ∧ s'.hostMem = s.hostMem ∧
      (∀ k u u', k ≠ tid → Assoc.find s.tasks k = some u → Assoc.find s'.tasks k = some u' →
        u'.spad = u.spad ∧ u'.md = u.md ∧ u'.tiles = u.tiles ∧ (∀ r, u'.sq r = u.sq r)) ∧
      (∃ t', Assoc.find s'.tasks tid = some t' ∧ t'.kq.pc = t.kq.pc + 4 ∧ MemoriesOk s' t')) ∧
  (∀ (s : State) (tid : Nat) (t : Task) (w : Stall) (d a : SReg) (v : Fin 4) (m : BitVec 8) (pa : Nat),
    Ready s tid .k t [.s d.code, .s a.code] → NothingHeld t → MemoriesOk s t →
    (scalarAccess t a v m).toNat < 2 ^ 60 → (scalarAccess t a v m).toNat % 2 ^ v.val = 0 → pa % 2 ^ v.val = 0 →
    (seen s tid t).resolve t (scalarAccess t a v m).toNat .write = .ok (.phys pa false) → isHostPa pa = false →
    (∀ l ∈ s.lines (32 * t.die + t.core), l.s0.dirty = false ∧ l.s1.dirty = false) →
    ∃ s', exec (.sts w d a v m) s = .next s' ∧
      (∀ k < 2 ^ v.val, Assoc.get 0 s'.mem (pa + k) = BitVec.ofNat 8 ((t.kq.rd d).toNat / 2 ^ (8 * k))) ∧
      (∀ x, x < pa ∨ pa + 2 ^ v.val ≤ x → Assoc.get 0 s'.mem x = Assoc.get 0 s.mem x) ∧
      s'.hostMem = s.hostMem ∧ Assoc.wf 0 s'.mem = true)

/-- R165, R129: an address with [63:60] ≠ 0 takes the address trap, then a misaligned one the alignment trap, then one outside
what the task holds of a window the address trap, and one that does not translate the translation trap with its cause; an
accumulator word takes no width but 64 bits (R243). Each names the address, and neither loads nor stores. One whose TLB entry is
poisoned takes the machine check of R375 (the codes from 16 on: 16 and the array code).
R295: one whose page walk a pending fence holds waits at issue, before it is translated (the model's reading, log entry 61). -/
def Obligations.ScalarAccessTraps : Prop :=
  ∀ (s : State) (tid : Nat) (t : Task) (w : Stall) (d a : SReg) (v : Fin 4) (m : BitVec 8),
    Ready s tid .k t [.s d.code, .s a.code] →
    let x := (scalarAccess t a v m).toNat
    let e := fun (cls cspace cause : Nat) => traps (seen s tid t) tid .k
      { cls := cls, cspace := cspace, cause := cause, addr := x, info := 0, words := true, async := false }
    (2 ^ 60 ≤ x → exec (.lds w d a v m) s = e 6 0 0 ∧ exec (.sts w d a v m) s = e 6 0 0) ∧
    (x < 2 ^ 60 → x % 2 ^ v.val ≠ 0 → exec (.lds w d a v m) s = e 5 0 0 ∧ exec (.sts w d a v m) s = e 5 0 0) ∧
    (x < 2 ^ 60 → x % 2 ^ v.val = 0 → (seen s tid t).walkHeld t .k x (2 ^ v.val) = true →
      exec (.lds w d a v m) s = waits (seen s tid t) tid .k .fence false ∧
      exec (.sts w d a v m) s = waits (seen s tid t) tid .k .fence false) ∧
    (x < 2 ^ 60 → x % 2 ^ v.val = 0 → (seen s tid t).walkHeld t .k x (2 ^ v.val) = false →
      ((seen s tid t).resolve t x .read = .error .address → exec (.lds w d a v m) s = e 6 0 0) ∧
      ((seen s tid t).resolve t x .write = .error .address → exec (.sts w d a v m) s = e 6 0 0) ∧
      (∀ o, v.val ≠ 3 → (seen s tid t).resolve t x .read = .ok (.acc o) → exec (.lds w d a v m) s = e 5 0 0) ∧
      (∀ o, v.val ≠ 3 → (seen s tid t).resolve t x .write = .ok (.acc o) → exec (.sts w d a v m) s = e 5 0 0) ∧
      (∀ c < 16,
        ((seen s tid t).resolve t x .read = .error (.translation c) → exec (.lds w d a v m) s = e 10 5 c) ∧
        ((seen s tid t).resolve t x .write = .error (.translation c) → exec (.sts w d a v m) s = e 10 5 c)) ∧
      (∀ k,
        let check := traps (seen s tid t) tid .k
          { cls := 15, cspace := 6, cause := k, addr := x, info := k, words := false, async := true }
        ((seen s tid t).resolve t x .read = .error (.translation (16 + k)) → exec (.lds w d a v m) s = check) ∧
        ((seen s tid t).resolve t x .write = .error (.translation (16 + k)) → exec (.sts w d a v m) s = check)))

/-- R165, R150: `lds.T` from a window, at an address with no poison, gives xd the zero-extended bytes there as an interlocked
result, and changes no byte of memory.
R150: when an interlocked result returns to a task that moves, the destination of the oldest that has arrived, of those with no
stated cycle, is written and is pending no longer; nothing else of the task changes. -/
def Obligations.ScalarLoads : Prop :=
  (∀ (s : State) (tid : Nat) (t : Task) (w : Stall) (d a : SReg) (v : Fin 4) (m : BitVec 8) (p : Place),
    Ready s tid .k t [.s d.code, .s a.code] → NothingHeld t → MemoriesOk s t → d.code ≠ 0 →
    (∀ i ∈ t.kq.ilk, i.land = none ∧ (i.val = none → i.uid ≠ s.uid)) →
    (scalarAccess t a v m).toNat < 2 ^ 60 → (scalarAccess t a v m).toNat % 2 ^ v.val = 0 →
    (seen s tid t).resolve t (scalarAccess t a v m).toNat .read = .ok p → byteWindow p = true → s.poison = [] →
    ∃ s' t' x, exec (.lds w d a v m) s = .next s' ∧ Assoc.find s'.tasks tid = some t' ∧
      x.toNat < 2 ^ (8 * 2 ^ v.val) ∧
      (∀ k < 2 ^ v.val, placeByte s tid (placeAfter p k) = BitVec.ofNat 8 (x.toNat / 2 ^ (8 * k))) ∧
      (∃ u, t'.kq.ilk =
        t.kq.ilk ++ [{ code := d.code, val := some x, uid := u, handler := t.handler.isSome, land := none }]) ∧
      (∀ p', placeByte s' tid p' = placeByte s tid p') ∧ OnlyTask tid s { s' with uid := s.uid }) ∧
  (∀ (s : State) (tid : Nat) (q : Seq) (t : Task) (i : Ilk) (v : Word) (pre rest : List Ilk),
    Assoc.find s.tasks tid = some t → s.moves t = true → RegsOk (t.sq q) → (t.sq q).ilk = pre ++ i :: rest →
    (∀ j ∈ pre, j.val = none ∨ j.land ≠ none) → i.val = some v → i.land = none → i.code ≠ 0 →
    ∃ s' t', exec (.interlockedResult tid q) s = .next s' ∧ Assoc.find s'.tasks tid = some t' ∧
      (t'.sq q).regAt i.code = v ∧ (t'.sq q).ilk = pre ++ rest ∧ RegsOk (t'.sq q) ∧
      (∀ c, c ≠ i.code → (t'.sq q).regAt c = (t.sq q).regAt c) ∧ OnlySeq q t t' ∧ OnlyTask tid s s')

/-! ### Tokens, records, queues and identity -/

/-- R117, R167, R286, R296: a give to a queue with room puts one token behind the others, and waits, giving nothing, while the
queue holds SLIP tokens or a fence is pending; a take of a token whose writes have landed or are held on a reservation removes
the oldest, and waits while there is none or a write of it is on its way; `tcnt` counts. -/
def Obligations.TokenQueues : Prop :=
  ∀ (s : State) (tid : Nat) (me q : Seq) (t : Task) (w : Stall) (d : SReg), Ready s tid me t [.s d.code] →
    let out := tokenQueue me q
    let inn := tokenQueue q me
    let o := t.tokensOf out
    let i := t.tokensOf inn
    ((t.sq me).fencing = false → o.length < t.tt.slip →
      exec (.tgive w q) s =
        ends ((seen s tid t).modTask tid fun t => { t with tokens := Assoc.set [] t.tokens out (o ++ [t.spadWrites me]) })
          tid me t w) ∧
    ((t.sq me).fencing = true ∨ t.tt.slip ≤ o.length →
      exec (.tgive w q) s = waits (seen s tid t) tid me .tgive true) ∧
    (i = [] → exec (.ttake w q) s = waits (seen s tid t) tid me .ttake true) ∧
    (∀ deps rest, i = deps :: rest → (∃ u ∈ deps, u ∈ t.outstanding ∧ u ∉ t.heldWrites) →
      exec (.ttake w q) s = waits (seen s tid t) tid me .ttake true) ∧
    (∀ deps rest, i = deps :: rest → (∀ u ∈ deps, u ∉ t.outstanding ∨ u ∈ t.heldWrites) →
      exec (.ttake w q) s =
        ends ((seen s tid t).modTask tid fun t => { t with tokens := Assoc.set [] t.tokens inn rest }) tid me t w) ∧
    (∀ e : Bool, exec (.tcnt w d e q) s =
      ends ((seen s tid t).result tid me 1 d (BitVec.ofNat 64 (if e then i.length else o.length))) tid me t w)

/-- R150, R168, R296: `lpatch`, `larm` and `lstat` complete at once; each sends its request to the hub, to arrive in order behind
those on their way, with its destination pending, and `larm` behind the fences and the `sts` stores of its sequencer.
R168, R76, R78: when a patch arrives it writes one word of a record of the task's context that is Idle or Done, which is then
Idle, and gives 0; else it changes no word and gives the status of the check that fails, which a record of the context keeps in
ERR. Of a bad state and a bad offset together the state gives the status (the model's choice, log entry 56).
R77, R78, R80, R168: when an arming arrives it arms a record that passes the checks: one more arming, the current epoch, nothing
retired, its counter preset when the record says so, and readiness when the counter reads 0; a record that fails keeps its
state and the status of the first failing check. -/
def Obligations.LaunchRecords : Prop :=
  (∀ (s : State) (tid : Nat) (q : Seq) (t : Task) (w : Stall) (d a b : SReg),
    Ready s tid q t [.s d.code, .s a.code, .s b.code] →
    let x := ((t.sq q).rd a).toNat
    let v := (t.sq q).rd b
    let sends := fun (req : HubReq) (after : List Nat) =>
      ends ((({ seen s tid t with uid := s.uid + 1 } : State).interlockOn tid q d s.uid).modTask tid fun t =>
        { t with hubq := t.hubq ++ [{ uid := s.uid, req := req, after := after }] }) tid q t w
    exec (.lpatch w d a b) s = sends (.patch (x % 2 ^ 12) (x / 2 ^ 16 % 2 ^ 5) v) [] ∧
    exec (.larm w d a) s = sends (.arm (x % 2 ^ 12)) ((t.sq q).fences ++ (t.sq q).storesHeld) ∧
    exec (.lstat w d a) s = sends (.stat (x % 2 ^ 12)) []) ∧
  (∀ (s : State) (tid : Nat) (t : Task) (h : HubOp) (rest : List HubOp),
    Assoc.find s.tasks tid = some t → s.moves t = true → t.kq.returned = none → t.hubq = h :: rest →
    t.clear h.after = true →
    let gives := fun (s1 : State) (st : Nat) => exec (.interlockedResult tid .k) s = .next (s1.modTask tid fun t =>
      { t.modSq .k (·.arrived h.uid (BitVec.ofNat 64 st)) with hubq := t.hubq.drop 1 })
    (∀ lr k v, h.req = .patch lr k v →
      let r := s.lrec lr
      (r.ctx ≠ some t.ctx → gives s 1) ∧
      (r.ctx = some t.ctx → r.state ≠ .idle → r.state ≠ .done → gives (s.setRec lr { r with err := 2 }) 2) ∧
      (r.ctx = some t.ctx → (r.state = .idle ∨ r.state = .done) → 28 ≤ k → gives (s.setRec lr { r with err := 4 }) 4) ∧
      (r.ctx = some t.ctx → (r.state = .idle ∨ r.state = .done) → k < 28 →
        gives (s.setRec lr { r with words := Assoc.set 0 r.words k v, state := .idle, err := 0 }) 0)) ∧
    (∀ lr, h.req = .arm lr → s.poison = [] →
      let r := s.lrec lr
      let gives := fun (s1 : State) (st : Nat) => gives (s1.runCp cpFuel) st
      (r.ctx ≠ some t.ctx → gives s 1) ∧
      (r.ctx = some t.ctx → r.state ≠ .idle → r.state ≠ .done → gives (s.setRec lr { r with err := 2 }) 2) ∧
      (r.ctx = some t.ctx → (r.state = .idle ∨ r.state = .done) →
        (r.fieldsOk = false → gives (s.setRec lr { r with err := 3 }) 3) ∧
        (r.fieldsOk = true → s.objectsOk lr t.ctx r = false → gives (s.setRec lr { r with err := 1 }) 1) ∧
        (r.fieldsOk = true → s.objectsOk lr t.ctx r = true → r.kind = 0 → r.gang = true → 128 * r.maxDie < r.total →
          gives (s.setRec lr { r with err := 5 }) 5) ∧
        (r.fieldsOk = true → s.objectsOk lr t.ctx r = true →
          (r.kind = 0 → r.gang = true → r.total ≤ 128 * r.maxDie) →
          ∃ s1, gives s1 0 ∧
            (s1.lrec lr).state = .armed ∧ (s1.lrec lr).epoch = s.epoch ∧ (s1.lrec lr).armcnt = r.armcnt + 1 ∧
            (s1.lrec lr).retired = 0 ∧ (s1.lrec lr).err = 0 ∧ (s1.lrec lr).words = r.words ∧
            (r.f 411 411 = 1 → s1.counter (r.counter lr) = BitVec.ofNat 16 (r.f 447 432)) ∧
            (s1.counter (r.counter lr) = 0 → .ready lr ∈ s1.cpq) ∧
            (s1.counter (r.counter lr) ≠ 0 → s1.cpq = s.cpq)))))

/-- R88, R150, R168, R169: `wqpush` and `wqlen` of a queue of the context send their requests to the hub, a push behind the
fences of its sequencer, with the destination pending; a queue that is not the caller's is an address trap at issue. When a push
arrives at a queue with room it appends the value and gives 0, at a full one it gives 1, and at one that has passed to another
context 2; `wqlen` gives the number of entries, `lstat` EPOCH, ERR and STATE, or 15.
R88, R89, R169: a pop behind no request takes the oldest entry, waits on an empty queue and joins its poppers, and waits behind
requests on their way; one that the hub has served completes with its entry. It holds the die of its task at nominal when the
queue is one of fixed latency and the launch persistent (R13).
R170, R75, R103, R104: what a task learns of itself and of distances: `vdid` its virtual die over its package, `widf` a field of
its work identifier, `tile` its shape word, or that of no shape on a core in a mode other than Normal, and `hops` 0 within a die, 1 within a package, and all ones for a place beyond
the domain. -/
def Obligations.QueuesAndIdentity : Prop :=
  (∀ (s : State) (tid : Nat) (q : Seq) (t : Task) (w : Stall) (d a b : SReg),
    Ready s tid q t [.s d.code, .s a.code, .s b.code] →
    let x := (t.sq q).rd a
    let n := x.toNat
    let v := (t.sq q).rd b
    let s0 := seen s tid t
    let bad := traps s0 tid q { cls := 6, cspace := 0, cause := 0, addr := 0, info := 0, words := true, async := false }
    let sends := fun (req : HubReq) (after : List Nat) =>
      ends ((({ s0 with uid := s.uid + 1 } : State).interlockOn tid q d s.uid).modTask tid fun t =>
        { t with hubq := t.hubq ++ [{ uid := s.uid, req := req, after := after }] }) tid q t w
    (∀ k, n < 256 → Assoc.find s.queues n = some k → k.ctx = t.ctx →
      exec (.wqpush w d a b) s = sends (.push n v) (t.sq q).fences ∧
      exec (.wqlen w d a) s = sends (.len n) [] ∧
      (t.popped = none →
        let s1 := if k.fixed then s0.popFixed tid t else s0
        (t.hubq ≠ [] → exec (.wqpop w d a) s = waits s1 tid q .wqpop true) ∧
        (t.hubq = [] → k.waiters = [] → s.poison = [] → ∀ e rest, k.entries = e :: rest →
          let k1 : WorkQueue := { k with entries := rest, taken := k.taken + 1 }
          exec (.wqpop w d a) s =
            ends (({ s1 with queues := Assoc.put s1.queues n k1 } : State).result tid q 1 d e) tid q t w) ∧
        (t.hubq = [] → k.waiters = [] → k.entries = [] →
          let me : Popper := { task := tid, code := d.code, stall := w.val }
          exec (.wqpop w d a) s = waits ({ s1 with queues := Assoc.put s1.queues n { k with waiters := [me] } } : State) tid q
            .wqpop true))) ∧
    (∀ y, t.popped = some y →
      exec (.wqpop w d a) s = ends ((s0.modTask tid fun t => { t with popped := none }).result tid q 1 d y.2.2) tid q t w) ∧
    ((256 ≤ n ∨ ∀ k, Assoc.find s.queues n = some k → k.ctx ≠ t.ctx) →
      exec (.wqpush w d a b) s = bad ∧ exec (.wqlen w d a) s = bad ∧
      ((t.sq q).wait = none → t.popped = none → exec (.wqpop w d a) s = bad))) ∧
  (∀ (s : State) (tid : Nat) (t : Task) (h : HubOp) (rest : List HubOp),
    Assoc.find s.tasks tid = some t → s.moves t = true → t.kq.returned = none → t.hubq = h :: rest →
    t.clear h.after = true →
    let gives := fun (s1 : State) (v : Word) => exec (.interlockedResult tid .k) s = .next (s1.modTask tid fun t =>
      { t.modSq .k (·.arrived h.uid v) with hubq := t.hubq.drop 1 })
    (∀ lr, h.req = .stat lr →
      let r := s.lrec lr
      gives s (if r.ctx = some t.ctx then BitVec.ofNat 64 (r.state.code + r.err * 8 + r.epoch.toNat * 2 ^ 32) else 15)) ∧
    (∀ n v k, h.req = .push n v → Assoc.find s.queues n = some k →
      (k.ctx = t.ctx → k.entries.length < 2 ^ k.k →
        gives { s with queues := Assoc.put s.queues n { k with entries := k.entries ++ [v] } } 0) ∧
      (k.ctx = t.ctx → 2 ^ k.k ≤ k.entries.length → gives s 1) ∧
      (k.ctx ≠ t.ctx → gives s 2)) ∧
    (∀ n k, h.req = .len n → Assoc.find s.queues n = some k →
      (k.ctx = t.ctx → gives s (BitVec.ofNat 64 k.entries.length)) ∧ (k.ctx ≠ t.ctx → gives s 0))) ∧
  (∀ (s : State) (tid : Nat) (q : Seq) (t : Task) (w : Stall) (d a b : SReg) (x : Fin 6),
    Ready s tid q t [.s d.code, .s a.code, .s b.code] →
    let pa := ((t.sq q).rd a).toNat / 8 % 64
    let pb := ((t.sq q).rd b).toNat / 8 % 64
    let da := s.physDie t.ctx (((t.sq q).rd a).toNat % 8)
    let db := s.physDie t.ctx (((t.sq q).rd b).toNat % 8)
    let r := s.lrec t.lr
    let low := ((List.range x.val).map fun k => r.width k).sum
    let gives := fun v : Word => ends ((seen s tid t).result tid q 1 d v) tid q t w
    let hops := fun v : Word => exec (.hops w d a b) s = ends ((seen s tid t).interlock tid q d v) tid q t w
    exec (.vdid w d) s = gives (BitVec.ofNat 64 (8 * s.pkgIndex + t.vdie)) ∧
    exec (.widf w d x) s = gives (BitVec.ofNat 64 (t.wid.toNat / 2 ^ low % 2 ^ r.width x.val)) ∧
    ((s.core t.die t.core).mode = 0 → exec (.tile w d) s = gives t.shape) ∧
    ((s.core t.die t.core).mode ≠ 0 → exec (.tile w d) s = gives (7 * 2 ^ 21)) ∧
    (s.domain ≤ pa ∨ s.domain ≤ pb → hops (BitVec.allOnes 64)) ∧
    (pa = s.pkgIndex → pb = s.pkgIndex → s.pkgIndex < s.domain →
      (∀ e, da = some e → db = some e → hops 0) ∧
      (∀ e f, da = some e → db = some f → e ≠ f → hops 1) ∧
      (da = none ∨ db = none → hops (BitVec.allOnes 64))))

/-! ### Generators, caches and records -/

/-- R260, R261: `agbase`, `aglev` and `agpat` write their fields of the shadow set of their generator, and nothing of the set
it walks.
R262, R263: `aggo` queues the shadow set on an idle generator, to walk from its first operand; `agwait` completes on an idle
generator and waits on a busy one; `agstop` empties a generator between operands, and waits for the operand begun, and for what
is left to write of a store when that is held on a reservation (R221; the model's choice, log entry 94); `agstat`
gives activity, queue and the operand count; a halted generator's fault is raised by `agwait` and `agstat`. -/
def Obligations.GeneratorInstructions : Prop :=
  (∀ (s : State) (tid : Nat) (q : Seq) (t : Task) (w : Stall) (d a : SReg) (l : Fin 6) (k : Fin 5) (g : Fin 8),
    Ready s tid q t [.s d.code, .s a.code] →
    let x := (t.sq q).rd a
    let y := (t.sq q).rd d
    let p := (t.gen g.val).shadow
    let keeps := fun p' : AgParams =>
      ends ((seen s tid t).modTask tid fun _ => t.setGen g.val { t.gen g.val with shadow := p' }) tid q t w
    exec (.agbase w a g) s = keeps { p with base := x } ∧
    exec (.aglev w d a l g) s = keeps { p with bound := Assoc.set 1 p.bound l.val (x.toNat % 2 ^ 32),
                                               stride := Assoc.set 0 p.stride l.val (y.setWidth 40).toInt } ∧
    (k = 0 → exec (.agpat w a k g) s = keeps { p with chunk := x.toNat % 16, unp := x.getLsbD 4,
                                                      per := x.toNat / 2 ^ 5 % 2 ^ 7, nf := x.toNat / 2 ^ 12 % 8 }) ∧
    (k ≠ 0 →
      let f := fun lo : Nat => ({ off := x.toNat / 2 ^ lo % 2 ^ 7, wid := x.toNat / 2 ^ (lo + 7) % 2 ^ 5,
                                  sgn := x.getLsbD (lo + 12) } : AgField)
      let zero : AgField := { off := 0, wid := 0, sgn := false }
      exec (.agpat w a k g) s =
        keeps { p with fields := Assoc.set zero (Assoc.set zero p.fields (2 * (k.val - 1)) (f 0)) (2 * k.val - 1) (f 16) })) ∧
  (∀ (s : State) (tid : Nat) (q : Seq) (t : Task) (w : Stall) (d : SReg) (g : Fin 8),
    Ready s tid q t [.s d.code] → Assoc.wf Gen.start t.gens = true →
    let x := t.gen g.val
    let s0 := seen s tid t
    (x.active = none → x.queued = none → x.halt = none → x.shadow.refused = false → x.shadow.operands ≠ 0 →
      ∃ s' t', exec (.aggo w g) s = .next s' ∧ Assoc.find s'.tasks tid = some t' ∧
        (∃ a, (t'.gen g.val).active = some a ∧ a.par = { x.shadow with masked := false } ∧ a.uid = s.uid) ∧
        (t'.gen g.val).pos = 0 ∧ (t'.gen g.val).queued = none ∧ (t'.gen g.val).shadow = x.shadow ∧
        (t'.sq q).pc = following t q) ∧
    (x.shadow.refused = true → exec (.aggo w g) s = traps s0 tid q
      { cls := 2, cspace := 2, cause := 4, addr := 0, info := 0, words := true, async := false }) ∧
    (x.halt = none → x.active = none → x.queued = none → exec (.agwait w g) s = ends s0 tid q t w) ∧
    (x.halt = none → (x.active ≠ none ∨ x.queued ≠ none) → exec (.agwait w g) s = waits s0 tid q .ag true) ∧
    (x.active = none ∨ x.busy = false ∧ g.val < 4 ∧ x.held = false ∨
      x.busy = false ∧ 4 ≤ g.val ∧ (∀ a, x.active = some a → t.partsHeld (s0.tailParts t x a.par) = false) →
      ∃ s' t', exec (.agstop w g) s = .next s' ∧ Assoc.find s'.tasks tid = some t' ∧
      (t'.gen g.val).active = none ∧ (t'.gen g.val).queued = none ∧ (t'.gen g.val).halt = none ∧
      (t'.gen g.val).ops = x.ops ∧ (t'.sq q).pc = following t q) ∧
    (x.active ≠ none → x.busy = true ∨
      4 ≤ g.val ∧ x.halt = none ∧ (∃ a, x.active = some a ∧ t.partsHeld (s0.tailParts t x a.par) = true) →
      ∃ s1, exec (.agstop w g) s = waits s1 tid q .ag true) ∧
    (x.halt = none → exec (.agstat w d g) s =
      ends (s0.result tid q 1 d (BitVec.ofNat 64 ((if x.active = none then 0 else 2 ^ 62) +
        (if x.queued = none then 0 else 2 ^ 61) + x.ops.toNat))) tid q t w) ∧
    (∀ h, x.halt = some h → h.cause ∈ [1, 2, 3] →
      ∃ s1 e, exec (.agwait w g) s = traps s1 tid q e ∧ exec (.agstat w d g) s = traps s1 tid q e ∧
        e.cls = (if h.cause = 1 then 5 else if h.cause = 2 then 6 else 10) ∧ e.cspace = 2 ∧ e.cause = h.cause ∧
        e.addr = h.addr.toNat ∧ e.info = g.val))

/-- The sequencers of a task stand as those of `t`: no register has been written and none is pending beside. -/
def seqsStand (s : State) (tid : Nat) (t : Task) : Prop :=
  ∃ x, Assoc.find s.tasks tid = some x ∧ x.kq = t.kq ∧ x.lq = t.lq ∧ x.wq = t.wq ∧ x.cq = t.cq

/-- R265, R266: `ldq`, `ldqb`, `stq` and `stqm` queue an implicit set at xa + imm × 4,096 bytes (× 256 for `ldqb`) on the
generator of their port when it is idle; an address past bit 59 or off 64 bytes traps at once.
R267, R295: the CACHE instructions complete over a range of at most 2 MiB below address 2^60 whose pages translate, `pref`
whether they translate or not; none writes a register; a longer or higher range is an address trap; `czero` over the scratchpad
makes its bytes 0, and a range off 64 bytes is its alignment trap. All but `pref` wait at issue behind a fence that holds a page
walk they need. -/
def Obligations.PortAndCacheInstructions : Prop :=
  (∀ (s : State) (tid : Nat) (q : Seq) (t : Task) (w : Stall) (p : Fin 4) (a : SReg) (m : BitVec 8),
    Ready s tid q t [.s a.code] →
    let at4096 := (t.sq q).rd a + BitVec.ofInt 64 (m.toInt * 4096)
    let at256 := (t.sq q).rd a + BitVec.ofInt 64 (m.toInt * 256)
    let s0 := seen s tid t
    let idle := fun g : Nat => (t.gen g).active = none ∧ (t.gen g).queued = none ∧ (t.gen g).halt = none
    let walks := fun (i : Instr) (g : Nat) (par : AgParams) =>
      ∃ s' t' set, exec i s = .next s' ∧ Assoc.find s'.tasks tid = some t' ∧ (t'.gen g).active = some set ∧
        set.par = par ∧ (t'.gen g).pos = 0 ∧ (t'.gen g).shadow = (t.gen g).shadow ∧ (t'.sq q).pc = following t q
    let bad := fun (cls : Nat) (va : Word) => traps s0 tid q
      { cls := cls, cspace := 0, cause := 0, addr := va.toNat, info := 0, words := true, async := false }
    (at4096.toNat < 2 ^ 60 → at4096.toNat % 64 = 0 →
      (idle p.val → walks (.ldq w p a m) p.val { AgParams.start with base := at4096 }) ∧
      (idle (4 + p.val) → walks (.stq w p a m) (4 + p.val) { AgParams.start with base := at4096 }) ∧
      (idle (4 + p.val) → walks (.stqm w p a m) (4 + p.val) { AgParams.start with base := at4096, masked := true })) ∧
    (at256.toNat < 2 ^ 60 → at256.toNat % 64 = 0 → idle p.val →
      walks (.ldqb w p a m) p.val { AgParams.start with base := at256, chunk := 8, bound := [(0, 16)] }) ∧
    (2 ^ 60 ≤ at4096.toNat →
      exec (.ldq w p a m) s = bad 6 at4096 ∧ exec (.stq w p a m) s = bad 6 at4096 ∧ exec (.stqm w p a m) s = bad 6 at4096) ∧
    (at4096.toNat < 2 ^ 60 → at4096.toNat % 64 ≠ 0 →
      exec (.ldq w p a m) s = bad 5 at4096 ∧ exec (.stq w p a m) s = bad 5 at4096 ∧ exec (.stqm w p a m) s = bad 5 at4096)) ∧
  (∀ (s : State) (tid : Nat) (q : Seq) (t : Task) (w : Stall) (a b : SReg), Ready s tid q t [.s a.code, .s b.code] →
    let x := ((t.sq q).rd a).toNat
    let n := ((t.sq q).rd b).toNat
    let s0 := seen s tid t
    let bad := fun cls : Nat => traps s0 tid q
      { cls := cls, cspace := 0, cause := 0, addr := x, info := 0, words := true, async := false }
    (2 ^ 60 ≤ x ∨ 2 ^ 21 < n →
      exec (.pref w a b) s = bad 6 ∧ exec (.cwb w a b) s = bad 6 ∧ exec (.cinv w a b) s = bad 6 ∧
      exec (.cwbi w a b) s = bad 6 ∧ exec (.czero w a b) s = bad 6) ∧
    (x < 2 ^ 60 → n ≤ 2 ^ 21 → ∃ s1, exec (.pref w a b) s = ends s1 tid q t w ∧ seqsStand s1 tid t) ∧
    (x < 2 ^ 60 → n ≤ 2 ^ 21 → s0.walkHeld t q x n = true →
      exec (.cwb w a b) s = waits s0 tid q .fence false ∧ exec (.cinv w a b) s = waits s0 tid q .fence false ∧
      exec (.cwbi w a b) s = waits s0 tid q .fence false ∧
      (x % 64 = 0 → n % 64 = 0 → exec (.czero w a b) s = waits s0 tid q .fence false)) ∧
    (x < 2 ^ 60 → n ≤ 2 ^ 21 → s0.walkHeld t q x n = false → s0.checkVa t x n .nothing = .ok () →
      (∃ s1, exec (.cwb w a b) s = ends s1 tid q t w ∧ seqsStand s1 tid t) ∧
      (∃ s1, exec (.cinv w a b) s = ends s1 tid q t w ∧ seqsStand s1 tid t) ∧
      (∃ s1, exec (.cwbi w a b) s = ends s1 tid q t w ∧ seqsStand s1 tid t)) ∧
    (x < 2 ^ 60 → n ≤ 2 ^ 21 → (x % 64 ≠ 0 ∨ n % 64 ≠ 0) → exec (.czero w a b) s = bad 5) ∧
    (∀ o, x = 0xFF0 * 2 ^ 48 + o → o + 64 ≤ 32768 * t.tt.spd → t.tt.spd ≤ 32 → o % 64 = 0 → n = 64 →
      (t.sq q).barriers = [] → NothingHeld t → MemoriesOk s t → t.spadReserved o (o + 64) = false →
      ∃ s' t', exec (.czero w a b) s = .next s' ∧ Assoc.find s'.tasks tid = some t' ∧ (t'.sq q).pc = following t q ∧
        (∀ k, Assoc.get 0 t'.spad k = if o ≤ k ∧ k < o + 64 then 0 else Assoc.get 0 t.spad k) ∧ s'.mem = s.mem))

/-! ### Order -/

/-- R295, R317: `fence` completes at once. With all four sets and actions empty it does nothing; else a fence of the sequencer
is pending that waits for what is outstanding in P and holds what Q names.
R293, R318: `mark` completes at once and is the next of its pair. The first of a pair to mark waits for the partner; when
the second marks, each comes to wait for what stands before the other. -/
def Obligations.FencesAndMarks : Prop :=
  (∀ (s : State) (tid : Nat) (q : Seq) (t : Task) (w : Stall) (p : BitVec 4) (h : BitVec 5) (v b : Bool) (c : Fin 6),
    Ready s tid q t [] →
    (p = 0 → h = 0 → v = false → b = false → exec (.fence w p h v b c) s = ends (seen s tid t) tid q t w) ∧
    (¬(p = 0 ∧ h = 0 ∧ v = false ∧ b = false) →
      ∃ s' t' f, exec (.fence w p h v b c) s = .next s' ∧ Assoc.find s'.tasks tid = some t' ∧
        (t'.sq q).barriers = (t.sq q).barriers ++ [f] ∧ f.preds = t.outstandingOf q (p.setWidth 5) ∧ f.holds = h ∧
        f.inv = v ∧ f.wb = b ∧ f.scope = c.val ∧ f.partner = none ∧ (t'.sq q).pc = following t q ∧
        s'.mem = s.mem ∧
        ((t.sq q).late = [] → (∀ i ∈ (t.sq q).ilk, i.land = none) → (t'.sq q).regs = (t.sq q).regs))) ∧
  (∀ (s : State) (tid : Nat) (me q : Seq) (t : Task) (w : Stall), me ≠ q → Ready s tid me t [] →
    let k := Assoc.get 0 (t.sq me).marks q.code + 1
    let own := t.outstandingOf me 15
    ∃ s' t' f, exec (.mark w q) s = .next s' ∧ Assoc.find s'.tasks tid = some t' ∧
      Assoc.get 0 (t'.sq me).marks q.code = k ∧ (t'.sq me).barriers = (t.sq me).barriers ++ [f] ∧
      f.partner = some q.code ∧ f.k = k ∧ f.holds = 7 ∧ (t'.sq me).pc = following t me ∧
      (t.markOf q me k = none → f.preds = own ∧ t'.sq q = t.sq q) ∧
      (∀ g, t.markOf q me k = some g → f.preds = g.preds ∧
        ∀ b ∈ (t'.sq q).barriers, b.id = g.id → b.preds = own))

/-! ### Engine operations and measurement -/

/-- R270, R273, R279, R297, R337, R348, R350: a fork of the copy engine, the histogram unit or the tensor-move unit from an
aligned block of the scratchpad, with fewer than its limit unretired, adds one unstarted operation that carries the next number and
the block's place, and writes the number to xd. With nothing outstanding that it follows, and no fence that holds page walks, it
carries the block's masks too; when it does not, it is pending, with a barrier of its sequencer, until it has taken its copies. A block out of the scratchpad is an address trap,
then one off 128 bytes an alignment trap.
R273, R298, R349, R351, R371, R412: a join of a number not yet forked is an illegal instruction; one waits while a covered
operation is outstanding and completes when none is and no covered fault is unreported; 0 and the number exactly 2^31 from the
counter count as retired and joined; `cepoll` gives whether the operation has retired, and `trigdis` 0 for a walk that is not
armed. -/
def Obligations.EngineForksAndJoins : Prop :=
  (∀ (s : State) (tid : Nat) (q : Seq) (t : Task) (w : Stall) (d a b : SReg),
    Ready s tid q t [.s d.code, .s a.code, .s b.code] → RegsOk (t.sq q) → (t.sq q).late = [] → d.code ≠ 0 →
    let off := ((t.sq q).rd a).toNat
    let arm := ((t.sq q).rd b).toNat
    let mask := fun o : EngOp => o.waitMask.toNat = leNat (readBytes t.spad off 8) ∧
      o.signal.toNat = leNat (readBytes t.spad (off + 8) 8)
    let forks := fun (i : Instr) (e : Engine) (n : BitVec 32) =>
      ∃ s' t' o, exec i s = .next s' ∧ Assoc.find s'.tasks tid = some t' ∧ t'.eng = t.eng ++ [o] ∧ o.engine = e ∧
        o.num = n ∧ o.seq = q.code ∧ o.block = some off ∧ o.started = false ∧
        (t.clear (t.forkAfter q) = true → t.clear (t.sq q).xlFences = true → mask o) ∧
        (t.clear (t.forkAfter q) = false → o.job = .pending off) ∧
        (mask o ∨ o.job = .pending off ∧ ∃ b ∈ (t'.sq q).barriers, b.fork = some o.uid ∧ b.holds = 7) ∧
        (t'.sq q).regAt d.code = n.setWidth 64 ∧ (t'.sq q).pc = following t q
    let bad := fun cls : Nat => traps (seen s tid t) tid q
      { cls := cls, cspace := 0, cause := 0, addr := 0, info := 0, words := true, async := false }
    (off < 2 ^ 20 → off + 128 ≤ 32768 * t.tt.spd → off % 128 = 0 →
      (t.forkBlocked q = false →
        forks (.cego w d a) .copy ((t.sq q).forks + 1) ∧ forks (.hist w d a) .hist ((t.sq q).forks + 1)) ∧
      (t.forkBlocked q = true → exec (.cego w d a) s = waits (seen s tid t) tid q .cewait false ∧
        exec (.hist w d a) s = waits (seen s tid t) tid q .cewait false) ∧
      (t.walkBlocked = false → forks (.cwalk w d a) .tmu (t.walkCtr + 1) ∧
        (arm % 64 ≤ 47 → forks (.trigarm w d a b) .tmu (t.walkCtr + 1)) ∧
        (47 < arm % 64 → exec (.trigarm w d a b) s = bad 2))) ∧
    (2 ^ 20 ≤ off ∨ 32768 * t.tt.spd < off + 128 →
      exec (.cego w d a) s = bad 6 ∧ exec (.hist w d a) s = bad 6 ∧ exec (.cwalk w d a) s = bad 6 ∧
      exec (.trigarm w d a b) s = bad 6) ∧
    (off < 2 ^ 20 → off + 128 ≤ 32768 * t.tt.spd → off % 128 ≠ 0 →
      exec (.cego w d a) s = bad 5 ∧ exec (.hist w d a) s = bad 5 ∧ exec (.cwalk w d a) s = bad 5 ∧
      exec (.trigarm w d a b) s = bad 5)) ∧
  (∀ (s : State) (tid : Nat) (q : Seq) (t : Task) (w : Stall) (d a : SReg),
    Ready s tid q t [.s d.code, .s a.code] →
    let n : BitVec 32 := ((t.sq q).rd a).setWidth 32
    let s0 := seen s tid t
    let bad := traps s0 tid q { cls := 2, cspace := 0, cause := 0, addr := 0, info := 0, words := true, async := false }
    let late := fun c : BitVec 32 => n ≠ 0 ∧ n - c ≠ 2 ^ 31 ∧ precedes c n = true
    let mine := fun o : EngOp =>
      o.seq = q.code ∧ (o.engine = .copy ∨ o.engine = .hist) ∧ covered (t.sq q).forks o.num n = true
    let walk := fun o : EngOp => o.engine = .tmu ∧ covered t.walkCtr o.num n = true
    let past := fun c : BitVec 32 => n = 0 ∨ n - c = 2 ^ 31
    (late (t.sq q).forks → exec (.cewait w a) s = bad ∧ exec (.cepoll w d a) s = bad) ∧
    (¬ late (t.sq q).forks →
      ((∃ o ∈ t.eng, mine o) → exec (.cewait w a) s = waits s0 tid q .cewait true) ∧
      ((∀ o ∈ t.eng, ¬ mine o) → t.faults = [] → exec (.cewait w a) s = ends s0 tid q t w) ∧
      (past (t.sq q).forks → t.faults = [] → exec (.cewait w a) s = ends s0 tid q t w ∧
        exec (.cepoll w d a) s = ends (s0.result tid q 1 d 1) tid q t w) ∧
      (¬ past (t.sq q).forks → exec (.cepoll w d a) s = ends (s0.result tid q 1 d (if t.eng.any (fun o =>
        o.seq == q.code && (o.engine == .copy || o.engine == .hist) && o.num == n) then 0 else 1)) tid q t w)) ∧
    (late t.walkCtr → exec (.cwait w a) s = bad ∧ exec (.trigdis w d a) s = bad) ∧
    (¬ late t.walkCtr →
      ((∃ o ∈ t.eng, walk o) → exec (.cwait w a) s = waits s0 tid q .cewait true) ∧
      ((∀ o ∈ t.eng, ¬ walk o) → t.faults = [] → exec (.cwait w a) s = ends s0 tid q t w) ∧
      ((∀ o ∈ t.eng, o.engine = .tmu → o.num = n → o.armed = none) →
        exec (.trigdis w d a) s = ends (s0.interlock tid q d 0) tid q t w) ∧
      (past t.walkCtr → exec (.trigdis w d a) s = ends (s0.interlock tid q d 0) tid q t w) ∧
      (∀ o ∈ t.eng, ¬ past t.walkCtr →
        t.eng.find? (fun o => o.engine == .tmu && (o.num == n && o.armed.isSome)) = some o →
        ∃ s' t', exec (.trigdis w d a) s = .next s' ∧ Assoc.find s'.tasks tid = some t' ∧
          t'.eng = t.eng.filter (fun x => x.uid != o.uid) ∧ t'.evt = t.evt ∧ t'.spad = t.spad)))

/-- R276 to R278, R343, R352: `rcfence` empties the record cache; `tsrld` gives a word of a record the cache holds, 4 cycles on;
both wait at issue while a fork of their sequencer has not taken its copies (the model's reading, log entry 76), and `tsrld` behind
a mark whose pair is not complete (R293) and a fence that holds the page walk it needs (R295); `mdld` forks a copy of its bytes; `rcvcnt` gives COUNT with RDY and, when asked,
clears it and sets EXPECT. -/
def Obligations.RecordsAndCounters : Prop :=
  ∀ (s : State) (tid : Nat) (q : Seq) (t : Task) (w : Stall) (d a b : SReg) (x : Fin 8),
    Ready s tid q t [.s d.code, .s a.code, .s b.code] →
    let va := (t.sq q).rd a
    let y := (t.sq q).rd b
    let n := va.toNat % 64
    let c := Assoc.get (0, 0) t.rcv n
    let s0 := seen s tid t
    ((t.sq q).forking = false → exec (.rcfence w) s =
      ends ((t.recs.foldl (fun s e => s.clearPoison (.rcache tid e.1.toNat)) s0).modTask tid fun t => { t with recs := [] })
        tid q t w) ∧
    ((t.sq q).forking = true → exec (.rcfence w) s = waits s0 tid q .fence false) ∧
    (va.toNat < 2 ^ 60 → va.toNat % 64 = 0 →
      ((t.sq q).forking = true ∨ (t.sq q).marking = true ∨ s0.walkHeld t q va.toNat 64 = true →
        exec (.tsrld w d a x) s = waits s0 tid q .fence false) ∧
      ((t.sq q).forking = false → (t.sq q).marking = false → s0.walkHeld t q va.toNat 64 = false →
        ∀ e, t.recs.find? (fun e => e.1 == va) = some e → s.poisonAt (.rcache tid va.toNat) = none →
          exec (.tsrld w d a x) s = ends ((s0.modTask tid fun t =>
            { t with recs := e :: t.recs.filter fun x => x.1 != va }).interlockAt tid q d 4 (e.2.getD x.val 0)) tid q t w)) ∧
    (let o := y.toNat % 2 ^ 15
     let len := y.toNat / 2 ^ 32 % 2 ^ 16
     va.toNat % 64 = 0 → o % 64 = 0 → len % 64 = 0 → 64 ≤ len → len ≤ 32768 → va.toNat < 2 ^ 60 →
     o + len ≤ 4096 * t.tt.mdd → t.forkBlocked q = false →
      ∃ s' t' op, exec (.mdld w d a b) s = .next s' ∧ Assoc.find s'.tasks tid = some t' ∧ t'.eng = t.eng ++ [op] ∧
        op.engine = .copy ∧ op.num = (t.sq q).forks + 1 ∧ op.job = .mdld va o len ∧ op.block = none) ∧
    (47 < n ∨ va.toNat / 2 ^ 7 ≠ 0 → exec (.rcvcnt w d a b) s = traps s0 tid q
      { cls := 2, cspace := 0, cause := 0, addr := 0, info := 0, words := true, async := false }) ∧
    (n ≤ 47 → va.toNat / 2 ^ 7 = 0 →
      let v : Word := BitVec.ofNat 64 ((if c.2 ≠ 0 ∧ c.2.toNat ≤ c.1.toNat then 2 ^ 63 else 0) + c.1.toNat)
      exec (.rcvcnt w d a b) s = ends ((if va.getLsbD 6 then
        s0.modTask tid fun t => { t with rcv := Assoc.set (0, 0) t.rcv n (0, y.setWidth 32) } else s0).interlock tid q d v)
        tid q t w)

/-- R64, R66, R67, R68, R280 to R283: `histrd` gives a bin and clears it when asked; `gvget` gives what the launch captured of a
PSR; `gvrep` keeps the least N and the greatest QN and QC of its die; `gvstep` short of the target counts an arrival and gives
the epoch, and the arrival that reaches it closes the step, whose evidence of the class no later report joins, makes the evaluation
due and waits. A role that names no PSR is an illegal
instruction. -/
def Obligations.WeighmasterInstructions : Prop :=
  ∀ (s : State) (tid : Nat) (q : Seq) (t : Task) (w : Stall) (d a b : SReg) (k : Fin 32) (z : Bool),
    Ready s tid q t [.s d.code, .s a.code, .s b.code] →
    let x := ((t.sq q).rd a).toNat
    let y := ((t.sq q).rd b).toNat
    let role := x / 2 ^ 16 % 8
    let key := psrKey (x % 2 ^ 16) role
    let s0 := seen s tid t
    let bad := traps s0 tid q { cls := 2, cspace := 0, cause := 0, addr := 0, info := 0, words := true, async := false }
    let n : BitVec 32 := BitVec.ofNat 32 y
    let qn : BitVec 32 := BitVec.ofNat 32 (y / 2 ^ 32)
    let qc : BitVec 32 := ((t.sq q).rd d).setWidth 32
    let el := (s.lrec t.lr).epoch
    let c := (s.lrec t.lr).gclass
    let g := s.govClass c
    let mine := s.evidence.filter (fun e => (s.psr (e.1 % 2 ^ 20)).cls == c)
    exec (.histrd w d k z) s = ends ((if z then s0.modTask tid fun t => { t with hist := Assoc.set 0 t.hist k.val 0 } else s0).result
      tid q 1 d ((Assoc.get 0 t.hist k.val).setWidth 64)) tid q t w ∧
    (role = 0 ∨ 6 ≤ role → exec (.gvget w d a) s = bad ∧ exec (.gvrep w d a b) s = bad) ∧
    (1 ≤ role → role ≤ 5 →
      (∀ h, (s.psr key).history.find? (fun h => !precedes el h.epoch) = some h → exec (.gvget w d a) s =
        ends (s0.interlock tid q d (BitVec.ofNat 64 (h.gen.toNat * 2 ^ 32 + (s.psr key).rsclAt el * 2 ^ 24 +
          h.width * 2 ^ 22 + h.blk * 2 ^ 20 + h.fmt * 2 ^ 15))) tid q t w) ∧
      ∃ s1 e1, exec (.gvrep w d a b) s = ends s1 tid q t w ∧ Assoc.find s1.evidence (evKey t.die key) = some e1 ∧
        (∀ e, Assoc.find s.evidence (evKey t.die key) = some e →
          e1.n.toNat = min e.n.toNat n.toNat ∧ e1.qn.toNat = max e.qn.toNat qn.toNat ∧
          e1.qc.toNat = max e.qc.toNat qc.toNat ∧ e1.reports = e.reports + 1) ∧
        (Assoc.find s.evidence (evKey t.die key) = none → e1 = { n := n, qn := qn, qc := qc, reports := 1 })) ∧
    (t.gvDone = none → g.arrivals + 1 < g.target →
      ∃ s1, exec (.gvstep w d) s = ends ((s1 : State).result tid q 1 d (BitVec.ofNat 64 s.epoch.toNat)) tid q t w ∧
        s1.govClass c = { g with arrivals := g.arrivals + 1 }) ∧
    (t.gvDone = none → g.target ≤ g.arrivals + 1 →
      ∃ s1, exec (.gvstep w d) s = waits s1 tid q .gvstep true ∧
        (s1 : State).govClass c = { g with arrivals := 0, due := g.due ++ [{ task := some tid, evidence := mine }] } ∧
        s1.evidence = s.evidence.filter (fun e => !((s.psr (e.1 % 2 ^ 20)).cls == c))) ∧
    (t.gvDone = some 1 → ∃ s1, exec (.gvstep w d) s =
      ends ((s1 : State).result tid q 1 d (BitVec.ofNat 64 (2 ^ 63 + s.epoch.toNat))) tid q t w)

/-! ### Phasers, superstep barriers, the monitor -/

/-- R319, R320, R322: a task joins a phaser of its context at the present phase, gaining a seat that signals unless its mode is
1; a signal of the phase is counted, and the last one ends the phase, whose drops leave it; a wait completes once the phase
it waits for has ended, and gives it, a PHASE exactly 2^31 on counting as one that follows (R412); `phqry` shows SIGD, NSIG and
PHASE. Handles and memberships that R320 forbids trap; the handle of a phaser of a die that the task has left is that of a
non-member (R321).
R323, R324: `ssarr` of a gang task at a barrier of its context records the arrival and gives the step; `sswait` gives the
step it arrived for once that has ended and waits until then; `ssqry` shows the barrier. -/
def Obligations.PhasersAndBarriers : Prop :=
  (∀ (s : State) (tid : Nat) (t : Task) (w : Stall) (d a : SReg) (m : Fin 4), Ready s tid .k t [.s d.code, .s a.code] →
    let h := (t.kq.rd a).toNat
    let key := if h / 2 ^ 10 = 1 then 8192 + h % 2 ^ 10 else 1024 * t.die + h
    let named := h < 2 ^ 11 ∧ (h / 2 ^ 10 = 1 → h % 2 ^ 10 < 256) ∧ (s.phaser key).ctx = some t.ctx
    let p := s.phaser key
    let s0 := seen s tid t
    let bad := fun cause : Nat => traps s0 tid .k { cls := if cause = 1 then 6 else 2, cspace := 3, cause := cause,
                                                    addr := 0, info := 0, words := true, async := false }
    (¬ named → exec (.phjoin w d a m) s = bad 1 ∧ exec (.phqry w d a) s = bad 1 ∧
      (let c := if h ∈ t.left then 2 else 1
       exec (.phdrop w a) s = bad c ∧ exec (.phsig w a) s = bad c ∧ exec (.phwait w d a) s = bad c ∧
       exec (.phsw w d a) s = bad c)) ∧
    (named →
      exec (.phqry w d a) s = ends (s0.interlock tid .k d
        (BitVec.ofNat 64 (p.sigd % 2 ^ 16 * 2 ^ 48 + p.nsig % 2 ^ 16 * 2 ^ 32 + p.phase.toNat))) tid .k t w ∧
      (t.member key = none →
        exec (.phdrop w a) s = bad 2 ∧ exec (.phsig w a) s = bad 2 ∧ exec (.phwait w d a) s = bad 2 ∧
        exec (.phsw w d a) s = bad 2 ∧
        (m.val ≠ 3 → t.members.length < 8 → ∃ s' t', exec (.phjoin w d a m) s = .next s' ∧
          Assoc.find s'.tasks tid = some t' ∧
          t'.members = t.members ++ [{ key := key, mode := m.val, sph := p.phase, wph := p.phase, sent := false }] ∧
          s'.phaser key = (if m.val = 1 then p else { p with nsig := p.nsig + 1 }))) ∧
      (∀ e, t.members = [e] → e.key = key → e.sent = false → NothingHeld t →
        (e.mode = 1 → exec (.phsig w a) s = bad 3) ∧ (e.mode = 0 → exec (.phwait w d a) s = bad 3) ∧
        (e.mode ≠ 1 → e.sph = p.phase → p.sigd + 1 < p.nsig →
          ∃ s' t', exec (.phsig w a) s = .next s' ∧ Assoc.find s'.tasks tid = some t' ∧
            t'.members = [{ e with sph := e.sph + 1 }] ∧ s'.phaser key = { p with sigd := p.sigd + 1 }) ∧
        (e.mode ≠ 1 → e.sph = p.phase → p.sigd + 1 = p.nsig → p.waiting = [] → p.drops < p.nsig →
          ∃ s' t', exec (.phsig w a) s = .next s' ∧ Assoc.find s'.tasks tid = some t' ∧
            t'.members = [{ e with sph := e.sph + 1 }] ∧
            s'.phaser key = { p with phase := p.phase + 1, nsig := p.nsig - p.drops, drops := 0, sigd := 0 }) ∧
        (e.mode ≠ 0 → (precedes e.wph p.phase = true ∨ p.phase - e.wph = 2 ^ 31) → ∃ s' t', exec (.phwait w d a) s = .next s' ∧
          Assoc.find s'.tasks tid = some t' ∧ t'.members = [{ e with wph := e.wph + 1 }] ∧ s'.phaser key = p ∧
          (t'.kq.pc = t.kq.pc + 4)) ∧
        (e.mode ≠ 0 → precedes e.wph p.phase = false → p.phase - e.wph ≠ 2 ^ 31 →
          exec (.phwait w d a) s = waits s0 tid .k .phaser true) ∧
        (e.mode = 2 → e.sph = p.phase → e.wph = p.phase → p.sigd + 1 = p.nsig → p.waiting = [] → p.drops < p.nsig →
          ∃ s' t', exec (.phsw w d a) s = .next s' ∧ Assoc.find s'.tasks tid = some t' ∧
            t'.members = [{ e with sph := e.sph + 1, wph := e.wph + 1 }] ∧ (s'.phaser key).phase = p.phase + 1) ∧
        (e.mode ≠ 1 → p.sigd < p.nsig → p.sigd + 1 < p.nsig → p.waiting = [] → ∃ s' t', exec (.phdrop w a) s = .next s' ∧
          Assoc.find s'.tasks tid = some t' ∧ t'.members = [] ∧
          s'.phaser key = { p with sigd := if e.sph = p.phase then p.sigd + 1 else p.sigd, drops := p.drops + 1 })))) ∧
  (∀ (s : State) (tid : Nat) (t : Task) (w : Stall) (d a : SReg), Ready s tid .k t [.s d.code, .s a.code] →
    let k := (t.kq.rd a).toNat
    let b := s.barrier k
    let named := k < 16 ∧ b.ctx = some t.ctx
    let s0 := seen s tid t
    let bad := fun cause : Nat => traps s0 tid .k { cls := if cause = 1 then 6 else 2, cspace := 3, cause := cause,
                                                    addr := 0, info := 0, words := true, async := false }
    (¬ named → exec (.ssarr w d a) s = bad 1 ∧ exec (.sswait w d a) s = bad 1 ∧ exec (.ssqry w d a) s = bad 1) ∧
    (named →
      ((s.lrec t.lr).gang = false → exec (.ssarr w d a) s = bad 6) ∧
      ((s.lrec t.lr).gang = true → b.lr = some t.lr → tid ∉ b.arrived → NothingHeld t →
        b.arr + 1 < (s.lrec t.lr).total →
        ∃ s' t', exec (.ssarr w d a) s = .next s' ∧ Assoc.find s'.tasks tid = some t' ∧
          s'.barrier k = { b with arrived := b.arrived ++ [tid] } ∧ Assoc.find t'.ssArrived k = some b.step) ∧
      (Assoc.find t.ssArrived k = none → exec (.sswait w d a) s = bad 2) ∧
      (∀ st, Assoc.find t.ssArrived k = some st →
        ((b.lr ≠ some t.lr ∨ precedes st b.step = true) →
          exec (.sswait w d a) s = ends (s0.interlock tid .k d (st.setWidth 64)) tid .k t w) ∧
        (b.lr = some t.lr → precedes st b.step = false → exec (.sswait w d a) s = waits s0 tid .k .superstep true)) ∧
      (b.lr = none → exec (.ssqry w d a) s =
        ends (s0.interlock tid .k d (BitVec.ofNat 64 (b.step.toNat % 2 ^ 24))) tid .k t w) ∧
      (∀ l, b.lr = some l → exec (.ssqry w d a) s = ends (s0.interlock tid .k d
        (BitVec.ofNat 64 (b.cur % 2 ^ 28 * 2 ^ 36 + b.arr % 2 ^ 11 * 2 ^ 25 + 2 ^ 24 + b.step.toNat % 2 ^ 24))) tid .k t w)))

/-! ### Accumulator atomics and the plane -/

/-- The sum of two accumulator words under TY: 0 i64, 1 fxa, 2 f32 (R326). -/
def sumUnder (ty : Nat) (m v : Word) : Word :=
  if ty = 2 then BitVec.ofNat 64 (convert .f32 ((valOf .f32 (m.toNat % 2 ^ 32)).add .rne (valOf .f32 (v.toNat % 2 ^ 32))) .rne false 0)
  else m + v

/-- An accumulator tile in which an atomic access has changed word `k` to `x`, and nothing else but, for an fxa sum that leaves the
64-bit range of a tile that has not overflowed, OVF and OSGN (R326). -/
def wordBecomes (a b : Tile) (k : Nat) (x : Word) (past neg : Bool) : Prop :=
  Assoc.get 0 b.m k = x ∧ (∀ j, j ≠ k → Assoc.get 0 b.m j = Assoc.get 0 a.m j) ∧
  b = { a with m := b.m, ovf := a.ovf || past, osgn := if past && !a.ovf then neg else a.osgn }

/-- R325, R326: an access to a word of the task's own tile that is granted to it, with no barrier pending and the tile neither
busy nor poisoned and no earlier peer access of the sequencer outstanding, is one indivisible step: add under TY, exchange or set of
the mantissa word, the earlier word as the interlocked result of the forms that read it, and no other word of the tile.
R325, R326: so is an access to a tile of a peer, a task of the same gang launch that moves. -/
def Obligations.AccumulatorAtomics : Prop :=
  ∀ (s : State) (tid : Nat) (q : Seq) (t : Task) (w : Stall) (d a b : SReg),
    Ready s tid q t [.s d.code, .s a.code, .s b.code] →
    let r := ((t.sq q).rd a).toNat
    let v := (t.sq q).rd b
    let ty := r / 2 ^ 50 % 2 ^ 2
    let n := r / 2 ^ 10 % 2 ^ 5
    let k := r % 2 ^ 10
    r / 2 ^ 52 = 0 → ty ≠ 3 → r / 2 ^ 15 % 2 ^ 2 = 0 → (t.sq q).peers = [] → (t.sq q).barriers = [] →
    (∀ i ∈ (t.sq q).ilk, i.land = none ∧ (i.val = none → i.uid ≠ s.uid)) →
    let all := fun (o : Nat) (x : Tile) (does : Instr → Word → Bool → Bool → Bool → Prop) =>
      let m := Assoc.get 0 x.m k
      let sum := m.toInt + v.toInt
      let past := decide (ty = 1) && (decide (sum < -2 ^ 63) || decide (2 ^ 63 ≤ sum))
      x.psn = false → s.accPoison o n k = none → Assoc.wf 0 x.m = true →
      does (.accadd w a b) (sumUnder ty m v) past (decide (sum < 0)) false ∧
      does (.accaddf w d a b) (sumUnder ty m v) past (decide (sum < 0)) true ∧
      does (.accswp w d a b) v false false true ∧ does (.accget w d a) m false false true ∧
      does (.accset w a b) v false false false
    let pends := fun (t' : Task) (m : Word) (u : Nat) (reads : Bool) => (t'.sq q).ilk = (if reads ∧ d.code ≠ 0 then
      (t.sq q).ilk ++ [{ code := d.code, val := some m, uid := u, handler := t.handler.isSome, land := none }] else (t.sq q).ilk)
    (r % 2 ^ 50 < 2 ^ 15 → n < t.tt.accd → t.tileBusy n = false → Assoc.wf Tile.start t.tiles = true →
      all tid (t.tile n) fun i x past neg reads => ∃ s' t', exec i s = .next s' ∧ Assoc.find s'.tasks tid = some t' ∧
        wordBecomes (t.tile n) (t'.tile n) k x past neg ∧ (∀ j, j ≠ n → t'.tile j = t.tile j) ∧
        (t'.sq q).pc = following t q ∧ pends t' (Assoc.get 0 (t.tile n).m k) 0 reads) ∧
    (∀ o p, r / 2 ^ 17 % 2 = 1 → (s.lrec t.lr).gang = true → TasksOk s →
      (seen s tid t).peerOf t (r / 2 ^ 18 % 2 ^ 32) = some (o, p) → o ≠ tid → s.moves p = true → n < p.tt.accd →
      p.tileBusy n = false → Assoc.wf Tile.start p.tiles = true →
      all o (p.tile n) fun i x past neg reads => ∃ s' t' p', exec i s = .next s' ∧
        Assoc.find s'.tasks tid = some t' ∧ Assoc.find s'.tasks o = some p' ∧ wordBecomes (p.tile n) (p'.tile n) k x past neg ∧
        (∀ j, j ≠ n → p'.tile j = p.tile j) ∧ t'.tiles = t.tiles ∧ (t'.sq q).pc = following t q ∧
        pends t' (Assoc.get 0 (p.tile n).m k) s.uid reads)

/-! ### Vector instructions -/

/-- A vector instruction can run: its registers are free (R150, R153), its load ports hold what it pops and its store ports
have room (R174), the vector unit takes it (R175), some lane is active, and its ports and operands are listed in canonical form. -/
def VecReady (s : State) (tid : Nat) (t : Task) (p : Pfx) (srcs : List VSrc) (dsts : List VDst) : Prop :=
  Ready s tid .c t (pfxNames p ++ srcNames t srcs ++ dsts.flatMap (dstNames t)) ∧ t.popsReady srcs = true ∧
  dsts.all t.pushReady = true ∧ (seen s tid t).vecHeld tid t = false ∧ t.active p ≠ 0 ∧
  Assoc.wf [] t.loadPorts = true ∧ ∀ v ∈ (t.readSrcs srcs).2, Assoc.wf 0 v = true

/-- Lane `k` of a register's contents, as a number. -/
def laneAt (v : VReg) (k : Nat) : Nat := (Assoc.get 0 v k).toNat

/-- The contents of source `k` of an instruction, as it reads or pops them in field order. -/
def sourceOf (t : Task) (srcs : List VSrc) (k : Nat) : VReg := (t.readSrcs srcs).2.getD k []

/-- A destination has a write of `data` under `m` pending, to land in `lat` cycles: of its physical register, or of the store-port
entry reserved for it. -/
def pendsIn (t t' : Task) (lat : Nat) (d : VDst) (m : Mask) (data : VReg) : Prop :=
  match d with
  | .v n => { land := t.cq.clk + lat, what := .vreg (t.physOf n.val) m data } ∈ t'.cq.late
  | .sq n => (∃ id, { land := t.cq.clk + lat, what := .sq n.val id { data := data, mask := m } } ∈ t'.cq.late ∧
      ∃ e ∈ t'.storePort n.val, e.id = id) ∧ (t'.storePort n.val).length = (t.storePort n.val).length + 1

/-- What a vector or predicate instruction leaves of the machine: the other tasks, memory and all beside the cores' units, and of
its own task all but the C-seq, the ports, SRNDCNT, and the registers and predicates whose pending writes land. -/
def VecFrame (s s' : State) (tid : Nat) (t t' : Task) : Prop :=
  (∀ k, k ≠ tid → Assoc.find s'.tasks k = Assoc.find s.tasks k) ∧
  { s' with tasks := s.tasks, cores := s.cores, uid := s.uid } = s ∧
  { t' with cq := t.cq, v := t.v, p := t.p, loadPorts := t.loadPorts, storePorts := t.storePorts, srnd := t.srnd } = t ∧
  (t.cq.late = [] → t'.v = t.v ∧ t'.p = t.p)

/-- A vector instruction completes: the C-seq goes on 8 bytes, each load port has lost what was popped, and the destination has a
write pending under `m` whose lanes satisfy `ok`. -/
def vecGives (i : Instr) (s : State) (tid : Nat) (t : Task) (srcs : List VSrc) (lat : Nat) (d : VDst) (m : Mask)
    (ok : VReg → Prop) : Prop :=
  ∃ s' t' data, exec i s = .next s' ∧ Assoc.find s'.tasks tid = some t' ∧ t'.cq.pc = t.cq.pc + 8 ∧
    t'.cq.clk = t.cq.clk + 1 ∧ (∀ j < 4, t'.loadPort j = (t.loadPort j).drop ((portsOf srcs).count j)) ∧
    pendsIn t t' lat d m data ∧ ok data ∧ VecFrame s s' tid t t'

/-- Every element of every active lane, for a type that packs elements in lanes. -/
def elementsAre (ty : NumType) (m : Mask) (f : Nat → Nat → Nat) (data : VReg) : Prop :=
  ∀ k < 1024, m.getLsbD k = true → ∀ e < 32 / ty.width, element ty.width e (laneAt data k) = f k e % 2 ^ ty.width

/-- Every active lane. -/
def lanesAre (m : Mask) (f : Nat → Nat) (data : VReg) : Prop := ∀ k < 1024, m.getLsbD k = true → laneAt data k = f k % 2 ^ 32

/-- The fxa value that stands in lanes 2i and 2i + 1 of a register's contents (R25). -/
def valueAt (v : VReg) (i : Nat) : Nat := laneAt v (2 * i) + 2 ^ 32 * laneAt v (2 * i + 1)

/-- Every active fxa value: a value is active when its lower lane is (R173). -/
def valuesAre (m : Mask) (f : Nat → Nat) (data : VReg) : Prop :=
  ∀ i < 512, m.getLsbD (2 * i) = true → valueAt data i = f i % 2 ^ 64

/-- As `vecGives`, of an instruction that writes both lanes of each active fxa value, and no other lane (R173). -/
def pairGives (i : Instr) (s : State) (tid : Nat) (t : Task) (srcs : List VSrc) (lat : Nat) (d : VDst) (m : Mask)
    (ok : VReg → Prop) : Prop :=
  ∃ m', (∀ k < 1024, m'.getLsbD k = m.getLsbD (k / 2 * 2)) ∧ vecGives i s tid t srcs lat d m' ok

/-- R176 to R178: the elementwise arithmetic of the types that pack elements in lanes: each element of each active lane is the
exact result of its operands, rounded once into the type under RND and SAT with the draw of its place; so is each active fxa value
of the forms that take fxa.
R179, R180, R182: the special functions and the shifts, counts, constants and extractions, element by element with the latency
of their group. What a special function gives beyond the cases R179 fixes is the model's choice (log entry 15). -/
def Obligations.VectorArithmeticAndFunctions : Prop :=
  (∀ (s : State) (tid : Nat) (t : Task) (w : Stall) (p : Pfx) (ty : NumType) (r : Rnd) (u : Bool) (d : VDst) (a b c : VSrc),
    ty ≠ .fxa →
    let m := t.active p
    let val := fun (l : List VSrc) (j k e : Nat) => valOf ty (element ty.width e (laneAt (sourceOf t l j) k))
    let gives := fun (i : Instr) (l : List VSrc) (lat : Nat) (f : Ext → Ext → Ext → Ext) =>
      vecGives i s tid t l lat d m (elementsAre ty m fun k e =>
        convert ty (f (val l 0 k e) (val l 1 k e) (val l 2 k e)) r u (t.draw k e))
    (VecReady s tid t p [a, b] [d] →
      gives (.vadd w p ty r u d a b) [a, b] 4 (fun x y _ => x.add r y) ∧
      gives (.vsub w p ty r u d a b) [a, b] 4 (fun x y _ => x.add r y.neg) ∧
      gives (.vmul w p ty r u d a b) [a, b] 4 (fun x y _ => x.mul y) ∧
      gives (.vmin w p ty r u d a b) [a, b] 4 (fun x y _ => x.min y) ∧
      gives (.vmax w p ty r u d a b) [a, b] 4 (fun x y _ => x.max y)) ∧
    (VecReady s tid t p [a, b, c] [d] →
      gives (.vfma w p ty r u d a b c) [a, b, c] 6 (fun x y z => (x.mul y).add r z) ∧
      gives (.vfms w p ty r u d a b c) [a, b, c] 6 (fun x y z => (x.mul y).add r z.neg) ∧
      gives (.vfnma w p ty r u d a b c) [a, b, c] 6 (fun x y z => z.add r (x.mul y).neg) ∧
      gives (.vclmp w p ty r u d a b c) [a, b, c] 4 (fun x y z => (x.max y).min z)) ∧
    (VecReady s tid t p [a] [d] →
      gives (.vabs w p ty r u d a) [a] 4 (fun x _ _ => x.abs) ∧
      gives (.vneg w p ty r u d a) [a] 4 (fun x _ _ => x.neg) ∧
      vecGives (.vrnd w p ty r u d a) s tid t [a] 6 d m (elementsAre ty m fun k e =>
        convert ty (integral (val [a] 0 k e) r (t.draw k e)) .rne u 0))) ∧
  (∀ (s : State) (tid : Nat) (t : Task) (w : Stall) (p : Pfx) (r : Rnd) (u : Bool) (d : VDst) (a b : VSrc),
    let m := t.active p
    let val := fun (l : List VSrc) (j i : Nat) => valOf .fxa (valueAt (sourceOf t l j) i)
    let gives := fun (i : Instr) (l : List VSrc) (f : Ext → Ext → Ext) => pairGives i s tid t l 4 d m (valuesAre m fun i =>
      convert .fxa (f (val l 0 i) (val l 1 i)) r u (t.draw (2 * i) 0))
    (VecReady s tid t p [a, b] [d] →
      gives (.vadd w p .fxa r u d a b) [a, b] (fun x y => x.add r y) ∧
      gives (.vsub w p .fxa r u d a b) [a, b] (fun x y => x.add r y.neg) ∧
      gives (.vmin w p .fxa r u d a b) [a, b] (fun x y => x.min y) ∧
      gives (.vmax w p .fxa r u d a b) [a, b] (fun x y => x.max y)) ∧
    (VecReady s tid t p [a] [d] →
      gives (.vabs w p .fxa r u d a) [a] (fun x _ => x.abs) ∧ gives (.vneg w p .fxa r u d a) [a] (fun x _ => x.neg))) ∧
  (∀ (s : State) (tid : Nat) (t : Task) (w : Stall) (p : Pfx) (ty : NumType) (r : Rnd) (u : Bool) (d : VDst) (a b : VSrc)
    (n : Fin 32) (k18 : BitVec 18) (e : Fin 16) (y : Fin 16) (x : Fin 64),
    ty ≠ .fxa →
    let m := t.active p
    let el := fun (l : List VSrc) (j k e : Nat) => element ty.width e (laneAt (sourceOf t l j) k)
    let wd := ty.width
    let spec := fun (i : Instr) (f : SpecFn) => vecGives i s tid t [a] 14 d m (elementsAre ty m fun k e =>
      convert ty (f.value (valOf ty (el [a] 0 k e))) r u (t.draw k e))
    (VecReady s tid t p [a] [d] →
      spec (.vrcp w p ty r u d a) .rcp ∧ spec (.vrsq w p ty r u d a) .rsq ∧ spec (.vsqrt w p ty r u d a) .sqrt ∧
      spec (.vexp2 w p ty r u d a) .exp2 ∧ spec (.vlog2 w p ty r u d a) .log2 ∧ spec (.vtanh w p ty r u d a) .tanh ∧
      spec (.vsigm w p ty r u d a) .sigm ∧
      vecGives (.vshl w p ty d a (.imm n)) s tid t [a] 4 d m (elementsAre ty m fun k e => el [a] 0 k e * 2 ^ n.val) ∧
      vecGives (.vshr w p ty d a (.imm n)) s tid t [a] 4 d m (elementsAre ty m fun k e => el [a] 0 k e / 2 ^ n.val) ∧
      vecGives (.vsra w p ty d a (.imm n)) s tid t [a] 4 d m (elementsAre ty m fun k e =>
        wrap wd (signed wd (el [a] 0 k e) / ((2 ^ n.val : Nat) : Int))) ∧
      vecGives (.vpopc w p ty d a) s tid t [a] 4 d m (elementsAre ty m fun k e =>
        ((List.range wd).map fun b => el [a] 0 k e / 2 ^ b % 2).sum) ∧
      vecGives (.vclz w p ty d a) s tid t [a] 4 d m (elementsAre ty m fun k e =>
        if el [a] 0 k e = 0 then wd else wd - 1 - (el [a] 0 k e).log2) ∧
      vecGives (.vextr w p ty d a e) s tid t [a] 4 d m (lanesAre m fun k =>
        extendElement ty (laneAt (sourceOf t [a] 0) k / 2 ^ (wd * e.val) % 2 ^ wd)) ∧
      vecGives (.vsplat w p d a y x) s tid t [a] 10 d m (lanesAre m fun _ =>
        laneAt (sourceOf t [a] 0) (64 * y.val + x.val))) ∧
    (VecReady s tid t p [a, b] [d] →
      vecGives (.vshl w p ty d a (.reg b)) s tid t [a, b] 4 d m (elementsAre ty m fun k e =>
        el [a, b] 0 k e * 2 ^ (el [a, b] 1 k e % wd)) ∧
      vecGives (.vshr w p ty d a (.reg b)) s tid t [a, b] 4 d m (elementsAre ty m fun k e =>
        el [a, b] 0 k e / 2 ^ (el [a, b] 1 k e % wd)) ∧
      vecGives (.vsra w p ty d a (.reg b)) s tid t [a, b] 4 d m (elementsAre ty m fun k e =>
        wrap wd (signed wd (el [a, b] 0 k e) / ((2 ^ (el [a, b] 1 k e % wd) : Nat) : Int)))) ∧
    (VecReady s tid t p [] [d] →
      vecGives (.vmovi w p ty d k18) s tid t [] 4 d m (lanesAre m fun _ =>
        if ty = .f32 then k18.toNat * 2 ^ 14 else (k18.signExtend 32).toNat)))

/-- R180, R182: the bitwise instructions, `vmov` and `vsel`, lane by lane, with latency 4; `vsel` takes the first operand where the
predicate holds, and writes every lane of a register; a store-port entry holds every lane, and carries the activity mask (R173,
R266).
R183, R185, R266: rotations, broadcasts and lookups along rows and columns; a lookup writes a lane of a register when it and the
lane it reads are active, and a store-port entry carries the activity mask. -/
def Obligations.VectorMoves : Prop :=
  (∀ (s : State) (tid : Nat) (t : Task) (w : Stall) (p : Pfx) (d : VDst) (a b : VSrc),
    let m := t.active p
    let x := fun k => laneAt (sourceOf t [a, b] 0) k
    let y := fun k => laneAt (sourceOf t [a, b] 1) k
    let z := fun k => laneAt (sourceOf t [a] 0) k
    (VecReady s tid t p [a, b] [d] →
      vecGives (.vand w p d a b) s tid t [a, b] 4 d m (lanesAre m fun k => x k &&& y k) ∧
      vecGives (.vor w p d a b) s tid t [a, b] 4 d m (lanesAre m fun k => x k ||| y k) ∧
      vecGives (.vxor w p d a b) s tid t [a, b] 4 d m (lanesAre m fun k => x k ^^^ y k) ∧
      vecGives (.vsel w p d a b) s tid t [a, b] 4 d (resultMask d m (BitVec.allOnes 1024))
        (lanesAre (BitVec.allOnes 1024) fun k => if m.getLsbD k then x k else y k)) ∧
    (VecReady s tid t p [a] [d] →
      vecGives (.vnot w p d a) s tid t [a] 4 d m (lanesAre m fun k => 2 ^ 32 - 1 - z k) ∧
      vecGives (.vmov w p d a) s tid t [a] 4 d m (lanesAre m z))) ∧
  (∀ (s : State) (tid : Nat) (t : Task) (w : Stall) (p : Pfx) (d : VDst) (a b : VSrc) (k : Fin 64) (y : Fin 16),
    let m := t.active p
    let z := fun k => laneAt (sourceOf t [a] 0) k
    let xl := fun k => laneAt (sourceOf t [a, b] 0) k
    let yl := fun k => laneAt (sourceOf t [a, b] 1) k
    let from' := fun (col : Bool) (k : Nat) => if col then 64 * (yl k % 16) + k % 64 else k / 64 * 64 + yl k % 64
    let looks := fun (i : Instr) (col : Bool) (lat : Nat) => ∃ m', (∀ k < 1024, m'.getLsbD k =
        (m.getLsbD k && m.getLsbD (from' col k))) ∧
      vecGives i s tid t [a, b] lat d (resultMask d m m') (fun data => ∀ k < 1024, m.getLsbD k = true → m.getLsbD (from' col k) = true →
        laneAt data k = xl (from' col k))
    (VecReady s tid t p [a] [d] →
      vecGives (.vrotr w p d a k) s tid t [a] 6 d m (lanesAre m fun j => z (j / 64 * 64 + (j % 64 + 64 - k.val) % 64)) ∧
      vecGives (.vbcr w p d a k) s tid t [a] 6 d m (lanesAre m fun j => z (j / 64 * 64 + k.val)) ∧
      vecGives (.vrotc w p d a y) s tid t [a] 10 d m (lanesAre m fun j => z ((j / 64 + 16 - y.val) % 16 * 64 + j % 64)) ∧
      vecGives (.vbcc w p d a y) s tid t [a] 10 d m (lanesAre m fun j => z (y.val * 64 + j % 64))) ∧
    (VecReady s tid t p [a, b] [d] → looks (.vxlr w p d a b) false 6 ∧ looks (.vxlc w p d a b) true 10))

/-- R184, R194: the reductions and scans along lines of the 32-bit types, and `vnormsq`: the active lanes of a line contribute, the
exact value is rounded once, and every active lane of the line receives it (a scan: the value up to it); an fxa sum adds the values
of a row or of a column pair.
R186 to R190: conversion between one-per-lane formats, and into and out of fxa at the exponent of the row, dequantisation, packing, unpacking and scaling, and `vqnt`, which
quantises the active lanes of each block of 32, 64 or 128 lanes under one scale and gives elements and scales. -/
def Obligations.VectorReductionsAndConversions : Prop :=
  (∀ (s : State) (tid : Nat) (t : Task) (w : Stall) (p : Pfx) (ty : NumType) (r : Rnd) (u : Bool) (d : VDst) (a : VSrc),
    VecReady s tid t p [a] [d] → ty ≠ .fxa →
    let m := t.active p
    let val := fun k => if m.getLsbD k then some (valOf ty (laneAt (sourceOf t [a] 0) k)) else none
    let sqr := fun k => if m.getLsbD k then
      some ((valOf .f32 (laneAt (sourceOf t [a] 0) k)).mul (valOf .f32 (laneAt (sourceOf t [a] 0) k))) else none
    let row := fun (v : Nat → Option Ext) (n k : Nat) => (List.range n).map fun c => v (k / 64 * 64 + c)
    let col := fun (v : Nat → Option Ext) (n k : Nat) => (List.range n).map fun i => v (64 * i + k % 64)
    let out := fun (i : Instr) (lat : Nat) (ty : NumType) (r : Rnd) (u : Bool) (line : Nat → List (Option Ext))
        (first : Nat → Nat) (g : Ext → Ext → Ext) => vecGives i s tid t [a] lat d m (fun data =>
      ∀ k < 1024, m.getLsbD k = true → ∃ v, foldLine g (line k) = some v ∧
        laneAt data k = convert ty v r u (t.draw (first k) 0) % 2 ^ 32)
    out (.vsumr w p ty r u d a) 8 ty r u (row val 64) (fun k => k / 64 * 64) (Ext.add r) ∧
    out (.vmaxr w p ty d a) 8 ty .rne false (row val 64) (fun k => k / 64 * 64) Ext.max ∧
    out (.vminr w p ty d a) 8 ty .rne false (row val 64) (fun k => k / 64 * 64) Ext.min ∧
    out (.vsumc w p ty r u d a) 12 ty r u (col val 16) (fun k => k % 64) (Ext.add r) ∧
    out (.vmaxc w p ty d a) 12 ty .rne false (col val 16) (fun k => k % 64) Ext.max ∧
    out (.vminc w p ty d a) 12 ty .rne false (col val 16) (fun k => k % 64) Ext.min ∧
    out (.vscnr w p ty r u d a) 8 ty r u (fun k => row val (k % 64 + 1) k) (fun k => k / 64 * 64) (Ext.add r) ∧
    out (.vscnc w p ty r u d a) 12 ty r u (fun k => col val (k / 64 + 1) k) (fun k => k % 64) (Ext.add r) ∧
    out (.vnormsq w p d a) 8 .f32 .rne false (row sqr 64) (fun k => k / 64 * 64) (Ext.add .rne)) ∧
  (∀ (s : State) (tid : Nat) (t : Task) (w : Stall) (p : Pfx) (r : Rnd) (u : Bool) (d : VDst) (a : VSrc),
    VecReady s tid t p [a] [d] →
    let m := t.active p
    let val := fun i => if m.getLsbD (2 * i) then some (valOf .fxa (valueAt (sourceOf t [a] 0) i)) else none
    let out := fun (i : Instr) (lat : Nat) (line : Nat → List (Option Ext)) (first : Nat → Nat) =>
      pairGives i s tid t [a] lat d m (fun data => ∀ k < 512, m.getLsbD (2 * k) = true → ∃ v,
        foldLine (Ext.add r) (line k) = some v ∧ valueAt data k = convert .fxa v r u (t.draw (first k) 0) % 2 ^ 64)
    out (.vsumr w p .fxa r u d a) 8 (fun k => (List.range 32).map fun c => val (k / 32 * 32 + c)) (fun k => k / 32 * 64) ∧
    out (.vsumc w p .fxa r u d a) 12 (fun k => (List.range 16).map fun i => val (32 * i + k % 32)) (fun k => 2 * (k % 32))) ∧
  (∀ (s : State) (tid : Nat) (t : Task) (w : Stall) (p : Pfx) (ty : NumType) (r : Rnd) (u : Bool) (d : VDst) (a b : VSrc),
    VecReady s tid t p [a, b] [d] → ty = .f32 ∨ ty = .i32 →
    let m := t.active p
    let x := fun k => signed 32 (laneAt (sourceOf t [a, b] 1) (k / 64 * 64))
    pairGives (.vcvt w p .fxa r u d a (some b) ty) s tid t [a, b] 6 d m (valuesAre m fun i =>
      convert .fxa (scaleBy (valOf ty (laneAt (sourceOf t [a, b] 0) (2 * i))) (-x (2 * i))) r u (t.draw (2 * i) 0)) ∧
    pairGives (.vcvt w p ty r u d a (some b) .fxa) s tid t [a, b] 6 d m (valuesAre m fun i =>
      convert ty (scaleBy (valOf .fxa (valueAt (sourceOf t [a, b] 0) i)) (x (2 * i))) r u (t.draw (2 * i) 0) % 2 ^ 32)) ∧
  (∀ (s : State) (tid : Nat) (t : Task) (w : Stall) (p : Pfx) (ty f : NumType) (r : Rnd) (u : Bool) (d : VDst) (a b : VSrc)
    (c : Fin 32) (k : Blk) (e : Fin 16),
    ty ≠ .fxa → f ≠ .fxa →
    let m := t.active p
    let z := fun k => laneAt (sourceOf t [a] 0) k
    let xl := fun k => laneAt (sourceOf t [a, b] 0) k
    let yl := fun k => laneAt (sourceOf t [a, b] 1) k
    let n := 32 / ty.width
    (VecReady s tid t p [a] [d] →
      vecGives (.vcvt w p ty r u d a none f) s tid t [a] 6 d m (lanesAre m fun k =>
        convert ty (valOf f (z k % 2 ^ f.width)) r u (t.draw k 0)) ∧
      (∃ m', (∀ k < 1024, m'.getLsbD k = (m.getLsbD k && decide (k % 64 / (64 / n) = e.val))) ∧
        vecGives (.vpack w p ty d a e) s tid t [a] 6 d (resultMask d m m') (lanesAre m' fun k =>
          ((List.range n).map fun i =>
            z (k / 64 * 64 + n * (k % 64 - e.val * (64 / n)) + i) % 2 ^ ty.width * 2 ^ (ty.width * i)).sum)) ∧
      vecGives (.vunpk w p ty d a e) s tid t [a] 6 d m (lanesAre m fun k =>
        extendElement ty (z (k / 64 * 64 + e.val * (64 / n) + k % 64 / n) / 2 ^ (ty.width * (k % 64 % n)) % 2 ^ ty.width))) ∧
    (VecReady s tid t p [a, b] [d] →
      vecGives (.vdqn w p ty r u d a b) s tid t [a, b] 6 d m (lanesAre m fun k =>
        convert .f32 (blockValue ty 1 (yl k % 256) (xl k % 2 ^ ty.width)) r u (t.draw k 0)) ∧
      vecGives (.vscale w p ty r u d a b) s tid t [a, b] 6 d m (elementsAre ty m fun k e =>
        convert ty (scaleBy (valOf ty (element ty.width e (xl k))) (signed ty.width (element ty.width e (yl k)))) r u
          (t.draw k e))) ∧
    (VecReady s tid t p [a] [d, .v c] →
      let g := 16 * 2 ^ k.code
      let lat := if k = .b128 then 12 else 8
      let scale := fun j => chooseScale ty (((List.range g).map (j / g * g + ·)).filterMap fun i =>
        if m.getLsbD i then some (valOf .f32 (z i)) else none)
      ∃ s' t' x y, exec (.vqnt w p ty r u d a c k) s = .next s' ∧ Assoc.find s'.tasks tid = some t' ∧
        t'.cq.pc = t.cq.pc + 8 ∧ VecFrame s s' tid t t' ∧ pendsIn t t' lat d m x ∧ pendsIn t t' lat (.v c) m y ∧
        lanesAre m (fun j => groupElement ty (scale j) (valOf .f32 (z j)) r u (t.draw j 0)) x ∧ lanesAre m scale y))

/-- R191 to R193: `vadam` and `vsgdm` pop their operands from the load ports in order, compute each active lane from them and the
optimiser registers with single-rounded f32 steps, and push to the store ports; an inactive lane passes its operand on. -/
def Obligations.OptimiserSteps : Prop :=
  ∀ (s : State) (tid : Nat) (t : Task) (w : Stall) (p : Pfx),
    let m := t.active p
    let o := t.optRegs
    let x := fun j k => laneAt (sourceOf t [.lq 0, .lq 1, .lq 2, .lq 3] j) k
    let y := fun j k => laneAt (sourceOf t [.lq 0, .lq 1, .lq 2] j) k
    let v := fun n : Nat => valOf .f32 n
    (VecReady s tid t p [.lq 0, .lq 1, .lq 2, .lq 3] [.sq 0, .sq 1, .sq 2] →
      ∃ s' t' a b c, exec (.vadam w p) s = .next s' ∧ Assoc.find s'.tasks tid = some t' ∧ t'.cq.pc = t.cq.pc + 8 ∧
        VecFrame s s' tid t t' ∧ pendsIn t t' 16 (.sq 0) m a ∧ pendsIn t t' 16 (.sq 1) m b ∧ pendsIn t t' 16 (.sq 2) m c ∧
        (∀ j < 4, t'.loadPort j = (t.loadPort j).drop 1) ∧
        (∀ k < 1024, m.getLsbD k = true → ∃ w1 m1 v1,
          adamLane o (v (x 0 k)) (v (x 1 k)) (v (x 2 k)) (v (x 3 k)) = (w1, m1, v1) ∧
          laneAt a k = f32Code w1 % 2 ^ 32 ∧ laneAt b k = f32Code m1 % 2 ^ 32 ∧ laneAt c k = f32Code v1 % 2 ^ 32) ∧
        (∀ k < 1024, m.getLsbD k = false → laneAt a k = x 0 k ∧ laneAt b k = x 2 k ∧ laneAt c k = x 3 k)) ∧
    (VecReady s tid t p [.lq 0, .lq 1, .lq 2] [.sq 0, .sq 1] →
      ∃ s' t' a b, exec (.vsgdm w p) s = .next s' ∧ Assoc.find s'.tasks tid = some t' ∧ t'.cq.pc = t.cq.pc + 8 ∧
        VecFrame s s' tid t t' ∧ pendsIn t t' 6 (.sq 0) m a ∧ pendsIn t t' 6 (.sq 1) m b ∧
        (∀ j < 3, t'.loadPort j = (t.loadPort j).drop 1) ∧ t'.loadPort 3 = t.loadPort 3 ∧
        (∀ k < 1024, m.getLsbD k = false → laneAt a k = y 0 k ∧ laneAt b k = y 2 k) ∧
        (∀ k < 1024, m.getLsbD k = true → ∃ w1 u1,
          sgdmLane o (v (y 0 k)) (v (y 1 k)) (v (y 2 k)) = (w1, u1) ∧
          laneAt a k = f32Code w1 % 2 ^ 32 ∧ laneAt b k = f32Code u1 % 2 ^ 32))

/-- R181, R173: the comparisons of the 32-bit lanes and `vclass` write, 4 cycles on, the active lanes of a predicate.
R195: the predicate instructions write the active lanes of pd 4 cycles on; `pcnt` gives, in each row's active lanes, how many of
them the predicate holds in, 8 cycles on. -/
def Obligations.VectorPredicates : Prop :=
  (∀ (s : State) (tid : Nat) (t : Task) (w : Stall) (p : Pfx) (ty : NumType) (d : Fin 16) (a b : VSrc) (c : BitVec 9),
    let m := t.active p
    let val := fun (l : List VSrc) (j k : Nat) => valOf ty (laneAt (sourceOf t l j) k)
    let tests := fun (i : Instr) (f : Nat → Bool) => ∃ s' t' bits, exec i s = .next s' ∧
      Assoc.find s'.tasks tid = some t' ∧ t'.cq.pc = t.cq.pc + 8 ∧
      VecFrame s s' tid t t' ∧
      { land := t.cq.clk + 4, what := .preg d.val m bits } ∈ t'.cq.late ∧
      ∀ k < 1024, m.getLsbD k = true → bits.getLsbD k = f k
    let free := Ready s tid .c t [.p d.val]
    (free → VecReady s tid t p [a, b] [] →
      let x := val [a, b] 0
      let y := val [a, b] 1
      tests (.vcmpeq w p ty d a b) (fun k => (x k).eq (y k)) ∧ tests (.vcmpne w p ty d a b) (fun k => !(x k).eq (y k)) ∧
      tests (.vcmplt w p ty d a b) (fun k => (x k).lt (y k)) ∧
      tests (.vcmple w p ty d a b) (fun k => (x k).lt (y k) || (x k).eq (y k)) ∧
      tests (.vcmpgt w p ty d a b) (fun k => (y k).lt (x k)) ∧
      tests (.vcmpge w p ty d a b) (fun k => (y k).lt (x k) || (x k).eq (y k))) ∧
    (free → VecReady s tid t p [a] [] →
      tests (.vclass w p d a c) (fun k =>
        let x := laneAt (sourceOf t [a] 0) k
        let neg := x / 2 ^ 31 % 2 = 1
        let e := x / 2 ^ 23 % 2 ^ 8
        let f := x % 2 ^ 23
        c.getLsbD (if e = 255 then (if f ≠ 0 then 8 else if neg then 0 else 7)
          else if e ≠ 0 then (if neg then 1 else 6)
          else if f ≠ 0 then (if neg then 2 else 5) else if neg then 3 else 4)))) ∧
  (∀ (s : State) (tid : Nat) (t : Task) (w : Stall) (p : Pfx) (d a b : Fin 16) (y : BitVec 5) (x : BitVec 7) (v : VDst),
    Ready s tid .c t (.p d.val :: pfxNames p ++ [.p a.val, .p b.val] ++ dstNames t v) → t.active p ≠ 0 →
    let m := t.active p
    let gives := fun (i : Instr) (f : Nat → Bool) => ∃ s' t' bits, exec i s = .next s' ∧
      Assoc.find s'.tasks tid = some t' ∧ t'.cq.pc = t.cq.pc + 8 ∧
      VecFrame s s' tid t t' ∧
      { land := t.cq.clk + 4, what := .preg d.val m bits } ∈ t'.cq.late ∧ ∀ k < 1024, bits.getLsbD k = f k
    let pa := fun k => (t.preg a.val).getLsbD k
    let pb := fun k => (t.preg b.val).getLsbD k
    gives (.pand w p d a b) (fun k => pa k && pb k) ∧ gives (.por w p d a b) (fun k => pa k || pb k) ∧
    gives (.pxor w p d a b) (fun k => pa k != pb k) ∧ gives (.pnot w p d a) (fun k => !pa k) ∧
    gives (.pset w p d y x) (fun k => decide (k / 64 < y.toNat) && decide (k % 64 < x.toNat)) ∧
    (t.pushReady v = true → ∃ s' t' data, exec (.pcnt w p v a) s = .next s' ∧ Assoc.find s'.tasks tid = some t' ∧
      t'.cq.pc = t.cq.pc + 8 ∧ VecFrame s s' tid t t' ∧ pendsIn t t' 8 v m data ∧
      lanesAre m (fun k => ((List.range 64).filter fun c => m.getLsbD (k / 64 * 64 + c) && pa (k / 64 * 64 + c)).length) data))

/-- The prefix, rounding, sources and destinations of the vector instructions, and the predicate that a comparison writes. `vsel`
is not among them: it writes whatever its prefix holds (R182). -/
def vecForm : Instr → Option (Pfx × Rnd × List VSrc × List VDst × List RegName)
  | .vadd _ p _ r _ d a b | .vsub _ p _ r _ d a b | .vmul _ p _ r _ d a b | .vmin _ p _ r _ d a b | .vmax _ p _ r _ d a b
  | .vdqn _ p _ r _ d a b | .vscale _ p _ r _ d a b => some (p, r, [a, b], [d], [])
  | .vfma _ p _ r _ d a b c | .vfms _ p _ r _ d a b c | .vfnma _ p _ r _ d a b c | .vclmp _ p _ r _ d a b c =>
    some (p, r, [a, b, c], [d], [])
  | .vabs _ p _ r _ d a | .vneg _ p _ r _ d a | .vrnd _ p _ r _ d a | .vrcp _ p _ r _ d a | .vrsq _ p _ r _ d a
  | .vsqrt _ p _ r _ d a | .vexp2 _ p _ r _ d a | .vlog2 _ p _ r _ d a | .vtanh _ p _ r _ d a | .vsigm _ p _ r _ d a
  | .vsumr _ p _ r _ d a | .vscnr _ p _ r _ d a | .vsumc _ p _ r _ d a | .vscnc _ p _ r _ d a => some (p, r, [a], [d], [])
  | .vand _ p d a b | .vor _ p d a b | .vxor _ p d a b | .vxlr _ p d a b | .vxlc _ p d a b => some (p, .rne, [a, b], [d], [])
  | .vshl _ p _ d a (.reg b) | .vshr _ p _ d a (.reg b) | .vsra _ p _ d a (.reg b) => some (p, .rne, [a, b], [d], [])
  | .vshl _ p _ d a (.imm _) | .vshr _ p _ d a (.imm _) | .vsra _ p _ d a (.imm _) => some (p, .rne, [a], [d], [])
  | .vnot _ p d a | .vmov _ p d a | .vnormsq _ p d a => some (p, .rne, [a], [d], [])
  | .vpopc _ p _ d a | .vclz _ p _ d a | .vmaxr _ p _ d a | .vminr _ p _ d a | .vmaxc _ p _ d a | .vminc _ p _ d a =>
    some (p, .rne, [a], [d], [])
  | .vsplat _ p d a _ _ => some (p, .rne, [a], [d], [])
  | .vmovi _ p _ d _ => some (p, .rne, [], [d], [])
  | .vextr _ p _ d a _ | .vpack _ p _ d a _ | .vunpk _ p _ d a _ => some (p, .rne, [a], [d], [])
  | .vrotr _ p d a _ | .vbcr _ p d a _ => some (p, .rne, [a], [d], [])
  | .vrotc _ p d a _ | .vbcc _ p d a _ => some (p, .rne, [a], [d], [])
  | .vcvt _ p _ r _ d a b _ => some (p, r, a :: b.toList, [d], [])
  | .vqnt _ p _ r _ d a c _ => some (p, r, [a], [d, .v c], [])
  | .vadam _ p => some (p, .rne, [.lq 0, .lq 1, .lq 2, .lq 3], [.sq 0, .sq 1, .sq 2], [])
  | .vsgdm _ p => some (p, .rne, [.lq 0, .lq 1, .lq 2], [.sq 0, .sq 1], [])
  | .vcmpeq _ p _ d a b | .vcmpne _ p _ d a b | .vcmplt _ p _ d a b | .vcmple _ p _ d a b | .vcmpgt _ p _ d a b
  | .vcmpge _ p _ d a b => some (p, .rne, [a, b], [], [.p d.val])
  | .vclass _ p d a _ => some (p, .rne, [a], [], [.p d.val])
  | _ => none

/-- The stall field of those instructions (R147). -/
def stallOf : Instr → Stall
  | .vadd w _ _ _ _ _ _ _ | .vsub w _ _ _ _ _ _ _ | .vmul w _ _ _ _ _ _ _ | .vmin w _ _ _ _ _ _ _ | .vmax w _ _ _ _ _ _ _
  | .vdqn w _ _ _ _ _ _ _ | .vscale w _ _ _ _ _ _ _ | .vfma w _ _ _ _ _ _ _ _ | .vfms w _ _ _ _ _ _ _ _
  | .vfnma w _ _ _ _ _ _ _ _ | .vclmp w _ _ _ _ _ _ _ _ | .vabs w _ _ _ _ _ _ | .vneg w _ _ _ _ _ _ | .vrnd w _ _ _ _ _ _
  | .vrcp w _ _ _ _ _ _ | .vrsq w _ _ _ _ _ _ | .vsqrt w _ _ _ _ _ _ | .vexp2 w _ _ _ _ _ _ | .vlog2 w _ _ _ _ _ _
  | .vtanh w _ _ _ _ _ _ | .vsigm w _ _ _ _ _ _ | .vsumr w _ _ _ _ _ _ | .vscnr w _ _ _ _ _ _ | .vsumc w _ _ _ _ _ _
  | .vscnc w _ _ _ _ _ _ | .vand w _ _ _ _ | .vor w _ _ _ _ | .vxor w _ _ _ _ | .vxlr w _ _ _ _ | .vxlc w _ _ _ _
  | .vshl w _ _ _ _ _ | .vshr w _ _ _ _ _ | .vsra w _ _ _ _ _ | .vnot w _ _ _ | .vmov w _ _ _ | .vnormsq w _ _ _
  | .vpopc w _ _ _ _ | .vclz w _ _ _ _ | .vmaxr w _ _ _ _ | .vminr w _ _ _ _ | .vmaxc w _ _ _ _ | .vminc w _ _ _ _
  | .vsplat w _ _ _ _ _ | .vmovi w _ _ _ _ | .vextr w _ _ _ _ _ | .vpack w _ _ _ _ _ | .vunpk w _ _ _ _ _
  | .vrotr w _ _ _ _ | .vbcr w _ _ _ _ | .vrotc w _ _ _ _ | .vbcc w _ _ _ _ | .vcvt w _ _ _ _ _ _ _ _
  | .vqnt w _ _ _ _ _ _ _ _ | .vadam w _ | .vsgdm w _ | .vcmpeq w _ _ _ _ _ | .vcmpne w _ _ _ _ _ | .vcmplt w _ _ _ _ _
  | .vcmple w _ _ _ _ _ | .vcmpgt w _ _ _ _ _ | .vcmpge w _ _ _ _ _ | .vclass w _ _ _ _ => w
  | _ => 0

/-- R173 to R175, R37: with no active lane a vector instruction completes and pops, pushes and writes nothing, though SRNDCNT counts
it; with one, it waits while a load port lacks an operand it pops or a store port it pushes to is full, and nothing is popped.
R172, R173, R125: v0 to v15 name physical registers 0 to 15, and v16 on those above, turned by ROFS; every lane is active without
a predicate, else those whose bit differs from PN; sources pop the load ports in field order.
R196, R197, R172: C-seq control. A branch on a predicate and `cj` go to PC + 8 × SignExt(offset); `clcset` writes its counter;
`cstage n` sets the stage depth with only p8 true; `cloop` counts down to 0, turns the rotation back by one, shifts the stage
predicates, and repeats while any of the first `sdepth` of them holds. -/
def Obligations.VectorActivityAndFlow : Prop :=
  (∀ (s : State) (tid : Nat) (t : Task) (i : Instr) (p : Pfx) (r : Rnd) (l : List VSrc) (ds : List VDst) (ns : List RegName),
    vecForm i = some (p, r, l, ds, ns) →
    Ready s tid .c t (ns ++ pfxNames p ++ srcNames t l ++ ds.flatMap (dstNames t)) →
    (t.active p = 0 → (seen s tid t).vecHeld tid t = false → ∃ s1, exec i s = ends s1 tid .c t (stallOf i) ∧
      Assoc.find s1.tasks tid = some { t with srnd := if r = .rsr then t.srnd + 1 else t.srnd }) ∧
    (t.active p ≠ 0 → t.popsReady l = false → ∃ n, exec i s = waits (seen s tid t) tid .c (.pop n) false) ∧
    (t.active p ≠ 0 → t.popsReady l = true → ds.all t.pushReady = false →
      ∃ n, exec i s = waits (seen s tid t) tid .c (.push n) false)) ∧
  (∀ (t : Task) (p : Pfx) (l : List VSrc) (j : Nat), Assoc.wf [] t.loadPorts = true →
    (p.p = 0 → t.active p = BitVec.allOnes 1024) ∧
    (p.p ≠ 0 → ∀ k < 1024, (t.active p).getLsbD k = ((t.preg p.p.val).getLsbD k != p.pn)) ∧
    (∀ n : Fin 32, l[j]? = some (.v n) → sourceOf t l j =
      t.vreg (if n.val < 16 then n.val else 16 + (n.val - 16 + t.rofs) % max 1 (16 * t.tt.vreg))) ∧
    (∀ (n : Fin 4) (x : Operand), l[j]? = some (.lq n) →
      (t.loadPort n.val)[(portsOf (l.take j)).count n.val]? = some x → sourceOf t l j = x.data)) ∧
  (∀ (s : State) (tid : Nat) (t : Task) (w : Stall) (d : Fin 4) (a : Fin 16) (o : BitVec 12) (f : BitVec 18) (n : Fin 9),
    Ready s tid .c t [.s (48 + d.val), .p a.val] → RegsOk t.cq → Assoc.wf 0 t.p = true → t.cq.late = [] →
    let pc := t.cq.pc
    let to12 := pc + BitVec.ofInt 64 (8 * o.toInt)
    let go := fun x : Word => goes (seen s tid t) tid .c w x
    let c := t.cq.rd (.lc d)
    let all : Mask := BitVec.allOnes 1024
    let stage := fun j : Nat => if j = 8 then (if 1 < c.toNat then all else 0) else t.preg (j - 1)
    exec (.cbrany w a o) s = go (if t.preg a.val ≠ 0 then to12 else pc + 8) ∧
    exec (.cbrall w a o) s = go (if t.preg a.val = all then to12 else pc + 8) ∧
    exec (.cj w f) s = go (pc + BitVec.ofInt 64 (8 * f.toInt)) ∧
    exec (.clcset w d f) s = ends ((seen s tid t).result tid .c 1 (.lc d) (f.setWidth 64)) tid .c t w ∧
    (∃ s' t', exec (.cstage w n) s = .next s' ∧ Assoc.find s'.tasks tid = some t' ∧ t'.sdepth = n.val ∧
      t'.cq.pc = pc + 8 ∧ t'.preg 8 = all ∧ ∀ j, 9 ≤ j → j ≤ 15 → t'.preg j = 0) ∧
    (∃ s' t', exec (.cloop w d o) s = .next s' ∧ Assoc.find s'.tasks tid = some t' ∧
      t'.cq.regAt (48 + d.val) = (if 1 < c.toNat then c - 1 else 0) ∧
      t'.rofs = (t.rofs + 16 * t.tt.vreg - 1) % max 1 (16 * t.tt.vreg) ∧
      (∀ j, 8 ≤ j → j ≤ 15 → t'.preg j = stage j) ∧ (∀ j, j < 8 → t'.preg j = t.preg j) ∧
      t'.cq.pc = if ∃ j < t.sdepth, stage (8 + j) ≠ 0 then to12 else pc + 8))

/-! ### The matrix unit -/

/-- An instruction of the matrix groups runs now: it is ready, its tiles are available and no write of them or of its selectors
is pending (R214), and the accumulator port takes it, if it comes to it for the first time (R216); tiles and registers are listed in
canonical form. -/
def AccReady (s : State) (tid : Nat) (t : Task) (ns : List RegName) (tiles sels : List Nat) : Prop :=
  Ready s tid .c t ns ∧ (∀ n ∈ tiles, n < t.tt.accd ∧ t.tilePending n = false) ∧ (∀ n ∈ sels, t.selPending n = false) ∧
  (t.cq.atIssue = none → (seen s tid t).accHeld tid t = false) ∧ RegsOk t.cq ∧ Assoc.wf Tile.start t.tiles = true

/-- It completes: the C-seq goes on 8 bytes, the accumulator port is occupied when it comes to it first, no byte of memory, of the
scratchpad or
of metadata SRAM changes, no other task and no other sequencer changes, no vector register changes but by a write that was
pending, and the task is left so that `ok` holds of it. -/
def accGives (i : Instr) (s : State) (tid : Nat) (t : Task) (ok : Task → Prop) : Prop :=
  ∃ s' t', exec i s = .next s' ∧ Assoc.find s'.tasks tid = some t' ∧ t'.cq.pc = t.cq.pc + 8 ∧
    t'.cq.clk = t.cq.clk + 1 ∧ (t.cq.atIssue = none → (s'.core t.die t.core).accBusy = true) ∧
    s'.mem = s.mem ∧ s'.hostMem = s.hostMem ∧ (∀ k, k ≠ tid → Assoc.find s'.tasks k = Assoc.find s.tasks k) ∧ t'.kq = t.kq ∧ t'.lq = t.lq ∧ t'.wq = t.wq ∧
    t'.spad = t.spad ∧ t'.md = t.md ∧ (t.cq.late = [] → t'.v = t.v) ∧ ok t'

/-- It has issued and blocks; the port has accepted it, when it comes to it first (R216). -/
def accBlocks (i : Instr) (s : State) (tid : Nat) (t : Task) (why : Wait) : Prop :=
  exec i s = waits ((seen s tid t).tookPort t.cq.atIssue.isNone tid t) tid .c why true

/-- A trap of the matrix groups (R215). -/
def accBad (s : State) (tid : Nat) (t : Task) (cls cspace cause : Nat) : Host.Outcome State Fault Refusal :=
  traps (seen s tid t) tid .c { cls := cls, cspace := cspace, cause := cause, addr := 0, info := 0, words := true, async := false }

/-- R224 to R227: in a core that is not in Normal mode `mshape` resolves the task's shape and gives its word when no product is
open, and in Normal mode it traps; `mtile` checks a descriptor and sets its selector at K cursor 0, or traps, and one that reads
poisoned words leaves the selector and makes a machine check due (R375); `asetx` sets a
tile's exponent and OTE; `azero` makes tiles zero, keeping both; other tiles stay, and a busy tile traps.
R101, R228: `lotreq` joins the arbiter's queue and waits; the grant of the head request, when the pool holds it, gives the
lots and lets it go on; `lotrel` gives lots back, at once when no product runs, and traps when fewer than the demand would
stay. -/
def Obligations.MatrixSetupAndLots : Prop :=
  (∀ (s : State) (tid : Nat) (t : Task) (w : Stall) (l : Fin 4) (m : Fin 3) (n : Fin 64) (d : Fin 32) (e : Bool) (x : BitVec 12)
    (k : BitVec 6),
    let ep := (s.lrec t.lr).epoch
    let word := shapeWord m.val n.val (s.widthCode ep t.tt) (s.shapeCells ep t.tt) t.lots
    let off := 256 * x.toNat
    let ws := wordsOf (readBytes t.spad off 32) 4
    let zeroed := fun y : Tile => ({ m := [], x := y.x, ote := y.ote, nan := false, psn := false, ovf := false, osgn := false,
                                     head := 2 ^ 62 - 1 } : Tile)
    (AccReady s tid t [.s (48 + l.val)] [] [] →
      ((s.core t.die t.core).mode ≠ 0 → t.matrixIdle = true →
        accGives (.mshape w l m n) s tid t fun t' => t'.shape = word ∧ t'.cq.regAt (48 + l.val) = word) ∧
      ((s.core t.die t.core).mode = 0 → exec (.mshape w l m n) s = accBad s tid t 2 1 8)) ∧
    (AccReady s tid t [] [] [l.val] → t.cq.barriers = [] → off + 32 ≤ 32768 * t.tt.spd →
      (∀ k, s.poisonAt (.scratch tid (off / 64 * 64)) = some k → accGives (.mtile w l x) s tid t fun t' =>
        t'.selectors = t.selectors ∧ t'.checks.length = t.checks.length + 1) ∧
      (s.poisonAt (.scratch tid (off / 64 * 64)) = none → ∀ y, Desc.parse ws = some y → y.extentTrap t.tt = none →
        accGives (.mtile w l x) s tid t fun t' => Assoc.find t'.selectors l.val = some { desc := y, cur := 0 } ∧
          t'.tiles = t.tiles) ∧
      (s.poisonAt (.scratch tid (off / 64 * 64)) = none → Desc.parse ws = none → exec (.mtile w l x) s = accBad s tid t 2 1 1)) ∧
    (AccReady s tid t [] [d.val] [] →
      (t.tileBusy d.val = false → accGives (.asetx w d e x) s tid t fun t' =>
        t'.tile d.val = { t.tile d.val with x := x.toInt, ote := e } ∧ ∀ j, j ≠ d.val → t'.tile j = t.tile j) ∧
      (t.tileBusy d.val = true → exec (.asetx w d e x) s = accBad s tid t 7 0 0)) ∧
    (AccReady s tid t [] ((List.range k.toNat).map (d.val + ·)) [] → k ≠ 0 →
      (∀ j < k.toNat, t.tileBusy (d.val + j) = false) → accGives (.azero w d k) s tid t fun t' =>
        (∀ j < k.toNat, t'.tile (d.val + j) = zeroed (t.tile (d.val + j))) ∧
        ∀ j, (j < d.val ∨ d.val + k.toNat ≤ j) → t'.tile j = t.tile j)) ∧
  ((∀ (s : State) (tid : Nat) (t : Task) (w : Stall) (n : Fin 33), AccReady s tid t [] [] [] →
    ((∀ r ∈ s.lotQueue t.die t.core, r.task ≠ tid) → t.lots + t.leaving + n.val ≤ 32 →
      ∃ s' t', exec (.lotreq w n) s = .next s' ∧ Assoc.find s'.tasks tid = some t' ∧ t'.cq.pc = t.cq.pc ∧
        t'.cq.wait = some .lotreq ∧ t'.lots = t.lots ∧
        { task := tid, n := n.val, prio := t.prio, stall := w } ∈ s'.lotQueue t.die t.core ∧
        (s'.lotQueue t.die t.core).length = (s.lotQueue t.die t.core).length + 1) ∧
    (t.demand + n.val ≤ t.lots → t.matrixIdle = true → accGives (.lotrel w n) s tid t fun t' =>
      t'.lots = t.lots - n.val ∧ t'.leaving = 0) ∧
    (t.lots < t.demand + n.val → exec (.lotrel w n) s = accBad s tid t 2 1 7)) ∧
  (∀ (s : State) (die core : Nat) (r : LotReq) (rest : List LotReq) (t : Task),
    Assoc.wf [] s.lotq = true → s.lotQueue die core = r :: rest → Assoc.find s.tasks r.task = some t → s.moves t = true →
    (r.n ≤ s.freeLots die core →
      ∃ s' t', exec (.lotGrant die core) s = .next s' ∧ s'.lotQueue die core = rest ∧
        Assoc.find s'.tasks r.task = some t' ∧ t'.lots = t.lots + r.n ∧ t'.cq.pc = t.cq.pc + 8 ∧ t'.cq.wait = none) ∧
    (s.freeLots die core < r.n → exec (.lotGrant die core) s = .next s)))

/-- R229 to R232, R219: a product that passes its checks joins the open batch (`mmaa`, `mmas`) or issues and blocks (`mma`), its
selectors' cursors advanced by its logical depth; one that fails takes the trap of the first failing check; `mma` completes once
its group steps are added. `mcommit` numbers the open batch and opens another; `mwait` completes when every batch up to the
number has retired with no fault unreported, and waits until then; `mpoll` tells in a predicate whether it has. A number ahead of the
counter traps; 0 and the number exactly 2^31 from it are not ahead (R412).
R199, R200, R205: the matrix engine completes a chunk of the product that runs: the groups it completes are added to its
tiles, word by word, and the product stands one chunk on; a product behind a fence stays. -/
def Obligations.MatrixProductsAndChunks : Prop :=
  (∀ (s : State) (tid : Nat) (t : Task) (w : Stall) (l : Fin 4) (p : Fin 16) (d : Fin 32) (a b : Fin 4) (n : BitVec 12),
    (AccReady s tid t [] [d.val] [a.val, b.val] → (t.productTiles d.val).any t.tilePending = false → t.sync = none → a ≠ b →
      let moved := fun (t' : Task) (o : MatOp) => ∀ j ∈ [a.val, b.val], ∀ x, Assoc.find t.selectors j = some x →
        Assoc.find t'.selectors j = some { x with cur := x.cur + o.logical }
      let joins := fun (sp : Bool) (i : Instr) =>
        (∀ o, t.checkProduct .c s.uid d.val a b n.toNat sp false = .ok o → accGives i s tid t fun t' =>
          t'.openBatch.ops = t.openBatch.ops ++ [o] ∧ o.t0 = d.val ∧ o.depth = n.toNat ∧ o.sparse = sp ∧ o.done = 0 ∧
          moved t' o ∧ t'.tiles = t.tiles) ∧
        (∀ e, t.checkProduct .c s.uid d.val a b n.toNat sp false = .error e → exec i s = traps (seen s tid t) tid .c e)
      joins false (.mmaa w d a b n) ∧ joins true (.mmas w d a b n) ∧
      (∀ o, t.checkProduct .c s.uid d.val a b n.toNat false true = .ok o →
        ∃ s' t', exec (.mma w d a b n) s = .next s' ∧ Assoc.find s'.tasks tid = some t' ∧ t'.cq.pc = t.cq.pc ∧
          t'.cq.wait = some .mcommit ∧ t'.sync = some { op := o, stall := w.val, detached := false } ∧ moved t' o) ∧
      (∀ e, t.checkProduct .c s.uid d.val a b n.toNat false true = .error e →
        exec (.mma w d a b n) s = traps (seen s tid t) tid .c e)) ∧
    (∀ m, AccReady s tid t [] [d.val] [a.val, b.val] → t.sync = some m → m.op.finished = true → m.op.skew = false →
      accGives (.mma w d a b n) s tid t fun t' => t'.sync = none ∧ t'.tiles = t.tiles) ∧
    (AccReady s tid t [.s (48 + l.val)] [] [] →
      let v := t.cq.rd (.lc l)
      (t.batches.length < 8 → accGives (.mcommit w l) s tid t fun t' => t'.batchCtr = t.batchCtr + 1 ∧
        t'.openBatch = { num := none, ops := [], planned := 0 } ∧
        t'.cq.regAt (48 + l.val) = (t.batchCtr + 1).setWidth 64) ∧
      let n : BitVec 32 := v.setWidth 32
      let ahead := n ≠ 0 ∧ n - t.batchCtr ≠ 2 ^ 31 ∧ precedes t.batchCtr n = true
      (8 ≤ t.batches.length → accBlocks (.mcommit w l) s tid t .mcommit) ∧
      (ahead → exec (.mwait w l) s = accBad s tid t 2 1 6) ∧
      (¬ ahead → t.batchRetired (v.setWidth 32) = true → t.faults = [] →
        accGives (.mwait w l) s tid t fun t' => t'.batches = t.batches ∧ t'.tiles = t.tiles) ∧
      (¬ ahead → t.batchRetired n = false → accBlocks (.mwait w l) s tid t .mwait)) ∧
    (AccReady s tid t [.p p.val, .s (48 + l.val)] [] [] → Assoc.wf 0 t.p = true →
      let n : BitVec 32 := (t.cq.rd (.lc l)).setWidth 32
      let ahead := n ≠ 0 ∧ n - t.batchCtr ≠ 2 ^ 31 ∧ precedes t.batchCtr n = true
      (ahead → exec (.mpoll w p l) s = accBad s tid t 2 1 6) ∧
      (¬ ahead → accGives (.mpoll w p l) s tid t fun t' =>
        t'.preg p.val = if p.val = 0 ∨ t.batchRetired n = true then BitVec.allOnes 1024 else 0))) ∧
  (∀ (s : State) (tid : Nat) (t : Task) (o : MatOp),
    Assoc.find s.tasks tid = some t → s.moves t = true → t.runningMat = some o →
    (t.clear o.after = false → exec (.matrixChunk tid) s = .next s) ∧
    (t.clear o.after = true → o.done + 1 < o.depth → s.poison = [] → o ∈ t.reserving →
      let added := (o.groupsIn o.done).foldl (fun u g => u.addGroup o g) t
      ∃ s' t', exec (.matrixChunk tid) s = .next s' ∧ Assoc.find s'.tasks tid = some t' ∧
        (∀ k j, Assoc.get 0 (t'.tile k).m j = Assoc.get 0 (added.tile k).m j) ∧
        (∃ o' ∈ t'.reserving, o'.uid = o.uid ∧ o'.done = o.done + 1 ∧ o'.t0 = o.t0) ∧ s'.mem = s.mem))

/-- R207, R208, R233 to R238: the ACCOP instructions. `anorm` divides every word by 2^n toward zero and raises the exponent by n;
`aadd` adds word by word; `amov` copies a tile; `ald` loads a tile's words from two vectors; `acvt`, `ast` and `ahdr` give a
tile's values, its words and its exponent and guard words to a vector destination. A busy tile traps with class 7 and one with PSN
set with cause 10. An instruction that reads a poisoned sector takes nothing and makes a machine check due (R375; the model's
reading, log entry 77), shown of `anorm`; the others are stated of tiles with no poisoned sector. -/
def Obligations.AccumulatorOps : Prop :=
  ∀ (s : State) (tid : Nat) (t : Task) (w : Stall) (d a : Fin 32) (n : Fin 64) (v u : VSrc) (p : Pfx) (ty : NumType) (r : Rnd)
    (sat h : Bool) (y : VDst),
    let X := t.tile d.val
    let A := t.tile a.val
    let others := fun t' : Task => ∀ j, j ≠ d.val → t'.tile j = t.tile j
    let m := t.active p
    (AccReady s tid t [] [d.val] [] → Assoc.wf 0 X.m = true →
      (t.tileBusy d.val = true → exec (.anorm w d n) s = accBad s tid t 7 0 0) ∧
      (t.tileBusy d.val = false → X.psn = true → exec (.anorm w d n) s = accBad s tid t 9 1 10) ∧
      (∀ e, t.tileBusy d.val = false → X.psn = false → X.x + n.val ≤ 32767 →
        s.tilePoison tid d.val (fun _ => true) = some e → accGives (.anorm w d n) s tid t fun t' =>
          t'.tiles = t.tiles ∧ t'.checks.length = t.checks.length + 1) ∧
      (t.tileBusy d.val = false → X.psn = false → X.x + n.val ≤ 32767 →
        s.tilePoison tid d.val (fun _ => true) = none → accGives (.anorm w d n) s tid t fun t' =>
        (∀ k, (t'.tile d.val).word k = BitVec.ofInt 64 ((X.word k).toInt.tdiv (2 ^ n.val))) ∧
        (t'.tile d.val).x = X.x + n.val ∧ (t'.tile d.val).head = 2 ^ 62 - 1 - (t'.tile d.val).largest ∧
        (t'.tile d.val).ovf = X.ovf ∧ (t'.tile d.val).nan = X.nan ∧ others t')) ∧
    (AccReady s tid t [] [d.val, a.val] [] → t.tileBusy d.val = false → t.tileBusy a.val = false → A.psn = false →
      s.tilePoison tid a.val (fun _ => true) = none →
      (X.psn = false → s.tilePoison tid d.val (fun _ => true) = none → accGives (.aadd w d a) s tid t fun t' =>
        (∀ k < 1024, (t'.tile d.val).word k = X.word k + A.word k) ∧ (t'.tile d.val).x = X.x ∧
        (t'.tile d.val).nan = (X.nan || A.nan) ∧
        ((t'.tile d.val).ovf = true ↔ X.ovf = true ∨ A.ovf = true ∨ ∃ k < 1024,
          (X.word k).toInt + (A.word k).toInt < -(2 ^ 63) ∨ 2 ^ 63 ≤ (X.word k).toInt + (A.word k).toInt) ∧ others t') ∧
      (d = a → accGives (.amov w d a) s tid t fun t' => t'.tiles = t.tiles) ∧
      (d ≠ a → accGives (.amov w d a) s tid t fun t' =>
        t'.tile d.val = { A with head := 2 ^ 62 - 1 - A.largest } ∧ others t')) ∧
    (AccReady s tid t (srcNames t [v, u]) [d.val] [] → t.popsReady [v, u] = true → t.tileBusy d.val = false →
      (∀ x ∈ (t.readSrcs [v, u]).2, Assoc.wf 0 x = true) → accGives (.ald w d v u) s tid t fun t' =>
        (∀ k < 1024, let x := sourceOf t [v, u] (if k % 64 < 32 then 0 else 1)
          let lane := k / 64 * 64 + 2 * (k % 32)
          ((t'.tile d.val).word k).toNat = laneAt x lane + 2 ^ 32 * laneAt x (lane + 1)) ∧
        (t'.tile d.val).x = X.x ∧ (t'.tile d.val).ote = X.ote ∧ (t'.tile d.val).ovf = false ∧ (t'.tile d.val).nan = false ∧
        (t'.tile d.val).psn = false ∧ others t') ∧
    (AccReady s tid t (dstNames t y ++ pfxNames p) [a.val] [] → t.pushReady y = true → t.tileBusy a.val = false →
      A.psn = false → s.tilePoison tid a.val (fun _ => true) = none →
      (m ≠ 0 → (A.nan = true ∨ A.ovf = false ∨ A.ote = false) → accGives (.acvt w p ty r sat y a) s tid t fun t' =>
        ∃ data, pendsIn t t' 6 y m data ∧ lanesAre m (fun k => A.convertWord ty r sat (t.draw k 0) k) data) ∧
      (A.nan = false → A.ovf = true → A.ote = true → exec (.acvt w p ty r sat y a) s = accBad s tid t 9 1 9) ∧
      (m ≠ 0 → accGives (.ast w p y a h) s tid t fun t' => ∃ data, pendsIn t t' 6 y (pairMask m) data ∧
        ∀ k < 512, m.getLsbD (2 * k) = true →
          let x := (A.word (k / 32 * 64 + (if h then 32 else 0) + k % 32)).toNat
          laneAt data (2 * k) = x % 2 ^ 32 ∧ laneAt data (2 * k + 1) = x / 2 ^ 32) ∧
      accGives (.ahdr w y a) s tid t fun t' => ∃ data, pendsIn t t' 4 y (BitVec.allOnes 1024) data ∧
        laneAt data 0 + 2 ^ 32 * laneAt data 1 = A.expWord.toNat ∧
        laneAt data 2 + 2 ^ 32 * laneAt data 3 = A.guardWord.toNat ∧ ∀ k, 4 ≤ k → k < 1024 → laneAt data k = 0)

/-- R239 to R241: `gemvgo` takes the next number and forks an operation on the block at its offset, which must lie in the
scratchpad, and holds while four are not joined; `gemvwait` completes when the operations up to a number have retired with no
fault unreported and joins them, waits until then, and traps on a number ahead; 0 and the number exactly 2^31 from the counter are
not ahead, and join nothing (R412). The oldest operation whose writes no reservation holds retires, on a task that moves: one its
fork ended with its fault kept for the join; one that runs, and whose page walks no fence holds, writes its outputs in one step, and
one on an empty A none (R48). While every one is held nothing retires, and HOLDCNT counts (R221). -/
def Obligations.GemvOperations : Prop :=
  (∀ (s : State) (tid : Nat) (t : Task) (w : Stall) (l : Fin 4) (o : BitVec 12), AccReady s tid t [.s (48 + l.val)] [] [] →
    let off := 256 * o.toNat
    let n : BitVec 32 := (t.cq.rd (.lc l)).setWidth 32
    let past := n = 0 ∨ n - t.gemvCtr = 2 ^ 31
    let ahead := ¬ past ∧ precedes t.gemvCtr n = true
    (32768 * t.tt.spd < off + 128 → exec (.gemvgo w l o) s = accBad s tid t 6 0 0) ∧
    (off + 128 ≤ 32768 * t.tt.spd → 4 ≤ (t.gemvCtr - t.gemvJoined).toNat →
      exec (.gemvgo w l o) s = waits ((seen s tid t).accLeave tid t) tid .c .gemvwait false) ∧
    (off + 128 ≤ 32768 * t.tt.spd → (t.gemvCtr - t.gemvJoined).toNat < 4 →
      ∃ s' t' op, exec (.gemvgo w l o) s = .next s' ∧ Assoc.find s'.tasks tid = some t' ∧ t'.cq.pc = t.cq.pc + 8 ∧
        t'.gemvCtr = t.gemvCtr + 1 ∧ t'.cq.regAt (48 + l.val) = (t.gemvCtr + 1).setWidth 64 ∧
        t'.eng = t.eng ++ [op] ∧ op.engine = .gemv ∧ op.num = t.gemvCtr + 1 ∧ op.block = some off ∧ op.started = false) ∧
    (ahead → exec (.gemvwait w l) s = accBad s tid t 2 1 6) ∧
    (¬ ahead → (∀ op ∈ t.eng, op.engine = .gemv → covered t.gemvCtr op.num n = false) → t.faults = [] →
      (¬ past → accGives (.gemvwait w l) s tid t fun t' =>
        t'.gemvJoined = if precedes t.gemvJoined n then n else t.gemvJoined) ∧
      (past → accGives (.gemvwait w l) s tid t fun t' => t'.gemvJoined = t.gemvJoined)) ∧
    (∀ op ∈ t.eng, ¬ ahead → op.engine = .gemv → covered t.gemvCtr op.num n = true →
      accBlocks (.gemvwait w l) s tid t .gemvwait)) ∧
  (∀ (s : State) (tid : Nat) (t : Task), Assoc.find s.tasks tid = some t → s.moves t = true → t.gemvs ≠ [] →
    (∀ o ∈ t.gemvs, t.gemvHeld o = true) →
    exec (.gemvRetire tid) s = .next (t.gemvs.foldl (fun s o => s.holdOp tid o.uid) s)) ∧
  (∀ (s : State) (tid : Nat) (t : Task) (op : EngOp), Assoc.find s.tasks tid = some t → s.moves t = true →
    t.gemvs.find? (fun o => !t.gemvHeld o) = some op →
    (∀ f, op.fault = some f → ∃ s' t', exec (.gemvRetire tid) s = .next s' ∧ Assoc.find s'.tasks tid = some t' ∧
      t'.eng = t.eng.filter (fun x => x.uid != op.uid) ∧
      { engine := some op.engine, seq := op.seq, num := op.num, cls := 12, fault := f } ∈ t'.faults ∧ s'.mem = s.mem) ∧
    (∀ tsr tlr xoff yoff xexp xtype yf32 rnd sat ys s1, op.fault = none → s.noWalks = false → t.clear op.xl = true →
      op.job = .gemv tsr tlr xoff yoff xexp xtype yf32 rnd sat →
      (tsrExt tsr 0 = 0 ∨ tsrExt tsr 1 = 0 → exec (.gemvRetire tid) s = .next (s.retireOp tid op)) ∧
      (tsrExt tsr 0 ≠ 0 → tsrExt tsr 1 ≠ 0 →
        s.gemvOutputs tid t { tsr := tsr, tlr := tlr } xexp ((List.range (tsrExt tsr 0)).map (s.gemvX tid t xoff xtype))
          (List.range (tsrExt tsr 1)) = (s1, .ok ys) →
        let bytes := gemvBytes t op.num yf32 ((Rnd.ofCode rnd).getD .rne) sat ys
        exec (.gemvRetire tid) s =
          .next (((s1.writeVa tid (windowAddr yoff) bytes false).retireOp tid op).tickStore tid))))

/-! ### Pitch processors -/

/-- A pitch processor runs a kernel, whose registers are listed in canonical form. -/
def PitchReady (s : State) (p : Nat) (r : PitchRun) : Prop :=
  s.cur = .pitch p ∧ (s.pitch p).run = some r ∧ Assoc.wf 0 r.q = true ∧ Assoc.wf 0 r.k = true

/-- A pitch instruction of a cost completes: its cost leaves the budget, the next word in sequence (under a `prepn`) follows, and
the run is left so that `ok` holds of it. With too little budget it traps instead, with cause 1 (R358). -/
def pitchGives (i : Instr) (s : State) (p : Nat) (r : PitchRun) (cost : Nat) (ok : PitchRun → Prop) : Prop :=
  (r.budget < cost → exec i s = .next (s.pitchTrap p r 1 0)) ∧
  (cost ≤ r.budget → ∃ s' r', exec i s = .next s' ∧ (s'.pitch p).run = some r' ∧ r'.budget = r.budget - cost ∧
    r'.pc = r.advance.pc ∧ r'.rep = r.advance.rep ∧ r'.pkt = r.pkt ∧ r'.flow = r.flow ∧ ok r' ∧
    s'.flows = s.flows ∧ s'.queues = s.queues ∧ s'.mem = s.mem ∧ s'.hostMem = s.hostMem)

/-- A register is written in the lanes of a mask and nothing else of the run changes (R355). -/
def pitchWrites (r r' : PitchRun) (d : Fin 16) (m : BitVec 16) (f : Nat → BitVec 32) : Prop :=
  (∀ i < 16, r'.lane d i = if m.getLsbD i then f i else r.lane d i) ∧ (∀ e : Fin 16, e ≠ d → ∀ i < 16, r'.lane e i = r.lane e i) ∧
  r'.k = r.k ∧ r'.window = r.window ∧ r'.stores = r.stores ∧ r'.pushes = r.pushes ∧ r'.emits = r.emits

/-- R355, R356, R359: the lane instructions write the lanes of qD that K selects and cost 1 h; `pfxa` adds 64-bit pairs; the
comparisons and `pmask` write the lanes of kD that K selects, and nothing where D is k0; `psel` writes every lane. -/
def Obligations.PitchArithmetic : Prop :=
  ∀ (s : State) (p : Nat) (r : PitchRun) (d a b : Fin 16) (k e : Fin 4) (m12 : BitVec 12) (m20 : BitVec 20) (m16 : BitVec 16)
    (n : Fin 16), PitchReady s p r →
    let x := fun i => r.lane a i
    let y := fun i => r.lane b i
    let m := r.mask k
    let gives := fun (i : Instr) (m : BitVec 16) (f : Nat → BitVec 32) => pitchGives i s p r 1 fun r' => pitchWrites r r' d m f
    let pair := fun j : Nat => (x (2 * j + 1) ++ x (2 * j)) + (y (2 * j + 1) ++ y (2 * j))
    let tests := fun (i : Instr) (f : Nat → Bool) => pitchGives i s p r 1 fun r' =>
      (∀ j < 16, (r'.mask e).getLsbD j = if m.getLsbD j && decide (e ≠ 0) then f j else (r.mask e).getLsbD j) ∧
      (∀ o : Fin 4, o ≠ e → r'.mask o = r.mask o) ∧ r'.q = r.q ∧ r'.window = r.window
    gives (.padd d a b k) m (fun i => x i + y i) ∧ gives (.psub d a b k) m (fun i => x i - y i) ∧
    gives (.pmul d a b k) m (fun i => BitVec.ofNat 32 ((x i).toNat * (y i).toNat)) ∧
    gives (.pvand d a b k) m (fun i => x i &&& y i) ∧ gives (.pvor d a b k) m (fun i => x i ||| y i) ∧
    gives (.pvxor d a b k) m (fun i => x i ^^^ y i) ∧
    gives (.pshl d a b k) m (fun i => BitVec.ofNat 32 ((x i).toNat * 2 ^ ((y i).toNat % 32))) ∧
    gives (.pshr d a b k) m (fun i => BitVec.ofNat 32 ((x i).toNat / 2 ^ ((y i).toNat % 32))) ∧
    gives (.psra d a b k) m (fun i => BitVec.ofInt 32 ((x i).toInt / 2 ^ ((y i).toNat % 32))) ∧
    gives (.pmin d a b k) m (fun i => if (x i).toInt ≤ (y i).toInt then x i else y i) ∧
    gives (.pmax d a b k) m (fun i => if (x i).toInt ≤ (y i).toInt then y i else x i) ∧
    gives (.pmaxn d a b k) m (fun i => if (x i).toNat ≤ (y i).toNat then y i else x i) ∧
    (∃ m', (∀ j < 8, m'.getLsbD (2 * j) = m.getLsbD (2 * j) ∧ m'.getLsbD (2 * j + 1) = m.getLsbD (2 * j)) ∧
      gives (.pfxa d a b k) m' (fun i => BitVec.ofNat 32 ((pair (i / 2)).toNat / 2 ^ (32 * (i % 2))))) ∧
    gives (.paddi d a k m12) m (fun i => x i + BitVec.ofInt 32 m12.toInt) ∧
    gives (.pmovi d k m20) m (fun _ => BitVec.ofInt 32 m20.toInt) ∧
    gives (.psel d a b k) (BitVec.allOnes 16) (fun i => if m.getLsbD i then x i else y i) ∧
    gives (.pbcl d a k n) m (fun _ => x n.val) ∧
    tests (.pceq e a b k) (fun i => x i == y i) ∧ tests (.pclt e a b k) (fun i => decide ((x i).toInt < (y i).toInt)) ∧
    tests (.pcltn e a b k) (fun i => decide ((x i).toNat < (y i).toNat)) ∧
    tests (.pmask e k m16) (fun i => m16.getLsbD i) ∧
    pitchGives .pnop s p r 1 (fun r' => pitchWrites r r' d 0 (fun _ => 0))

/-- A pitch instruction of a cost traps, with a cause and an INFO: its own, or cause 1 with too little budget (R358). -/
def pitchTraps (i : Instr) (s : State) (p : Nat) (r : PitchRun) (cost cause info : Nat) : Prop :=
  (r.budget < cost → exec i s = .next (s.pitchTrap p r 1 0)) ∧
  (cost ≤ r.budget → exec i s =
    .next (({ s with fresh := s.fresh + 1 } : State).pitchTrap p { r with budget := r.budget - cost } cause info))

/-- R353 to R356, R358: packet and flow-state access. `pldp` and `pstp` move words between a register and the packet window and
trap, with cause 2 and the first bad offset, past its end; `phdr` gives a header value; `pldf` and `pldfx` load a half of a flow's
state, or trap with cause 6 when it holds an error; `pstf` and `pstfx` note a store for the terminal; another flow must be valid
and of the kernel's job, or cause 3 traps.
R354, R356, R358: control and what leaves a kernel. A branch goes forward by its offset; `prepn` repeats the words after it;
`penq` and `pemit` note an entry and a packet for the terminal, or trap: cause 4 for a queue that is not of the flow's context, 2
for a packet longer than the window, 5 for one to a package outside the job or a port that is not there. `pfwd` and `pdrop` trap
with cause 7 when a queue lacks room; else they end the kernel: its stores, its entries and its packets take effect together, the
packet goes on with its window, as its transport headers direct, or is dropped, and the processor takes the packet that has waited
longest.
The cost of a flow-state load within its 4 to 8 h is free (log entry 49). -/
def Obligations.PitchMemoryAndControl : Prop :=
  (∀ (s : State) (p : Nat) (r : PitchRun) (d a : Fin 16) (k c : Fin 4) (o : BitVec 12) (h : Bool), PitchReady s p r →
    let off := 4 * o.toNat
    let m := r.mask k
    let word := fun l : List Byte => BitVec.ofNat 32 (leNat (l.take 4))
    let inside := ∀ i < 16, m.getLsbD i = true → off + 4 * i + 4 ≤ r.window.length
    let f := (r.lane a 0).toNat % 2 ^ 12
    let good := (s.flow (p / 2) f).valid = true ∧ (s.flow (p / 2) f).job = (s.flow (p / 2) r.flow).job
    let loads := fun (i : Instr) (fl : Nat) =>
      (s.poisonAt (.flow (p / 2) fl h.toNat) = none → pitchGives i s p r (loadCost s p) fun r' =>
        pitchWrites r r' d m fun i => word (readBytes (s.flow (p / 2) fl).state (64 * h.toNat + 4 * i) 4)) ∧
      (s.poisonAt (.flow (p / 2) fl h.toNat) ≠ none → pitchTraps i s p r (loadCost s p) 6 fl)
    let stores := fun (i : Instr) (fl : Nat) => pitchGives i s p r 1 fun r' =>
      r'.stores = r.stores ++ [{ flow := fl, half := h.toNat, mask := m, data := r.lanes d }] ∧ r'.q = r.q ∧ r'.k = r.k ∧
      r'.window = r.window
    (inside → pitchGives (.pldp d k o) s p r 4 (fun r' => pitchWrites r r' d m fun i => word (r.window.drop (off + 4 * i))) ∧
      pitchGives (.pstp d k o) s p r 1 (fun r' => r'.window.length = r.window.length ∧ r'.q = r.q ∧ r'.k = r.k ∧
        r'.stores = r.stores ∧ (∀ i < 16, m.getLsbD i = true → word (r'.window.drop (off + 4 * i)) = r.lane d i) ∧
        (∀ j, (∀ i < 16, m.getLsbD i = true → j < off + 4 * i ∨ off + 4 * i + 4 ≤ j) → r'.window[j]? = r.window[j]?))) ∧
    (∀ i < 16, m.getLsbD i = true → r.window.length < off + 4 * i + 4 →
      (∀ j < i, m.getLsbD j = true → off + 4 * j + 4 ≤ r.window.length) →
      pitchTraps (.pldp d k o) s p r 4 2 (off + 4 * i) ∧ pitchTraps (.pstp d k o) s p r 1 2 (off + 4 * i)) ∧
    pitchGives (.phdr d k c) s p r 1 (fun r' => pitchWrites r r' d m fun _ =>
      if c = 0 then BitVec.ofNat 32 r.window.length else if c = 1 then BitVec.ofNat 32 r.pkt.srcPkg
      else if c = 2 then BitVec.ofNat 32 r.pkt.job else r.seq) ∧
    (4 ≤ loadCost s p ∧ loadCost s p ≤ 8) ∧
    loads (.pldf d k h) r.flow ∧ stores (.pstf d k h) r.flow ∧
    (good → loads (.pldfx d a k h) f ∧ stores (.pstfx d a k h) f) ∧
    (¬ good → pitchTraps (.pldfx d a k h) s p r (loadCost s p) 3 f ∧ pitchTraps (.pstfx d a k h) s p r 1 3 f)) ∧
  (∀ (s : State) (p : Nat) (r : PitchRun) (a : Fin 16) (k : Fin 4) (o : BitVec 12) (n l : Fin 64) (q : Fin 256),
    PitchReady s p r →
    let x := s.flow (p / 2) r.flow
    let owned := ∃ c, s.ctxOfJob x.job = some c ∧ s.ownsQueue c q.val = true
    let len := 64 * (n.val + 1)
    let sendable := s.inJob x.job (x.f 80 75) = true ∧ s.ports.getLsbD (x.f 84 81) = true
    let same := fun r' : PitchRun => r'.q = r.q ∧ r'.k = r.k ∧ r'.window = r.window ∧ r'.stores = r.stores
    let runs := fun (i : Instr) (ok : PitchRun → Prop) =>
      (r.budget < 1 → exec i s = .next (s.pitchTrap p r 1 0)) ∧
      (1 ≤ r.budget → ∃ s' r', exec i s = .next s' ∧ (s'.pitch p).run = some r' ∧ r'.budget = r.budget - 1 ∧ same r' ∧
        r'.pushes = r.pushes ∧ r'.emits = r.emits ∧ s'.flows = s.flows ∧ s'.queues = s.queues ∧ ok r')
    (r.mask k ≠ 0 → runs (.pbany k o) fun r' => r'.pc = r.pc + o.toNat ∧ r'.rep = r.rep) ∧
    (r.mask k = 0 → runs (.pbany k o) fun r' => r'.pc = r.advance.pc ∧ r'.rep = r.advance.rep) ∧
    runs (.pj o) (fun r' => r'.pc = r.pc + o.toNat ∧ r'.rep = r.rep) ∧
    runs (.prepn n l) (fun r' => r'.pc = r.pc + 1 ∧ (1 ≤ l.val → r'.rep = some (r.pc + 1, l.val, n.val + 1))) ∧
    (owned → pitchGives (.penq a q) s p r 1 fun r' => same r' ∧ r'.emits = r.emits ∧
      r'.pushes = r.pushes ++ [(q.val, BitVec.ofNat 64 ((r.lane a 0).toNat + 2 ^ 32 * (r.lane a 1).toNat))]) ∧
    (¬ owned → pitchTraps (.penq a q) s p r 1 4 q.val) ∧
    (len ≤ r.window.length → sendable →
      pitchGives (.pemit n) s p r 2 fun r' => same r' ∧ r'.pushes = r.pushes ∧ r'.emits = r.emits ++ [r.window.take len]) ∧
    (len ≤ r.window.length → ¬ sendable → pitchTraps (.pemit n) s p r 2 5 0) ∧
    (r.window.length < len → pitchTraps (.pemit n) s p r 2 2 r.window.length)) ∧
  (∀ (s : State) (p : Nat) (r : PitchRun), PitchReady s p r →
    let x := s.flow (p / 2) r.flow
    let stored := r.stores.foldl (fun s e => s.storeFlow (p / 2) e) ({ s with fresh := s.fresh + 1 } : State)
    let pushed := r.pushes.foldl (fun s e => s.queueAppend e.1 e.2) stored
    let sent : List Egress := r.emits.map fun b =>
      { pkg := x.f 80 75, port := some (x.f 84 81), rod := x.f 85 85 == 1, flow := none, hdr := none, bytes := b }
    let kept : State := { pushed with egress := pushed.egress ++ sent }
    (∀ q, s.fullQueue r = some q → pitchTraps .pfwd s p r 2 7 q ∧ pitchTraps .pdrop s p r 2 7 q) ∧
    (s.fullQueue r = none → r.budget < 2 →
      exec .pfwd s = .next (s.pitchTrap p r 1 0) ∧ exec .pdrop s = .next (s.pitchTrap p r 1 0)) ∧
    (s.fullQueue r = none → 2 ≤ r.budget →
      exec .pdrop s = .next (kept.endRun p) ∧
      (r.pkt.hdr = none → exec .pfwd s = .next (({ kept with delivered :=
        kept.delivered ++ [(p / 2, { r.pkt with payload := r.window })] } : State).endRun p)) ∧
      (∀ h, r.pkt.hdr = some h → h.pkg ≠ s.pkgIndex →
        let out : Egress := { pkg := h.pkg, port := none, rod := r.pkt.mode == .rod, flow := r.pkt.walkFlow,
                              hdr := some h, bytes := r.window }
        exec .pfwd s = .next (({ kept with egress := kept.egress ++ [out] } : State).endRun p)) ∧
      (∀ h c, r.pkt.hdr = some h → h.pkg = s.pkgIndex → (s.lrec h.lrec).ctx = some c → s.jobOf c = h.job →
        ∃ y : Xfer, y.job = h.job ∧ y.lrec = h.lrec ∧ y.wid = h.wid ∧ y.addr = h.addr ∧ y.op = h.op ∧ y.rcnt = h.rcnt ∧
          y.bytes = r.window ∧ y.sender = none ∧ exec .pfwd s = .next (({ kept with
            xfers := kept.xfers ++ [y], nextXfer := kept.nextXfer + 1 } : State).endRun p)) ∧
      (∀ h, r.pkt.hdr = some h → h.pkg = s.pkgIndex →
        ((s.lrec h.lrec).ctx = none ∨ ∃ c, (s.lrec h.lrec).ctx = some c ∧ s.jobOf c ≠ h.job) →
        exec .pfwd s = .next (kept.endRun p)))) ∧
  (∀ (s : State) (p : Nat), Assoc.wf Pitch.start s.pitches = true →
    let x := s.pitch p
    (x.queue = [] → (s.endRun p).pitch p = { x with run := none } ∧ (s.endRun p).flows = s.flows) ∧
    (∀ f pkt rest, x.queue = (f, pkt) :: rest → ∃ r, (s.endRun p).pitch p = { x with queue := rest, run := some r } ∧
      r.pkt = pkt ∧ r.flow = f ∧ r.window = pkt.payload ∧ r.pc = (s.flow (p / 2) f).entry ∧
      r.budget = (s.flow (p / 2) f).budget ∧ r.seq = (s.flow (p / 2) f).seq ∧ r.stores = [] ∧ r.pushes = [] ∧ r.emits = []))

/-! ### Commands, rings and registers -/

/-- A management command can run: ring 0 moves, and boot has not failed (R402, R406). -/
def onMgmt (s : State) : Prop := s.cur = .ring 0 ∧ s.bootFail = false

/-- A command of a context can run: ring `n` of context `c` moves (R402, R404). -/
def onRing (s : State) (n c : Nat) : Prop :=
  s.cur = .ring n ∧ n ≠ 0 ∧ s.bootFail = false ∧ (s.ringAt n).context = c ∧ Assoc.has s.ctxs c = true

/-- A command completes in `s1`, with a status and a result in its completion entry. -/
def answers (i : Instr) (s s1 : State) (n : Nat) (tag : BitVec 16) (status : Nat) (result : Word) : Prop :=
  exec i s = .next (s1.postCompletion n tag status result)

/-- A command does not complete yet: its ring waits for it with HEAD as it was, and no completion is posted. -/
def ringWaits (i : Instr) (s : State) (n : Nat) : Prop :=
  ∃ s', exec i s = .next s' ∧ (s'.ringAt n).busy = true ∧ (s'.ringAt n).head = (s.ringAt n).head ∧ s'.hostMem = s.hostMem

/-- R73, R76, R77, R85, R88 to R90, R395, R401: the commands of launch records, queues and tasks. A launch whose end stands queued
for the CP is Done to a `REC_CANCEL` (R399). -/
def Obligations.LaunchCommands : Prop :=
  ∀ (s : State) (n c : Nat) (tag : BitVec 16) (x y z v : Word) (k : Fin 17),
    let lr := x.toNat
    (onMgmt s → 1 ≤ y.toNat → x.toNat + y.toNat ≤ 4096 →
      let range := fun j : Nat => x.toNat ≤ j ∧ j < x.toNat + y.toNat
      (s.hasCtx z = true → (∀ j, range j → (s.lrec j).state = .free) → Assoc.wf 0 s.counters = true →
        ∃ s1 : State, answers (.recBind tag x y z) s (s1.runCp cpFuel) 0 tag 0 0 ∧
        (∀ j, range j → s1.lrec j = { LaunchRec.free with ctx := some z.toNat, state := .idle } ∧ s1.counter j = 0) ∧
        (∀ j, ¬ range j → s1.lrec j = s.lrec j ∧ s1.counter j = s.counter j)) ∧
      (s.hasCtx z = true → (∃ j, range j ∧ (s.lrec j).state ≠ .free) → answers (.recBind tag x y z) s s 0 tag 2 0) ∧
      ((∀ j, range j → (s.lrec j).live = false) → Assoc.wf LaunchRec.free s.recs = true →
        ((∀ e ∈ s.tasks, ¬ range e.2.lr) → ∃ s1, answers (.recFree tag x y) s s1 0 tag 0 0 ∧
          (∀ j, range j → s1.lrec j = LaunchRec.free) ∧ (∀ j, ¬ range j → s1.lrec j = s.lrec j)) ∧
        ((∃ e ∈ s.tasks, range e.2.lr) → ringWaits (.recFree tag x y) s 0))) ∧
    (onMgmt s → lr < 256 → s.hasCtx y = true → 4 ≤ k.val → z.toNat ≤ 1 →
      ∃ s1 w, answers (.wqConfig tag x y (BitVec.ofNat 64 k.val) z) s s1 0 tag 0 0 ∧ Assoc.find s1.queues lr = some w ∧
        w.ctx = y.toNat ∧ w.k = k.val ∧ w.fixed = (z == 1) ∧ w.entries = [] ∧ w.taken = 0) ∧
    (onRing s n c →
      (lr < 4096 → answers (.recWrite tag x y 1 z) s (s.patch lr c y.toNat (BitVec.ofNat 64 (leNat (s.hostRead z.toNat 8)))).1 n tag
        (s.patch lr c y.toNat (BitVec.ofNat 64 (leNat (s.hostRead z.toNat 8)))).2 0 ∧
        answers (.recWrite tag x y 0 z) s (s.setErr lr c 13) n tag 13 0) ∧
      (lr < 4096 → answers (.recArm tag x) s ((s.arm lr c).1.runCp cpFuel) n tag (s.arm lr c).2 0) ∧
      (let l := (List.range y.toNat).map (fun k => leNat (s.hostRead (z.toNat + 2 * k) 2));
        1 ≤ y.toNat → y.toNat ≤ 256 → (∀ j ∈ l, j < 4096) → s.firstRefused c l [] = none →
        answers (.graphArm tag y z) s ((l.foldl State.armRec s).runCp cpFuel) n tag 0 0) ∧
      (lr < 4096 → (s.lrec lr).ctx = some c → (s.lrec lr).live = true → s.completes lr = true →
        answers (.recCancel tag x) s (s.setErr lr c 2) n tag 2 0) ∧
      (lr < 4096 → (s.lrec lr).ctx = some c → (s.lrec lr).live = true → s.completes lr = false →
        ((s.stopLaunch lr).tasksOf lr = [] → ∃ s1, answers (.recCancel tag x) s s1 n tag 0 0 ∧
          (s1.lrec lr).state = .failed ∧ (s1.lrec lr).err = 7 ∧ (∀ w ∈ s1.cpq, w.record ≠ lr) ∧ s1.mem = s.mem) ∧
        ((s.stopLaunch lr).tasksOf lr ≠ [] → ringWaits (.recCancel tag x) s n)) ∧
      (lr < 4096 → (s.lrec lr).ctx ≠ some c → answers (.recCancel tag x) s s n tag 1 0 ∧
        answers (.launchStats tag x y) s s n tag 1 0 ∧ answers (.taskResume tag x y) s s n tag 1 0) ∧
      (∀ w, lr < 256 → Assoc.find s.queues lr = some w → w.ctx = c →
        (w.entries.length < 2 ^ w.k → ∃ s1, answers (.wqPush tag x v) s s1 n tag 0 0 ∧
          Assoc.find s1.queues lr = some { w with entries := w.entries ++ [v] }) ∧
        (2 ^ w.k ≤ w.entries.length → answers (.wqPush tag x v) s s n tag 2 0)) ∧
      (∀ tid t, lr < 4096 → (s.lrec lr).ctx = some c →
        (s.tasks.find? fun e => e.2.lr == lr && e.2.wid == y && e.2.life == .halted) = some (tid, t) →
        let s0 := s.setTask tid { t with life := .cut }
        (s0.pickCore t.die t.lr t.prio t.tt t.lots = none → answers (.taskResume tag x y) s (s0.setErr lr c 0) n tag 0 0) ∧
        (∀ core, s0.pickCore t.die t.lr t.prio t.tt t.lots = some core → ∃ s1 t1, answers (.taskResume tag x y) s s1 n tag 0 0 ∧
          Assoc.find s1.tasks tid = some t1 ∧ t1.life = (if t.ending then .ending else .running) ∧ t1.core = core ∧
          t1.die = t.die ∧ t1.kq = t.kq ∧ (s1.lrec lr).err = 0)) ∧
      (lr < 4096 → (s.lrec lr).ctx = some c → (∀ e ∈ s.tasks, e.2.lr = lr → e.2.wid = y → e.2.life ≠ .halted) →
        answers (.taskResume tag x y) s (s.setErr lr c 2) n tag 2 0) ∧
      (lr < 4096 → (s.lrec lr).ctx = some c → Assoc.wf 0 s.hostMem = true → ∃ s1, answers (.launchStats tag x y) s s1 n tag 0 0 ∧
        let r := s.lrec lr
        s1.hostRead y.toNat 32 = toBytes 32 (r.epoch.toNat + r.retired % 2 ^ 64 * 2 ^ 64 + r.traps % 2 ^ 32 * 2 ^ 128 +
          r.cuts % 2 ^ 32 * 2 ^ 160 + r.held % 2 ^ 64 * 2 ^ 192)))

/-- The kind of a command (R404): whether it is a management command, whether it runs after a failed boot (R406), and its tag. -/
def commandKind : Instr → Option (Bool × Bool × BitVec 16)
  | .recBind tag _ _ _ | .recFree tag _ _ | .wqConfig tag _ _ _ _ | .ctxCreate tag _ _ _ _ | .ctxDestroy tag _ | .allow tag _ _
  | .stripe tag _ _ | .image tag _ _ _ _ _ _ | .evq tag _ _ _ | .bind tag _ _ _ | .physWrite tag _ _ _ | .physRead tag _ _ _
  | .psrWrite tag _ _ _ _ | .classTarget tag _ _ | .opPoint tag _ _ | .flowWrite tag _ _ _ _ _ | .classify tag _ _ _ _ _
  | .kernelLoad tag _ _ _ _ _ | .errRead tag _ _ => some (true, false, tag)
  | .configRead tag _ | .attest tag _ _ => some (true, true, tag)
  | .recWrite tag _ _ _ _ | .recArm tag _ | .graphArm tag _ _ | .recCancel tag _ | .wqPush tag _ _ | .tlbInval tag _ _
  | .pageMove tag _ _ | .memWrite tag _ _ _ | .memRead tag _ _ _ | .taskResume tag _ _ | .launchStats tag _ _ =>
    some (false, false, tag)
  | _ => none

/-- R402, R403, R404: a completion entry holds the tag, the status, PHASE, the advanced HEAD and the result at the entry of the
completion ring that HEAD names, HEAD advances, and no other byte changes. Every management command on another ring is refused with
status 11, every other command on ring 0, or on a ring without a context, with 13, any but `CONFIG_READ` and `ATTEST` after a failed
boot with 13 (R406), and an undefined OP with 12.
R68, R62, R93, R247, R249, R259, R301, R323, R353, R357, R383, R387, R404: the commands of contexts, bindings, translation,
the weighmaster, operating points and ports. A die that a task holds at nominal keeps its point and takes the host's (R13; the
model's reading, log entry 32). Codes for operands no rule gives a range are the model's (log entries 29 to 32). -/
def Obligations.ManagementAndCompletions : Prop :=
  ((∀ (s : State) (n : Nat) (tag : BitVec 16) (status : Fin 32) (result : Word),
    Assoc.wf 0 s.hostMem = true → Assoc.wf Ring.start s.rings = true →
    let r := s.ringAt n
    let size := 2 ^ (r.live.2.2.toNat % 32)
    let a := (r.live.2.1.toNat + 16 * (r.head.toNat % size)) % 2 ^ 51
    let phase := if r.head.toNat / size % 2 = 0 then 1 else 0
    let s' := s.postCompletion n tag status.val result
    readBytes s'.hostMem a 16 = toBytes 16 (tag.toNat + 2 ^ 16 * status.val + 2 ^ 21 * phase +
      2 ^ 32 * ((r.head + 1).toNat % 2 ^ 32) + 2 ^ 64 * result.toNat) ∧
    (∀ x, x < a ∨ a + 16 ≤ x → Assoc.get 0 s'.hostMem x = Assoc.get 0 s.hostMem x) ∧
    (s'.ringAt n).head = r.head + 1 ∧ (s'.ringAt n).tail = r.tail ∧ (s'.ringAt n).busy = false ∧ s'.mem = s.mem ∧
    s'.tasks = s.tasks) ∧
  (∀ (s : State) (n : Nat) (tag op : BitVec 16) (x y : Word),
    s.cur = .ring n →
    (∀ i mgmt failed, commandKind i = some (mgmt, failed, tag) →
      (s.bootFail = true → failed = false → answers i s s n tag 13 0) ∧
      ((s.bootFail = false ∨ failed = true) →
        (mgmt = true → n ≠ 0 → answers i s s n tag 11 0) ∧
        (mgmt = false → (n = 0 ∨ Assoc.has s.ctxs (s.ringAt n).context = false) → answers i s s n tag 13 0))) ∧
    (n = 0 → s.bootFail = true → (∃ s1, answers (.configRead tag x) s s1 0 tag 0 0) ∧ ∃ s1, answers (.attest tag x y) s s1 0 tag 0 0) ∧
    answers (.unsupportedCommand tag op) s s n tag (if s.bootFail then 13 else 12) 0)) ∧
  (∀ (s : State) (n c : Nat) (tag : BitVec 16) (x y z v u h : Word) (k : Ctx),
    (onMgmt s →
      (x.toNat < 0xFFFF → y.toNat < 2 ^ 16 → z.toNat % 2 ^ 15 = 0 → z.toNat < 2 ^ 52 → v.toNat < 2 ^ 16 →
        (s.hasCtx x = false → ∃ s1 k1, answers (.ctxCreate tag x y z v) s s1 0 tag 0 0 ∧ Assoc.find s1.ctxs x.toNat = some k1 ∧
          k1.asid = y.toNat ∧ k1.root = z.toNat ∧ k1.job = v.toNat ∧ k1.allow = 0 ∧ k1.vdies = [] ∧ k1.stripe = 0 ∧ k1.evq = none) ∧
        (s.hasCtx x = true → answers (.ctxCreate tag x y z v) s s 0 tag 2 0)) ∧
      (s.hasCtx x = false → answers (.ctxDestroy tag x) s s 0 tag 13 0 ∧ answers (.allow tag x 1) s s 0 tag 13 0 ∧
        answers (.stripe tag x 1) s s 0 tag 13 0 ∧ answers (.evq tag x 0 4) s s 0 tag 13 0) ∧
      (s.hasCtx x = true → (∀ e ∈ s.recs, e.2.ctx = some x.toNat → e.2.live = false) → (s.ctxs.map (·.1)).Pairwise (· < ·) →
        ((∀ e ∈ s.tasks, e.2.ctx ≠ x.toNat) → ∃ s1, answers (.ctxDestroy tag x) s s1 0 tag 0 0 ∧ s1.hasCtx x = false ∧
          (∀ e ∈ s1.recs, e.2.ctx ≠ some x.toNat) ∧ (∀ e ∈ s1.queues, e.2.ctx ≠ x.toNat) ∧ s1.tasks = s.tasks) ∧
        ((∃ e ∈ s.tasks, e.2.ctx = x.toNat) → ringWaits (.ctxDestroy tag x) s 0)) ∧
      (Assoc.find s.ctxs x.toNat = some k →
        (y.toNat < 256 → ∃ s1, answers (.allow tag x y) s s1 0 tag 0 0 ∧
          Assoc.find s1.ctxs x.toNat = some { k with allow := BitVec.ofNat 8 y.toNat }) ∧
        (let s' := s.modCtx x.toNat (fun k => { k with stripe := y.toNat });
          y.toNat ≤ 8 → s'.stripesFit (s'.ctxs.map fun e => e.2.stripe).sum = true → ∃ s1, answers (.stripe tag x y) s s1 0 tag 0 0 ∧
          Assoc.find s1.ctxs x.toNat = some { k with stripe := y.toNat }) ∧
        (z.toNat % (8 * 65536) = 0 → h.toNat ≤ 2 ^ 20 →
          (∀ d < 8, s.pagesAll k.root (y.toNat + d * (z.toNat / 8)) (z.toNat / 8) (fun pa => !isHostPa pa && stackOf pa == d) = true) →
          s.pagesAll k.root v.toNat u.toNat isHostPa = true → ∃ s1, answers (.image tag x y z v u h) s s1 0 tag 0 0 ∧
          Assoc.find s1.ctxs x.toNat = some { k with image := some (y.toNat, z.toNat, v.toNat, u.toNat), interval := h.toNat }) ∧
        (y.toNat % 4096 = 0 → y.toNat < 2 ^ 51 → 4 ≤ z.toNat → z.toNat ≤ 16 → k.lost = 0 → ∃ s1,
          answers (.evq tag x y z) s s1 0 tag 0 0 ∧
          Assoc.find s1.ctxs x.toNat = some { k with evq := some (y.toNat, z.toNat), produced := 0 }) ∧
        (x.toNat < 0xFFFF →
          (y.toNat < 8192 → (s.phaser y.toNat).ctx = none → ∃ s1, answers (.bind tag 0 y x) s s1 0 tag 0 0 ∧
            s1.phaser y.toNat = { Phaser.unbound with ctx := some x.toNat }) ∧
          (y.toNat < 256 → (s.phaser (8192 + y.toNat)).ctx = none → ∃ s1, answers (.bind tag 1 y x) s s1 0 tag 0 0 ∧
            s1.phaser (8192 + y.toNat) = { Phaser.unbound with ctx := some x.toNat }) ∧
          (y.toNat < 16 → (s.barrier y.toNat).ctx = none → (s.barrier y.toNat).lr = none → ∃ s1,
            answers (.bind tag 2 y x) s s1 0 tag 0 0 ∧ s1.barrier y.toNat = { Superstep.unbound with ctx := some x.toNat }) ∧
          (y.toNat < 60 → Assoc.find s.auctions y.toNat = none → ∃ s1, answers (.bind tag 3 y x) s s1 0 tag 0 0 ∧
            Assoc.find s1.auctions y.toNat = some x.toNat) ∧
          (∀ o, y.toNat < 60 → Assoc.find s.auctions y.toNat = some o → o ≠ x.toNat →
            answers (.bind tag 3 y x) s s 0 tag 2 0))) ∧
      (x.toNat < 65536 → 1 ≤ y.toNat → y.toNat ≤ 5 →
        let g := s.govClass (s.psr (psrKey x.toNat y.toNat)).cls
        (g.due = [] ∨ (∃ e, (s.ringAt 0).psrWait = some e ∧ e ≠ g.ended) →
          let w := s.psrWrite (psrKey x.toNat y.toNat) (z.toNat + 2 ^ 64 * v.toNat)
          answers (.psrWrite tag x y z v) s w.1 0 tag w.2 0) ∧
        (g.due ≠ [] → (∀ e, (s.ringAt 0).psrWait = some e → e = g.ended) → ringWaits (.psrWrite tag x y z v) s 0)) ∧
      (x.toNat < 16 → 1 ≤ y.toNat → y.toNat ≤ 65535 → Assoc.wf GovClass.start s.classes = true →
        ((s.govClass x.toNat).due = [] → (s.govClass x.toNat).arrivals < y.toNat → ∃ s1,
          answers (.classTarget tag x y) s s1 0 tag 0 0 ∧
          s1.govClass x.toNat = { s.govClass x.toNat with target := y.toNat, newTarget := none }) ∧
        ((s.govClass x.toNat).due ≠ [] → ∃ s1, answers (.classTarget tag x y) s s1 0 tag 0 0 ∧
          s1.govClass x.toNat = { s.govClass x.toNat with newTarget := some y.toNat })) ∧
      (∀ d : Fin 8, y.toNat < 3 → s.holdsDie d.val = false → (s.die d.val).hot = false → (s.die d.val).capped = false →
        Assoc.wf Die.start s.dies = true → ∃ s1, answers (.opPoint tag (BitVec.ofNat 64 (2 ^ d.val)) y) s s1 0 tag 0 0 ∧
          (s1.die d.val).hostPoint = y.toNat ∧ (s1.die d.val).point = y.toNat ∧
          (∀ e, e ≠ d.val → s1.die e = s.die e)) ∧
      (∀ d : Fin 8, y.toNat < 3 → s.holdsDie d.val = true → Assoc.wf Die.start s.dies = true →
        ∃ s1, answers (.opPoint tag (BitVec.ofNat 64 (2 ^ d.val)) y) s s1 0 tag 0 0 ∧
          s1.die d.val = { s.die d.val with hostPoint := y.toNat } ∧ (∀ e, e ≠ d.val → s1.die e = s.die e)) ∧
      (let f : Flow := { ctl := BitVec.ofNat 128 (z.toNat + 2 ^ 64 * v.toNat), state := writeBytes [] 0 (s.hostRead u.toNat 128) };
        x.toNat < 16 → y.toNat < 4096 → Assoc.wf { ctl := 0, state := [] } s.flows = true →
        (controlOk f = true → ∃ s1, answers (.flowWrite tag x y z v u) s s1 0 tag 0 0 ∧ s1.flow x.toNat y.toNat = f) ∧
        (controlOk f = false → answers (.flowWrite tag x y z v u) s s 0 tag 13 0)) ∧
      (x.toNat < 16 → y.toNat < 4096 → z.toNat < 65536 → u.toNat < 4096 → ∃ s1, answers (.classify tag x y z v u) s s1 0 tag 0 0 ∧
        Assoc.find s1.classifier (4096 * x.toNat + y.toNat) = some (z.toNat, v.toNat, u.toNat)) ∧
      (x.toNat < 16 → y.toNat < 2 → 1 ≤ u.toNat → 4 * z.toNat + 4 * u.toNat ≤ 65536 → h = 4 * u →
        let bs := s.hostRead v.toNat (4 * u.toNat)
        let ws := (List.range u.toNat).map fun k => leNat ((bs.drop (4 * k)).take 4)
        let p := 2 * x.toNat + y.toNat
        (imageOk ws = false → answers (.kernelLoad tag x y z v h) s s 0 tag 13 0) ∧
        (imageOk ws = true → Assoc.wf 0 (s.pitch p).store = true → Assoc.wf Pitch.start s.pitches = true →
          ∃ s1, answers (.kernelLoad tag x y z v h) s s1 0 tag 0 0 ∧
          (∀ k < u.toNat, Assoc.get 0 (s1.pitch p).store (z.toNat + k) = BitVec.ofNat 32 (ws.getD k 0)) ∧
          (∀ k, (k < z.toNat ∨ z.toNat + u.toNat ≤ k) → Assoc.get 0 (s1.pitch p).store k = Assoc.get 0 (s.pitch p).store k)))) ∧
    (onRing s n c →
      (s.heldIn c x.toNat y.toNat = false → ∃ s1, answers (.tlbInval tag x y) s s1 n tag 0 0 ∧
        ∀ e, e ∈ s1.coreTlb ∨ e ∈ s1.dieTlb → ∀ b ∈ e.2,
          b.asid ≠ s.asidOf c ∨ x.toNat + y.toNat ≤ b.vbase ∨ b.vbase + b.size ≤ x.toNat) ∧
      (s.heldIn c x.toNat y.toNat = true → ringWaits (.tlbInval tag x y) s n) ∧
      (∀ s1, y.toNat < 8 → s.movePage c x.toNat y.toNat (· == 16) = .moved s1 → answers (.pageMove tag x y) s s1 n tag 0 0) ∧
      (∀ s1, y.toNat < 8 → s.movePage c x.toNat y.toNat (· == 16) = .waiting s1 → ∃ s', exec (.pageMove tag x y) s = .next s' ∧
        (s'.ringAt n).busy = true ∧ (s'.ringAt n).head = (s1.ringAt n).head) ∧
      ((8 ≤ y.toNat ∨ s.movePage c x.toNat y.toNat (· == 16) = .refused) → answers (.pageMove tag x y) s s n tag 13 0)))

/-- R372, R404, R405, R408, R410: the commands that copy. A copy inside one 64-byte sector of a working stack moves its bytes
between host memory and HBM5; a virtual one goes piece by piece and gives the bytes moved when a piece does not translate; a copy
into device memory waits while an L1 still holds a sector of it (R379); the configuration record, the error counts and the
attestation go to host memory. -/
def Obligations.MemoryCommands : Prop :=
  ∀ (s : State) (n c : Nat) (tag : BitVec 16) (x y z : Word), Assoc.wf 0 s.hostMem = true → Assoc.wf 0 s.mem = true →
    let one := 1 ≤ y.toNat ∧ x.toNat % 64 + y.toNat ≤ 64
    (onMgmt s →
      (one → s.physRange x.toNat y.toNat = true →
        ((s.recallAll x.toNat).holdersOf x.toNat = [] → ∃ s1, answers (.physWrite tag x y z) s s1 0 tag 0 0 ∧
          readBytes s1.mem x.toNat y.toNat = s.hostRead z.toNat y.toNat ∧ s1.hostMem = s.hostMem) ∧
        ((s.recallAll x.toNat).holdersOf x.toNat ≠ [] → ringWaits (.physWrite tag x y z) s 0) ∧
        (s.poison = [] → ∃ s1, answers (.physRead tag x y z) s s1 0 tag 0 0 ∧
          s1.hostRead z.toNat y.toNat = readBytes s.mem x.toNat y.toNat ∧ s1.mem = s.mem)) ∧
      (s.physRange x.toNat y.toNat = false →
        answers (.physWrite tag x y z) s s 0 tag 13 0 ∧ answers (.physRead tag x y z) s s 0 tag 13 0) ∧
      (∃ s1, answers (.configRead tag x) s s1 0 tag 0 0 ∧
        s1.hostRead x.toNat (max 64 s.config.length) = s.config ++ List.replicate (64 - s.config.length) 0 ∧ s1.mem = s.mem) ∧
      (∃ s1, answers (.errRead tag x y) s s1 0 tag 0 0 ∧
        s1.hostRead x.toNat 80 = (List.range 10).flatMap (fun k => toBytes 8 (Assoc.get 0 s.corrected (k + 1)).toNat) ∧
        s1.corrected = if y = 0 then s.corrected else []) ∧
      (let body := s.hostRead x.toNat 32 ++ s.measurements ++ s.configBytes.take 30
        ∃ s1, answers (.attest tag x y) s s1 0 tag 0 0 ∧ s1.hostRead y.toNat (body.length + 114) =
          body ++ (List.range 114).map (Config.signature body) ∧ s1.mem = s.mem)) ∧
    (onRing s n c → 1 ≤ y.toNat → y.toNat ≤ 2 ^ 30 →
      let pa := fun (s : State) (a : Nat) => s.hubPa c a .write
      let ps := copyPieces x.toNat y.toNat
      let s0 := s.recallPieces pa ps
      let r := s0.copyIn pa z.toNat 0 ps
      let q := s.copyOut (fun s a => s.hubPa c a .read) z.toNat 0 ps
      (s0.piecesHeld pa ps = false →
        answers (.memWrite tag x y z) s r.1 n tag (if r.2.2 then 0 else 13) (if r.2.2 then 0 else BitVec.ofNat 64 r.2.1)) ∧
      (s0.piecesHeld pa ps = true → ∃ s', exec (.memWrite tag x y z) s = .next s' ∧ (s'.ringAt n).busy = true) ∧
      answers (.memRead tag x y z) s q.1 n tag (if q.2.2 then 0 else 13) (if q.2.2 then 0 else BitVec.ofNat 64 q.2.1))

/-- R402, R407, R411: BAR0's rings and the sensors. A doorbell writes TAIL, and one more than the ring's size ahead of HEAD stops the
ring; an enable takes the ring's registers and starts HEAD at 0 where the ring may be enabled; a disable ends it, after a command
that is running; RBASE and CBASE are written while it is disabled; other offsets keep nothing; THERM reads as it stands.
That HEAD and TAIL run freely and when an enable is ignored are the model's reading (log entry 27), and that RCTL keeps the bits that
R402 does not list is its choice (log entry 82). -/
def Obligations.RingsAndRegisters : Prop :=
  ∀ (s : State) (n : Fin 64) (v : Word) (off : Nat) (x : Sensor), Assoc.wf Ring.start s.rings = true →
    let r := s.ringAt n.val
    let bit : Word := 0x8000000000000000
    let leaves := fun (i : Instr) (r' : Ring) => ∃ s', exec i s = .next s' ∧ s'.ringAt n.val = r' ∧
      (∀ k, k ≠ n.val → s'.ringAt k = s.ringAt k) ∧ { s' with rings := s.rings } = s
    let size := fun w : Word => 2 ^ (w.toNat % 32)
    leaves (.doorbell n.val v) { r with tail := v, badTail := r.badTail ||
      (r.enabled && decide (size r.live.2.2 < (v - r.head).toNat)) } ∧
    (r.enabled = false → s.ringAllowed n.val = true → leaves (.ringEnable n.val v)
      { r with rctl := v ||| bit, enabled := true, stopping := false, busy := false, psrWait := none,
               live := (r.rbase, r.cbase, v ||| bit), head := 0,
               badTail := decide (size (v ||| bit) < r.tail.toNat) }) ∧
    (r.enabled = false → s.ringAllowed n.val = false → leaves (.ringEnable n.val v) { r with rctl := v &&& ~~~bit }) ∧
    (r.enabled = true → leaves (.ringEnable n.val v) r) ∧
    (r.enabled = true → r.busy = false → leaves (.ringDisable n.val v) { r with rctl := v &&& ~~~bit, enabled := false }) ∧
    (r.enabled = true → r.busy = true → leaves (.ringDisable n.val v) { r with rctl := v &&& ~~~bit, stopping := true }) ∧
    (r.enabled = false → leaves (.registerWrite (0x1000 + 64 * n.val) v) { r with rbase := v } ∧
      leaves (.registerWrite (0x1000 + 64 * n.val + 8) v) { r with cbase := v }) ∧
    (r.enabled = true → leaves (.registerWrite (0x1000 + 64 * n.val) v) r ∧ leaves (.registerWrite (0x1000 + 64 * n.val + 8) v) r) ∧
    (off < 0x1000 ∨ 0x2000 ≤ off → exec (.registerWrite off v) s = .next s) ∧
    exec (.pldmSensorRead .therm) s = .next { s with sensorRead := s.therm } ∧
    (x ≠ .therm → ∃ y, exec (.pldmSensorRead x) s = .next { s with sensorRead := y, fresh := s.fresh + 1 })

/-! ### Events -/

/-- R149, R148: a fixed-latency result of latency `lat` issued with stall count `w` pends for exactly `lat` cycles of the
issue clock: at the next instruction of its sequencer it has landed when 1 + S ≥ `lat`, and the earlier value is read when not.
`late` empty, and no interlocked result with a landing cycle, say that nothing else lands there.
R147 to R149, R117, R156, R173, R174, R175, R216, R277, R13: a stall count runs out and what lands in it has landed; the next late
write lands in its cycle: a scalar register takes its value, a vector register its lanes under the mask of the write, a predicate the
bits under it and p0 nothing, and the store-port entry reserved for it its operand, in its place; and so does the result of a `tsrld` hit; a `ttake`, `tgive`, pop, push or `tend` that waits has its turn next; the vector unit or the accumulator port is
free, and the task that has been ready longest has its turn next; the clocks of a die run again. -/
def Obligations.ResultsLandInTime : Prop :=
  (∀ (s : State) (tid : Nat) (q : Seq) (t : Task) (w : Stall) (lat : Nat) (d : SReg) (v pc : Word),
    Assoc.find s.tasks tid = some t → RegsOk (t.sq q) → (t.sq q).late = [] → (∀ i ∈ (t.sq q).ilk, i.land = none) → d.code ≠ 0 →
    1 ≤ lat →
    let s1 := (s.result tid q lat d v).complete tid q w pc
    ∀ t1, Assoc.find s1.tasks tid = some t1 →
      (t1.sq q).clk = (t.sq q).clk + 1 ∧ (t1.sq q).stall = w.val ∧ (t1.sq q).pc = pc ∧
      ∀ t2, Assoc.find (s1.expireStall tid q).tasks tid = some t2 →
        (t2.sq q).clk = (t.sq q).clk + 1 + w.val ∧
        (t2.sq q).regAt d.code = if lat ≤ 1 + w.val then v else (t.sq q).regAt d.code) ∧
  ((∀ (s : State) (tid : Nat) (q : Seq) (t : Task), Assoc.find s.tasks tid = some t → t.issues q = true →
    (s.die t.die).halted = false →
    let x := t.sq q
    (∃ s' t', exec (.stallCountExpiry tid q) s = .next s' ∧ Assoc.find s'.tasks tid = some t' ∧
      (t'.sq q).clk = x.clk + x.stall ∧ (t'.sq q).stall = 0 ∧ (t'.sq q).pc = x.pc ∧
      (t'.sq q).late = x.late.dropWhile (fun e => decide (e.land ≤ x.clk + x.stall)) ∧ OnlyTask tid s s') ∧
    (∀ e rest, x.late = e :: rest → (∀ i ∈ x.ilk, i.land = none) → x.clk ≤ e.land → e.land ≤ x.clk + x.stall →
      ∃ s' t', exec (.resultLand tid q) s = .next s' ∧ Assoc.find s'.tasks tid = some t' ∧ (t'.sq q).clk = e.land ∧
        (t'.sq q).stall = x.clk + x.stall - e.land ∧ (t'.sq q).pc = x.pc ∧
        (t'.sq q).late = rest.dropWhile (fun y => decide (y.land ≤ e.land)) ∧ OnlyTask tid s s' ∧
        (∀ c v, e.what = .sreg c v → c ≠ 0 → RegsOk x → (∀ y ∈ rest, e.land < y.land) → (t'.sq q).regAt c = v) ∧
        (∀ n m data, e.what = .vreg n m data → (∀ y ∈ rest, e.land < y.land) → Assoc.wf [] t.v = true →
          Assoc.wf 0 (t.vreg n) = true → Assoc.wf 0 data = true →
          (∀ k < 1024, laneAt (t'.vreg n) k = if m.getLsbD k then laneAt data k else laneAt (t.vreg n) k) ∧
          ∀ j, j ≠ n → t'.vreg j = t.vreg j) ∧
        (∀ n m b, e.what = .preg n m b → (∀ y ∈ rest, e.land < y.land) → Assoc.wf 0 t.p = true →
          (n = 0 → t'.p = t.p) ∧
          (n ≠ 0 → (∀ k < 1024, (t'.preg n).getLsbD k = if m.getLsbD k then b.getLsbD k else (t.preg n).getLsbD k) ∧
            ∀ j, j ≠ n → t'.preg j = t.preg j)) ∧
        (∀ n id op, e.what = .sq n id op → (∀ y ∈ rest, e.land < y.land) → Assoc.wf [] t.storePorts = true →
          t'.storePort n = (t.storePort n).map (fun y => if y.id = id then { y with op := some op } else y) ∧
          ∀ j, j ≠ n → t'.storePort j = t.storePort j)) ∧
    (∀ i c, x.late = [] → x.ilk = [i] → i.land = some c → x.clk ≤ c → c ≤ x.clk + x.stall → i.code ≠ 0 → RegsOk x →
      ∃ s' t', exec (.resultLand tid q) s = .next s' ∧ Assoc.find s'.tasks tid = some t' ∧ (t'.sq q).clk = c ∧
        (t'.sq q).ilk = [] ∧ (t'.sq q).regAt i.code = i.val.getD 0)) ∧
  (∀ (s : State) (tid : Nat) (q : Seq) (t : Task) (r : Wait), Assoc.find s.tasks tid = some t → (t.sq q).wait = some r →
    let again := { s with agenda := .issue tid q :: s.agenda }
    ((∃ p, r = .pop p) ∨ (∃ p, r = .push p) → exec (.portWaitComplete tid q) s = .next again) ∧
    (r = .ttake ∨ r = .tgive → exec (.tokenWaitComplete tid q) s = .next again) ∧
    (r = .tend → q = .k → exec (.taskRetire tid) s = .next again) ∧
    (r = .phaser → exec (.portWaitComplete tid q) s = .next s ∧ exec (.tokenWaitComplete tid q) s = .next s)) ∧
  (∀ (s : State) (die core : Nat) (acc : Bool), Assoc.wf CoreState.start s.cores = true →
    let c := s.core die core
    ∃ s', exec (.vectorUnitOccupancyEnd die core acc) s = .next s' ∧
      s'.core die core = (if acc then { c with accBusy := false } else { c with vecBusy := false }) ∧
      s'.agenda = ((if acc then c.accQ else c.vecQ).take 1).map (fun t => Turn.issue t .c) ++ s.agenda ∧
      s'.tasks = s.tasks ∧ s'.mem = s.mem) ∧
  (∀ (s : State) (die : Nat), Assoc.wf Die.start s.dies = true →
    ∃ s', exec (.operatingPointHaltEnd die) s = .next s' ∧ s'.die die = { s.die die with halted := false } ∧
      { s' with dies := s.dies } = s))

/-- What a turn of a generator or an engine leaves as it was: every other task, and memory. -/
def OthersStand (tid : Nat) (s s' : State) : Prop :=
  (∀ u, u ≠ tid → Assoc.find s'.tasks u = Assoc.find s.tasks u) ∧ s'.mem = s.mem

/-- R221, R245, R257, R258, R264, R375: a generator between operands, whose port is ready and whose request the front accepts, when
it has to pass the front, begins its next operand; a fault or poisoned data halts it before that operand, and a request that does
not stand at the front's head, or needs a page walk that a fence holds, waits. A begun operand is done by the translations of now, or by those with
which it was accepted where a mapping is lost since (R156, R301): a load's is delivered at the end of its port, or its data is
found poisoned and the generator halts; a store's is written and leaves its port, or is held while it meets a reservation, which
HOLDCNT counts. Each operand done counts in the operand count. -/
def Obligations.GeneratorEvents : Prop :=
  ∀ (s : State) (tid : Nat) (t : Task) (g : Fin 8) (a : AgSet), Assoc.find s.tasks tid = some t → s.moves t = true →
    Assoc.wf Gen.start t.gens = true → Assoc.wf [] t.loadPorts = true → Assoc.wf [] t.storePorts = true →
    (t.gen g.val).active = some a →
    let x := t.gen g.val
    let spad := a.par.inSpad (decide (4 ≤ g.val)) x.pos
    let first := (s.core t.die t.core).agQ.head? = some (tid, g.val)
    let ps := a.par.operandPieces (decide (4 ≤ g.val)) x.pos
    (t.life = .running → x.halt = none → x.busy = false → x.stopping = false → t.clear a.after = true →
      t.portReady g.val = true →
      ((ps.any fun y => s.walkHeldBy t a.xl y.va y.len) = true → exec (.agOperandAccept tid g) s = .next s) ∧
      (spad = true → ¬ first → exec (.agOperandAccept tid g) s = .next s) ∧
      ((ps.any fun y => s.walkHeldBy t a.xl y.va y.len) = false → (spad = false ∨ first) →
        (∀ h, s.operandFault t g.val a.par x.pos = some h → h.cause ≠ 5 → ∃ s' t', exec (.agOperandAccept tid g) s = .next s' ∧
          Assoc.find s'.tasks tid = some t' ∧ (t'.gen g.val).halt = some h ∧ (t'.gen g.val).busy = false ∧
          (t'.gen g.val).active = some a ∧ (t'.gen g.val).pos = x.pos ∧ t'.checks = t.checks ∧
          (g.val < 4 ∨ a.par.unp = false →
            t'.gen g.val = { x with halt := some h, busy := false, begun := [], held := decide (g.val < 4) && x.held } ∧
            OthersStand tid s s' ∧ (spad = false → OnlyTask tid s s'))) ∧
        (∀ h, s.operandFault t g.val a.par x.pos = some h → h.cause = 5 → ∃ s' t', exec (.agOperandAccept tid g) s = .next s' ∧
          Assoc.find s'.tasks tid = some t' ∧ (t'.gen g.val).halt = some h ∧
          t'.checks = t.checks ++ [{ array := s.entryPoison t h.addr.toNat (genNeed g.val), cspace := 2, cause := 5,
                                     addr := h.addr }]) ∧
        (∀ code addr, s.operandFault t g.val a.par x.pos = none → g.val < 4 →
          s.operandPoison tid t a.par x.pos = some (code, addr) → ∃ s' t', exec (.agOperandAccept tid g) s = .next s' ∧
          Assoc.find s'.tasks tid = some t' ∧ (t'.gen g.val).halt = some ⟨5, BitVec.ofNat 64 addr⟩ ∧
          t'.checks = t.checks ++ [{ array := code, cspace := 2, cause := 5, addr := BitVec.ofNat 64 addr }] ∧
          OthersStand tid s s') ∧
        (s.operandFault t g.val a.par x.pos = none → (g.val < 4 → s.operandPoison tid t a.par x.pos = none) →
          ∃ s' t', exec (.agOperandAccept tid g) s = .next s' ∧ Assoc.find s'.tasks tid = some t' ∧
            t'.gen g.val = { x with busy := true, begun := (s.partsOf t (genNeed g.val) ps).map (·.pl) } ∧ OthersStand tid s s' ∧
            (spad = true → Assoc.wf CoreState.start s.cores = true →
              (s'.core t.die t.core).agQ = (s.core t.die t.core).agQ.drop 1)))) ∧
    (x.busy = true →
      let parts := s.begunParts t g.val
      (∀ code addr, g.val < 4 → s.partPoison tid t parts = some (code, addr) → ∃ s' t',
        exec (.agOperandComplete tid g) s = .next s' ∧ Assoc.find s'.tasks tid = some t' ∧ t'.loadPorts = t.loadPorts ∧
          t'.checks = t.checks ++ [{ array := code, cspace := 2, cause := 5, addr := BitVec.ofNat 64 addr }] ∧
          (x.stopping = false → (t'.gen g.val).halt = some ⟨5, BitVec.ofNat 64 addr⟩) ∧ OthersStand tid s s') ∧
      (g.val < 4 → s.partPoison tid t parts = none →
        let bs := (s.readParts t parts).1
        ∃ s' t' op, exec (.agOperandComplete tid g) s = .next s' ∧ Assoc.find s'.tasks tid = some t' ∧
          t'.loadPort g.val = t.loadPort g.val ++ [op] ∧ op.mask = BitVec.allOnes 1024 ∧
          (∀ k < 1024, Assoc.get 0 op.data k =
            (if a.par.unp then (a.par.unpack x.pos bs).getD k 0 else BitVec.ofNat 32 (leNat ((bs.drop (4 * k)).take 4)))) ∧
          (t'.gen g.val).ops = (if a.par.operands ≤ x.pos + 1 ∧ x.queued ≠ none then 0 else x.ops + 1) ∧
          (x.pos + 1 < a.par.operands → x.stopping = false →
            (t'.gen g.val).active = some a ∧ (t'.gen g.val).pos = x.pos + 1)) ∧
      (∀ id op rest, 4 ≤ g.val → t.storePort (g.val - 4) = { id := id, op := some op } :: rest →
        (t.partsHeld parts = true → ∃ s' t', exec (.agOperandComplete tid g) s = .next s' ∧
          Assoc.find s'.tasks tid = some t' ∧ t'.gen g.val = { x with held := true } ∧ t'.storePorts = t.storePorts ∧
          t'.holding = true ∧ OthersStand tid s s') ∧
        (t.partsHeld parts = false → a.par.unp = false →
          let stored := if a.par.masked then s.writeMasked tid parts (laneBytes op.data) op.mask
            else s.writeParts tid parts (laneBytes op.data)
          ∃ s' t', exec (.agOperandComplete tid g) s = .next s' ∧ Assoc.find s'.tasks tid = some t' ∧
            t'.storePort (g.val - 4) = rest ∧ s'.mem = stored.mem ∧
            (t'.gen g.val).ops = (if a.par.operands ≤ x.pos + 1 ∧ x.queued ≠ none then 0 else x.ops + 1))))

/-- R269, R271, R272, R274, R278, R279, R297, R371: an engine starts its oldest operation when it has taken its copies and EVT holds
its bits, which it consumes; an
operation with a fault retires, signals nothing and leaves the fault to a join; one `mdld` chunk of at most 4,096 bytes is copied,
and the last one retires the operation, and a chunk that meets a reservation stands with its bytes until that has ended (R221); an
empty copy retires without any access (R48), and a copy chunk writes the image of its elements; a histogram's counts enter the core
histogram, saturating, when it retires. -/
def Obligations.EngineEvents : Prop :=
  (∀ (s : State) (tid : Nat) (t : Task) (e : Engine) (o : EngOp), Assoc.find s.tasks tid = some t → s.moves t = true →
    t.unstarted e = some o →
    (o.job.isPending = false → t.evt &&& o.waitMask = o.waitMask → t.clear o.after = true →
        (∀ b ∈ enginesBefore e, t.starts b = false) →
      ∃ s' t', exec (.engineStart tid e) s = .next s' ∧ Assoc.find s'.tasks tid = some t' ∧
        t'.evt = t.evt &&& ~~~o.waitMask ∧
        t'.eng = t.eng.map (fun x => if x.uid = o.uid then { x with started := true } else x) ∧ OnlyTask tid s s') ∧
    (o.job.isPending = true ∨ t.evt &&& o.waitMask ≠ o.waitMask ∨ t.clear o.after = false →
      exec (.engineStart tid e) s = .next s)) ∧
  (∀ (s : State) (tid : Nat) (t : Task) (e : Engine) (o : EngOp) (f : EngFault), Assoc.find s.tasks tid = some t →
    s.moves t = true → t.running e = some o → o.fault = some f → e = .copy ∨ e = .hist →
    (∀ b, o.block = some b → (t.dropOp o).spadReserved (b + 16) (b + 24) = false) →
    ∃ s' t', exec (if e = .copy then .copyChunk tid else .histRetire tid) s = .next s' ∧ Assoc.find s'.tasks tid = some t' ∧
      t'.eng = t.eng.filter (fun x => x.uid != o.uid) ∧ t'.evt = t.evt ∧
      t'.faults = t.faults ++ [{ engine := some o.engine, seq := o.seq, num := o.num, cls := o.cls, fault := f }]) ∧
  (∀ (s : State) (tid : Nat) (t : Task) (o : EngOp) (src : Word) (dst len : Nat) (bs : List Byte),
    Assoc.find s.tasks tid = some t → s.moves t = true → t.running .copy = some o → o.fault = none →
    o.job = .mdld src dst len → o.kept = none → s.noWalks = false → t.clear o.xl = true → (∀ y ∈ t.eng, y.uid = o.uid → y = o) →
    t.tt.mdd ≤ 8 → dst + len ≤ 4096 * t.tt.mdd → Assoc.wf 0 t.md = true →
    let lo := 4096 * o.pos
    let n := min 4096 (len - lo)
    let chunk : Chunk := { bytes := [(windowAddr (0x140000 + dst + lo), bs)], lossy := 0, last := decide (len ≤ lo + n) }
    s.engineRead tid t (src.toNat + lo) n = .ok bs → 0 < n →
    (t.mdReserved (dst + lo) (dst + lo + n) = true → ∃ s' t', exec (.copyChunk tid) s = .next s' ∧
      Assoc.find s'.tasks tid = some t' ∧ t'.md = t.md ∧ t'.holding = true ∧ s'.mem = s.mem ∧
      t'.eng = t.eng.map (fun y => if y.uid = o.uid then { o with held := true, kept := some chunk } else y)) ∧
    (t.mdReserved (dst + lo) (dst + lo + n) = false → o.block = none →
      ∃ s' t', exec (.copyChunk tid) s = .next s' ∧ Assoc.find s'.tasks tid = some t' ∧
        (∀ k, Assoc.get 0 t'.md k = if dst + lo ≤ k ∧ k < dst + lo + n then bs.getD (k - (dst + lo)) 0 else Assoc.get 0 t.md k) ∧
        (len ≤ lo + n → t'.evt = t.evt ||| o.signal ∧ ∀ y ∈ t'.eng, y.uid ≠ o.uid) ∧
        (lo + n < len → t'.eng =
          t.eng.map (fun y => if y.uid = o.uid then { o with pos := o.pos + 1, kept := none, held := false } else y)) ∧
        s'.mem = s.mem)) ∧
  (∀ (s : State) (tid : Nat) (t : Task) (o : EngOp) (k : Chunk), Assoc.find s.tasks tid = some t → s.moves t = true →
    t.running .copy = some o → o.fault = none → o.kept = some k → s.noWalks = false → t.clear o.xl = true →
    (k.bytes.any fun r => s.rangeHeld t r.1 r.2.length) = false → k.last = false → (∀ src dst len, o.job ≠ .mdld src dst len) →
    ∀ s3, s.writeAll tid t k.bytes = (s3, none) → ∃ s', exec (.copyChunk tid) s = .next s' ∧ s'.mem = s3.mem) ∧
  (∀ (s : State) (tid : Nat) (t : Task) (o : EngOp) (x xl y yl : List Word) (tr sat : Bool) (rnd : Nat),
    Assoc.find s.tasks tid = some t → s.moves t = true → t.running .copy = some o → o.fault = none → o.kept = none →
    s.noWalks = false → t.clear o.xl = true → o.block = none → o.job = .copy x xl y yl tr sat rnd →
    (∀ z ∈ t.eng, z.uid = o.uid → z = o) → ({ tsr := x, tlr := xl } : Tensor).count = 0 →
    ∃ s' t', exec (.copyChunk tid) s = .next s' ∧ Assoc.find s'.tasks tid = some t' ∧ t'.evt = t.evt ||| o.signal ∧
      t'.eng = t.eng.filter (fun z => z.uid != o.uid) ∧ OnlyTask tid s s') ∧
  (∀ (s s1 s2 s3 : State) (tid : Nat) (t t2 : Task) (o : EngOp) (x xl y yl : List Word) (tr sat : Bool) (rnd : Nat) (e : Enc)
    (r : Rnd) (es : List Elem), Assoc.find s.tasks tid = some t → s.moves t = true → t.running .copy = some o → o.fault = none →
    o.kept = none → s.noWalks = false → t.clear o.xl = true →
    o.job = .copy x xl y yl tr sat rnd → s.writeEnc tid t { tsr := y, tlr := yl } = .ok e → Rnd.ofCode rnd = some r →
    let c : CopyWalk := { src := { tsr := x, tlr := xl }, dst := { tsr := y, tlr := yl }, trans := tr, enc := e, rnd := r,
                          sat := sat }
    let lo := o.pos * c.chunkLen
    let ks := (List.range (min c.chunkLen (c.src.count - lo))).map (lo + ·)
    let gs := ((groupsOf ks.length c.block ks).zip (groupsOf es.length c.block es)).map fun p => c.group t.wid o p.1 p.2
    let rs := runs (s2.chunkImage tid t c ks gs)
    lo < c.src.count → s.readElems tid t c ks = (s1, .ok es) → s1.touchDst tid t c ks = (s2, none) →
    Assoc.find s2.tasks tid = some t2 → (∀ p ∈ rs, s2.rangeHeld t2 p.1 p.2.length = false) →
    s2.writeAll tid t2 rs = (s3, none) →
    ∃ s', exec (.copyChunk tid) s = .next s' ∧ s'.mem = s3.mem ∧
      (lo + c.chunkLen < c.src.count →
        ∀ t', Assoc.find s'.tasks tid = some t' → ∀ z ∈ t'.eng, z.uid = o.uid → z.pos = o.pos + 1)) ∧
  (∀ (s s1 : State) (tid : Nat) (t : Task) (o : EngOp) (tsr tlr : List Word) (base : Int) (h : Assoc Nat) (b : Nat),
    Assoc.find s.tasks tid = some t → s.moves t = true → t.running .hist = some o → o.fault = none →
    o.job = .hist tsr tlr base → o.block = some b → s.noWalks = false → t.clear o.xl = true →
    Assoc.wf 0 t.hist = true → Assoc.wf 0 h = true →
    s.countBins (Tensor.count { tsr := tsr, tlr := tlr }) tid t { tsr := tsr, tlr := tlr } base 0 [] = (s1, .ok h) →
    t.spadReserved (b + 16) (b + 24) = false → (t.dropOp o).spadReserved (b + 16) (b + 24) = false →
    ∃ s' t', exec (.histRetire tid) s = .next s' ∧ Assoc.find s'.tasks tid = some t' ∧
      (∀ k, (Assoc.get 0 t'.hist k).toNat = min (2 ^ 32 - 1) ((Assoc.get 0 t.hist k).toNat + Assoc.get 0 h k)) ∧
      t'.evt = t.evt ||| o.signal ∧ ∀ y ∈ t'.eng, y.uid ≠ o.uid)

/-- R221, R340 to R344: a walk sends its present transfer within the package, at the addresses of its loop indices, and goes on to
the next; a walk whose transfers are all performed retires and signals. A transfer that lands writes its bytes at its destination,
counts in the receive counter it names, and is performed; one that meets a reservation stays, and HOLDCNT counts; one whose
destination is gone writes nothing and ends its walk with cause 12 at that transfer, unless an earlier one has faulted, and one to
another package writes nothing here. -/
def Obligations.TransferEvents : Prop :=
  (∀ (s s1 : State) (tid did : Nat) (t p : Task) (o : EngOp) (w route : List Word) (routed : Bool) (bytes : List Byte) (wid : Nat),
    Assoc.find s.tasks tid = some t → s.moves t = true → t.eng.find? EngOp.walkReady = some o → o.fault = none →
    o.job = .walk w route routed →
    let i := walkTuple w o.pos
    let sa := walkAddr (walkSbase w) (walkSstr w) i
    let da := walkAddr (walkDbase w) (walkDstr w) i
    (walkTotal w ≤ o.pos → o.block = none → ∃ s' t', exec (.walkTransferSend tid) s = .next s' ∧
      Assoc.find s'.tasks tid = some t' ∧ t'.evt = t.evt ||| o.signal ∧ t'.eng = t.eng.filter (fun y => y.uid != o.uid) ∧
      s'.xfers = s.xfers) ∧
    (o.pos < walkTotal w → t.life = .running → walkWid (s.lrec t.lr) w i t.wid.toNat = some wid →
      walkPkg w i s.pkgIndex = s.pkgIndex → s.destination t.lr (BitVec.ofNat 64 wid) = .resident did →
      Assoc.find s.tasks did = some p → s.targetBad p da (walkXfer w) (walkOp w) = none →
      s.walkHeldBy t o.xl sa (walkXfer w) = false → s.sourceBad tid t sa (walkXfer w) = none → s.rangeBusy t sa (walkXfer w) = false → walkSse w = false →
      s.readVa t sa (walkXfer w) .read false = .ok (bytes, s1) →
      ∃ s' t' x, exec (.walkTransferSend tid) s = .next s' ∧ Assoc.find s'.tasks tid = some t' ∧
        s'.xfers = s.xfers ++ [x] ∧ x.id = s.nextXfer ∧ x.pkg = s.pkgIndex ∧ x.lrec = t.lr ∧ x.wid = BitVec.ofNat 64 wid ∧
        x.addr = BitVec.ofNat 64 da ∧ x.op = walkOp w ∧ x.rcnt = walkRcnt w ∧ x.bytes = bytes ∧
        x.sender = some (tid, o.uid, o.pos) ∧ s'.nextXfer = s.nextXfer + 1 ∧ s'.egress = s.egress ∧ s'.mem = s.mem ∧
        ∀ z ∈ t'.eng, z.uid = o.uid → (∀ y ∈ t.eng, y.uid = o.uid → y = o) → z.pos = o.pos + 1)) ∧
  (∀ (s : State) (x : Xfer), s.xfers.find? (fun y => y.id == x.id) = some x → x.sse = none →
    ((x.pkg ≠ s.pkgIndex ∨ s.landsLater x = false ∧ s.destination x.lrec x.wid = .gone) →
      ∃ s', exec (.transferLand x.id) s = .next s' ∧ s'.xfers = s.xfers.filter (fun y => y.id != x.id) ∧ s'.mem = s.mem ∧
        (x.pkg = s.pkgIndex → ∀ tid uid k t, x.sender = some (tid, uid, k) → Assoc.find s.tasks tid = some t →
          ∃ t', Assoc.find s'.tasks tid = some t' ∧ ∀ o ∈ t.eng, o.uid = uid →
            ∃ o' ∈ t'.eng, o'.uid = uid ∧ (o.fault = none → o'.fault = some { cause := 12, addr := x.addr, fchk := k }) ∧
              ∀ f, o.fault = some f →
                o'.fault = some (if k < f.fchk then { cause := 12, addr := x.addr, fchk := k } else f))) ∧
    (x.pkg = s.pkgIndex → (s.landsLater x = true ∨ s.destination x.lrec x.wid = .absent) →
      exec (.transferLand x.id) s = .next s) ∧
    (∀ did p, x.pkg = s.pkgIndex → s.landsLater x = false → s.destination x.lrec x.wid = .resident did →
      Assoc.find s.tasks did = some p → s.moves p = true → s.targetBad p x.addr.toNat x.bytes.length x.op = none →
      s.rangeHeld p x.addr.toNat x.bytes.length = true → ∃ s' p', exec (.transferLand x.id) s = .next s' ∧
        Assoc.find s'.tasks did = some p' ∧ p'.holding = true ∧ s'.xfers = s.xfers ∧ OthersStand did s s') ∧
    (∀ did p off, x.pkg = s.pkgIndex → s.landsLater x = false → s.destination x.lrec x.wid = .resident did →
      Assoc.find s.tasks did = some p → s.moves p = true → x.op = 0 → x.part = none → x.addr.toNat = 0xFF0 * 2 ^ 48 + off →
      p.tt.spd ≤ 32 → off + x.bytes.length ≤ 32768 * p.tt.spd → p.spadReserved off (off + x.bytes.length) = false →
      Assoc.wf 0 p.spad = true → Assoc.wf (0, 0) p.rcv = true →
      ∃ s' p', exec (.transferLand x.id) s = .next s' ∧ Assoc.find s'.tasks did = some p' ∧
        (∀ k, Assoc.get 0 p'.spad k =
          if off ≤ k ∧ k < off + x.bytes.length then x.bytes.getD (k - off) 0 else Assoc.get 0 p.spad k) ∧
        (x.rcnt ≠ 63 → (p'.counterOf x.rcnt).1.toNat =
          min (2 ^ 32 - 1) ((p.counterOf x.rcnt).1.toNat + x.bytes.length / 8)) ∧
        s'.xfers = s.xfers.filter (fun y => y.id != x.id) ∧ s'.mem = s.mem)) ∧
  (∀ (s : State) (n : Nat), s.xfers.find? (fun y => y.id == n) = none → exec (.transferLand n) s = .next s)

/-- R251, R259, R293, R295, R379: a page walk of a translated address keeps its translation at the head of the die's TLB, and one
that faults is cached nowhere; a page moves once no L1 holds a sector of it, every leaf that maps it then names the new frame, and
the frame's bytes are those of the page; a fence whose predecessors are performed, or a mark whose pair is complete, is no longer
pending, and none that is not due completes. Which frame a page moves to is a free choice (log entry 26). -/
def Obligations.OrderAndPageEvents : Prop :=
  (∀ (s : State) (die ctx : Nat) (va : Word) (c : Ctx), Assoc.find s.ctxs ctx = some c → regionOf va.toNat = 0 →
    Assoc.wf [] s.dieTlb = true →
    (∀ e, pageWalk s c.asid c.root va.toNat walkLevels = .ok e →
      ∃ s', exec (.pageWalkComplete die ctx va) s = .next s' ∧
        Assoc.get [] s'.dieTlb die = (e :: (Assoc.get [] s.dieTlb die).filter (· != e)).take 16384 ∧
        s'.tasks = s.tasks ∧ s'.mem = s.mem) ∧
    (∀ k, pageWalk s c.asid c.root va.toNat walkLevels = .error k → exec (.pageWalkComplete die ctx va) s = .next s)) ∧
  (∀ (s : State) (ctx : Nat) (va : Word), regionOf va.toNat ≠ 0 → exec (.pageMigrationComplete ctx va) s = .next s) ∧
  (∀ (s : State) (ctx : Nat) (va : Word) (c : Ctx) (ea e shift new : Nat), Assoc.find s.ctxs ctx = some c →
    regionOf va.toNat = 0 → s.leafOf c.root va.toNat walkLevels = some (ea, e, shift) → Memory.wf s.mem = true →
    let old := bits e 51 8 * 256
    let size := 2 ^ shift
    isHostPa old = false → s.paOk old = true → s.pickFrame (stackOf old) size = some new → isHostPa new = false →
    let s0 := s.recallPage old size
    let s1 := s0.physWrite new (s0.physRead old size)
    let leaves := s1.ctxs.flatMap fun x => s1.leavesOf x.2.root walkLevels
    (s0.pageHeld old size = true → exec (.pageMigrationComplete ctx va) s = .next s0) ∧
    (s0.pageHeld old size = false → (∀ x ∈ leaves, x.1 + 8 ≤ new ∨ new + size ≤ x.1) →
      (∀ x ∈ leaves, ∀ y ∈ leaves, x.1 = y.1 ∨ x.1 + 8 ≤ y.1 ∨ y.1 + 8 ≤ x.1) →
      ∃ s', exec (.pageMigrationComplete ctx va) s = .next s' ∧
        (∀ x ∈ leaves, x.2 = (old, size) →
          leNat (s'.physRead x.1 8) = (leNat (s1.physRead x.1 8) - old + new) % 2 ^ 64) ∧
        ∀ k < size, Assoc.get 0 s'.mem (new + k) = Assoc.get 0 s0.mem (old + k))) ∧
  (∀ (s : State) (tid : Nat) (q d : Seq) (t : Task), Assoc.find s.tasks tid = some t → s.moves t = true →
    (t.fenceDue q = none → exec (.fenceComplete tid q) s = .next s) ∧
    (∀ b, t.fenceDue q = some b → ∃ s' t', exec (.fenceComplete tid q) s = .next s' ∧ Assoc.find s'.tasks tid = some t' ∧
      (t'.sq q).barriers = (t.sq q).barriers.filter (fun y => y.id != b.id) ∧
      (b.wb = false → b.inv = false → t.kq.held = [] → t.kq.peers = [] → t.wq.peers = [] →
        t.holding = true ∨ s.peerHeld tid t = false → OnlyTask tid s s')) ∧
    (t.pairDue q d = none → exec (.markPairComplete tid q d) s = .next s) ∧
    (∀ b, t.pairDue q d = some b → ∃ s' t', exec (.markPairComplete tid q d) s = .next s' ∧
      Assoc.find s'.tasks tid = some t' ∧ (t'.sq q).barriers = (t.sq q).barriers.filter (fun y => y.id != b.id)))

/-- R328, R329: `monarm` arms the sector of an address that can be watched, in the core's own window, the cluster's, the stripe's or
coherent memory of the package, and forgets an earlier wake; an address in another region, of the accumulator, of the metadata, of
streaming memory or of the host traps, and so does one that does not translate. `monwait` gives 0 when nothing is armed, waits while
no wake is recorded, and else gives the reason once; `monclr` disarms; a write to the sector records reason 1, and an eviction from
the core's L1 reason 2.
R329 to R331, R89, R392: a wake gives a waiting `monwait` its turn when the monitor holds the reason, and is nothing else; a spurious
wake records 3 and none follows within 2^20 cycles of the stream's clock; a wait that has reached STO is reported once, in a record
that begins with WID and the four PCs, and none is when STO is 0; the hub gives the oldest entry of a queue to its first waiting
`wqpop`. -/
def Obligations.MonitorsAndWaits : Prop :=
  (∀ (s : State) (tid : Nat) (t : Task) (w : Stall) (d a : SReg), Ready s tid .k t [.s d.code, .s a.code] →
    let va := (t.kq.rd a).toNat
    let s0 := seen s tid t
    let bad := fun (cls cspace cause : Nat) => traps s0 tid .k
      { cls := cls, cspace := cspace, cause := cause, addr := va, info := 0, words := true, async := false }
    (2 ^ 60 ≤ va → exec (.monarm w a) s = bad 6 0 0) ∧
    (s0.resolve t va .read = .error .address → exec (.monarm w a) s = bad 6 0 0) ∧
    (∀ c, va < 2 ^ 60 → c < 16 → s0.resolve t va .read = .error (.translation c) → exec (.monarm w a) s = bad 10 5 c) ∧
    (∀ pl l, va < 2 ^ 60 → s0.resolve t va .read = .ok pl →
      ((∃ o, pl = .spad o ∧ l = .scratch tid (o / 64 * 64)) ∨
       (∃ o, pl = .cluster o ∧ l = .cluster t.die (t.core / 4) t.lr (o / 64 * 64)) ∨
       (∃ o, pl = .stripe o ∧ l = .stripe t.die t.ctx (o / 64 * 64)) ∨
       (∃ pa, pl = .phys pa false ∧ isHostPa pa = false ∧ l = .hbm (pa / 64 * 64))) →
      exec (.monarm w a) s = ends ((s0.keepVa t va 1).modTask tid fun t =>
        { t with mon := { t.mon with sector := some l, reason := 0 } }) tid .k t w) ∧
    (∀ pl, va < 2 ^ 60 → s0.resolve t va .read = .ok pl →
      ((∃ o, pl = .acc o) ∨ (∃ o, pl = .md o) ∨ (∃ pa, pl = .phys pa true) ∨ (∃ pa, pl = .phys pa false ∧ isHostPa pa = true)) →
      exec (.monarm w a) s = bad 6 3 10) ∧
    (t.mon.sector = none → exec (.monwait w d) s = ends (s0.result tid .k 1 d 0) tid .k t w) ∧
    (t.mon.sector ≠ none → t.mon.reason = 0 → exec (.monwait w d) s = waits s0 tid .k .monitor true) ∧
    (t.mon.sector ≠ none → t.mon.reason ≠ 0 → exec (.monwait w d) s =
      ends ((s0.modTask tid fun t => { t with mon := { t.mon with reason := 0 } }).result tid .k 1 d
        (BitVec.ofNat 64 t.mon.reason)) tid .k t w) ∧
    exec (.monclr w) s =
      ends (s0.modTask tid fun t => { t with mon := { t.mon with sector := none, reason := 0 } }) tid .k t w ∧
    (∀ l, t.mon.sector = some l → t.mon.reason = 0 →
      (∃ u, Assoc.find (s0.wrote l).tasks tid = some u ∧ u.mon.sector = some l ∧ u.mon.reason = 1) ∧
      (∃ u, Assoc.find (s0.evicted (32 * t.die + t.core) l).tasks tid = some u ∧ u.mon.sector = some l ∧ u.mon.reason = 2))) ∧
  ((∀ (s : State) (tid : Nat) (t : Task) (r : Fin 4) (l : Loc), Assoc.find s.tasks tid = some t → t.mon.sector = some l →
    (t.mon.reason ≠ 0 → t.mon.reason = r.val → t.kq.wait = some .monitor →
      exec (.monitorWake tid r) s = .next { s with agenda := .issue tid .k :: s.agenda }) ∧
    (t.mon.reason = 0 ∨ t.mon.reason ≠ r.val ∨ t.kq.wait ≠ some .monitor → exec (.monitorWake tid r) s = .next s) ∧
    (s.moves t = false → exec (.spuriousMonitorWake tid) s = .next s) ∧
    (s.moves t = true → ∃ s' t', exec (.spuriousMonitorWake tid) s = .next s' ∧ Assoc.find s'.tasks tid = some t' ∧
      s'.agenda = (if t.kq.wait = some .monitor then .issue tid .k :: s.agenda else s.agenda) ∧
      (t.mon.spurious ≤ t.streamClk → t'.mon.sector = some l ∧ t'.mon.reason = (if t.mon.reason = 0 then 3 else t.mon.reason) ∧
        t'.mon.spurious = t.streamClk + 2 ^ 20) ∧
      (t.streamClk < t.mon.spurious → t' = t))) ∧
  (∀ (s : State) (tid : Nat) (q : Seq) (t : Task), Assoc.find s.tasks tid = some t →
    (t.sto = 0 ∨ t.resident = false ∨ (t.marksWaiting q = [] ∧
        ((t.sq q).reason = 0 ∨ (t.sq q).hung = true ∨ (t.sq q).waited < t.sto.toNat)) →
      ∃ s' t', exec (.stallTimeout tid q) s = .next s' ∧ Assoc.find s'.tasks tid = some t' ∧ (t'.sq q).hung = (t.sq q).hung ∧
        OnlyTask tid s s') ∧
    (∀ c addr k, t.sto ≠ 0 → t.resident = true → (t.sq q).reason ≠ 0 → (t.sq q).hung = false → t.sto.toNat ≤ (t.sq q).waited →
      Assoc.find s.ctxs t.ctx = some c → c.evq = some (addr, k) → c.lost = 0 → s.evqFree addr k c.produced = true →
      Memory.wf s.hostMem = true →
      let slot := addr + 256 * (c.produced.toNat % 2 ^ k)
      ∃ s' t' c', exec (.stallTimeout tid q) s = .next s' ∧ Assoc.find s'.tasks tid = some t' ∧ (t'.sq q).hung = true ∧
        Assoc.find s'.ctxs t.ctx = some c' ∧ c'.produced = c.produced + 1 ∧
        leNat (readBytes s'.hostMem slot 8) = t.wid.toNat ∧ leNat (readBytes s'.hostMem (slot + 8) 8) = t.kq.pc.toNat ∧
        leNat (readBytes s'.hostMem (slot + 16) 8) = t.lq.pc.toNat ∧ leNat (readBytes s'.hostMem (slot + 24) 8) = t.wq.pc.toNat ∧
        leNat (readBytes s'.hostMem (slot + 32) 8) = t.cq.pc.toNat ∧ s'.mem = s.mem)) ∧
  (∀ (s : State) (n : Nat) (k : WorkQueue), Assoc.find s.queues n = some k →
    (k.waiters = [] ∨ k.entries = [] → exec (.wqpopServed n) s = .next s) ∧
    (∀ p ws v es t, k.waiters = p :: ws → k.entries = v :: es → Assoc.find s.tasks p.task = some t → s.moves t = false →
      exec (.wqpopServed n) s = .next s) ∧
    (∀ p ws v es t, k.waiters = p :: ws → k.entries = v :: es → s.poisonAt (.wq n k.taken) = none →
      Assoc.find s.tasks p.task = some t → s.moves t = true →
      ∃ s' t', exec (.wqpopServed n) s = .next s' ∧ Assoc.find s'.tasks p.task = some t' ∧
        t'.popped = some (p.code, p.stall, v) ∧ t'.fixedPop = (t.fixedPop || k.fixed) ∧
        Assoc.find s'.queues n = some { k with waiters := ws, entries := es, taken := k.taken + 1 } ∧
        ((k.fixed && !t.fixedPop && (s.lrec t.lr).pers) = false → OnlyTask p.task { s with queues := s'.queues } s') ∧
        (k.fixed = true → t.fixedPop = false → (s.lrec t.lr).pers = true → (s.die t.die).hot = false →
          (s'.die t.die).point = 0))))

/-- R395, R396: `brk` and `imgcut` complete and begin the cut of their task, which issues nothing until it is over.
R15, R374, R385 to R390, R395, R396: a cut whose products still run, or whose clock stands, waits; else its open batch retires and what
that held lands, and once nothing of the task moves the image is stored under the next IMGSEQ, where the context's region has a part
for it, and the task leaves its core, halts, ends, goes back to its image, or goes on with its register written; one whose virtual die
has been bound to another leaves for that die. A cut task resumes on a core that can hold it with its sequencers as they stood. A
context's image interval cuts every task of it that runs or waits in its `tend`, and no other.
A resumed task's monitor is armed on its sector of the die on which it stands (R329).
That an image is kept as the task it saves, apart from the bytes of its region, is the model's form (log entries 33 and 74). -/
def Obligations.CutsAndTheirEnd : Prop :=
  (∀ (s : State) (tid : Nat) (q : Seq) (t : Task) (w : Stall) (d : SReg),
    Ready s tid q t [.s d.code] → t.life = .running ∨ t.life = .ending → t.popped = none → t.sync = none → (t.sq q).late = [] →
    (∃ s' t', exec (.brk w) s = .next s' ∧ Assoc.find s'.tasks tid = some t' ∧ t'.life = .cutting .halt ∧
      (t'.sq q).pc = following t q ∧ (t'.sq q).clk = (t.sq q).clk + 1 ∧ (∀ r, t'.issues r = false)) ∧
    (∃ s' t', exec (.imgcut w d) s = .next s' ∧ Assoc.find s'.tasks tid = some t' ∧
      t'.life = .cutting (.image d.code) ∧ (t'.sq q).pc = following t q ∧ (∀ r, t'.issues r = false))) ∧
  ((∀ (s : State) (tid : Nat) (t t0 : Task) (why : Cut), Assoc.find s.tasks tid = some t → t.life = .cutting why →
    (s.moves t = false ∨ t.matrixRuns = true → exec (.cutComplete tid) s = .next s) ∧
    (let s0 := (s.setTask tid t.retireOpen).settleTask tid
     let goesOn := fun x : Task => if x.ending then Life.ending else Life.running
     s.moves t = true → t.matrixRuns = false → Assoc.find s0.tasks tid = some t0 →
      (s0.cutReady t0 = false → exec (.cutComplete tid) s = .next s0) ∧
      (s0.cutReady t0 = true → TasksOk s0 →
        (why = .cancel → ∃ s', exec (.cutComplete tid) s = .next s' ∧ Assoc.find s'.tasks tid = none) ∧
        (∀ arr x, why = .replay arr → Assoc.find s0.images tid = some x → s0.movesTo t0 = none →
          (s0.die t0.die).lostCores.contains t0.core = false → ∃ s' t', exec (.cutComplete tid) s = .next s' ∧
          Assoc.find s'.tasks tid = some t' ∧ t'.life = goesOn x.task ∧ t'.die = t0.die ∧ t'.core = t0.core ∧ t'.slot = t0.slot ∧
          (∀ q, t'.sq q = x.task.sq q) ∧ t'.spad = x.task.spad ∧ t'.v = x.task.v ∧
          t'.fixedPop = (x.task.fixedPop || t0.fixedPop)) ∧
        (∀ arr x, why = .replay arr → Assoc.find s0.images tid = some x →
          (s0.movesTo t0 ≠ none ∨ (s0.die t0.die).lostCores.contains t0.core = true) → ∃ s' t',
          exec (.cutComplete tid) s = .next s' ∧ Assoc.find s'.tasks tid = some t' ∧ t'.life = .cut ∧
          t'.die = (s0.movesTo t0).getD t0.die ∧ (∀ q, t'.sq q = x.task.sq q) ∧ t'.spad = x.task.spad ∧ t'.v = x.task.v) ∧
        (why ≠ .cancel → (∀ arr, why ≠ .replay arr) → ∃ s' t', exec (.cutComplete tid) s = .next s' ∧
          Assoc.find s'.tasks tid = some t' ∧ t'.imgseq = t0.imgseq + (if s0.imageFits t0 then 1 else 0) ∧
          (∀ q, (t'.sq q).pc = (t0.sq q).pc) ∧ t'.die = (s0.movesTo t0).getD t0.die ∧
          (s0.imageFits t0 = true → ∃ x, Assoc.find s'.images tid = some x ∧ x.task.imgseq = t'.imgseq ∧
            (∀ q, (x.task.sq q).pc = (t0.sq q).pc) ∧ x.marks = s0.poison.filter (fun e => ownedBy tid e.1) ∧
            (x.place = s0.imagePlace t0.die ∨ s0.movesTo t0 ≠ none ∧ x.place = s0.imagePlace t'.die)) ∧
          (s0.imageFits t0 = false → s0.movesTo t0 = none → s'.images = s0.images) ∧
          (why = .preempt ∨ why = .withdraw → t'.life = .cut) ∧ (why = .halt → t'.life = .halted) ∧
          (why = .interval ∨ (∃ code, why = .image code) →
            t'.life = if (s0.movesTo t0).isSome then .cut else goesOn t0) ∧
          (∀ code, why = .image code → code ≠ 0 → RegsOk t0.kq → t'.kq.regAt code = t'.imgseq))))) ∧
  (∀ (s : State) (tid : Nat) (t : Task), Assoc.find s.tasks tid = some t →
    (t.life ≠ .cut → exec (.resume tid) s = .next s) ∧
    (t.life = .cut → s.pickCore t.die t.lr t.prio t.tt t.lots = none → exec (.resume tid) s = .next s) ∧
    (∀ c, t.life = .cut → s.pickCore t.die t.lr t.prio t.tt t.lots = some c →
      ∃ s' t', exec (.resume tid) s = .next s' ∧ Assoc.find s'.tasks tid = some t' ∧
        t'.life = (if t.ending then .ending else .running) ∧ t'.core = c ∧ t'.die = t.die ∧ t'.slot = s.freeSlot t.die c ∧
        t'.lots = t.lots ∧ (∀ q, t'.sq q = t.sq q) ∧
        (∀ d x o, t.mon.sector = some (.stripe d x o) → t'.mon.sector = some (.stripe t.die t.ctx o)) ∧
        (t.fixedPop = false → OnlyTask tid s s'))) ∧
  (∀ (s : State) (ctx : Nat) (c : Ctx), Assoc.find s.ctxs ctx = some c → TasksOk s →
    (c.interval = 0 → exec (.imageIntervalExpiry ctx) s = .next s) ∧
    (c.interval ≠ 0 → ∃ s', exec (.imageIntervalExpiry ctx) s = .next s' ∧ s'.mem = s.mem ∧
      ∀ tid t, Assoc.find s.tasks tid = some t →
        (t.ctx = ctx ∧ (t.life = .running ∨ t.life = .ending) → ∃ t', Assoc.find s'.tasks tid = some t' ∧
          t'.life = .cutting .interval ∧ ∀ q, t'.issues q = false) ∧
        (t.ctx ≠ ctx ∨ t.life ≠ .running ∧ t.life ≠ .ending → Assoc.find s'.tasks tid = some t))))

/-- R83, R97 to R99, R114, R399, R353, R354, R361, R383: a retirement counts in its launch while its arming is the present one and no
cancellation has stopped its dispatch, else it is discarded; a held push whose queue has room lands and its launch is done; the
dispatcher places the next task of a launch on the core it picks, its sequencers at their entry points, and on no die that a waiting
gang launch of its priority or a higher one is granted; a gang launch is placed whole, in ascending identifier on its granted dies, or
not at all; a launch whose task no core of the die holds cuts the victims it needs there, and no launch cuts a task but one of lower
priority, and of a persistent launch only as its PREMASK allows; a packet without delivery order is dropped and counted, one with no valid flow
is delivered, and one with a flow runs that flow's kernel on an idle processor or waits; a host's consumed count is written.
That SEQ at dispatch does not count the packet itself is the model's reading (log entry 35). -/
def Obligations.HubEvents : Prop :=
  (∀ (s : State), s.retirements = [] → exec .retirement s = .next s) ∧
  (∀ (s : State) (x : Retirement) (rest : List Retirement), s.retirements = x :: rest → Assoc.wf LaunchRec.free s.recs = true →
    let r := s.lrec x.lr
    (r.armcnt ≠ x.arming ∨ r.state ≠ .running ∨ r.ready = none → exec .retirement s = .next { s with retirements := rest }) ∧
    (r.armcnt = x.arming → r.state = .running → r.ready ≠ none → r.retired + 1 ≠ r.total → ∃ s', exec .retirement s = .next s' ∧
      s'.retirements = rest ∧ s'.lrec x.lr = { r with retired := r.retired + 1, held := r.held + x.hold }) ∧
    (r.armcnt = x.arming → r.state = .running → r.ready ≠ none → r.retired + 1 = r.total → r.kind = 0 → r.na = 0 → r.ckind = 0 → r.pushHeld = false →
      s.cpq = [] →
      ∃ s', exec .retirement s = .next s' ∧ s'.retirements = rest ∧ (s'.lrec x.lr).state = .done ∧
        (s'.lrec x.lr).retired = r.total)) ∧
  (∀ (s : State) (lr : Nat), Assoc.wf LaunchRec.free s.recs = true →
    let r := s.lrec lr
    (r.pushHeld = false → exec (.completionPushLand lr) s = .next s) ∧
    (∀ w, r.pushHeld = true → r.ckind = 2 → r.kind = 0 → r.na = 0 → s.cpq = [] → Assoc.find s.queues r.ctgt = some w →
      w.ctx = r.ctx.getD 0 →
      (w.entries.length < 2 ^ w.k → ∃ s', exec (.completionPushLand lr) s = .next s' ∧ (s'.lrec lr).state = .done ∧
        Assoc.find s'.queues r.ctgt = some { w with entries := w.entries ++ [BitVec.ofNat 64 (r.cval + 2 ^ 32 * lr)] }) ∧
      (2 ^ w.k ≤ w.entries.length → ∃ s', exec (.completionPushLand lr) s = .next s' ∧ s'.lrec lr = r ∧
        s'.queues = s.queues))) ∧
  (∀ (s : State) (lr : Nat), lr ∉ s.service → exec (.taskPlacement lr) s = .next s) ∧
  (∀ (s : State) (lr : Nat) (rest : List Nat) (tt : TaskType) (v d core : Nat), s.service = lr :: rest →
    Assoc.wf LaunchRec.free s.recs = true →
    let r := s.lrec lr
    r.gang = false → r.tt = some tt → r.next + 1 = r.total → r.placed = [] → v ∈ r.granted →
    ((s.homeDie r tt (r.widOf r.next).toNat).orElse fun _ => s.emptiest r) = some v →
    s.physDie (r.ctx.getD 0) v = some d → (s.reservedDies lr).contains d = false →
    s.pickCore d lr r.prio tt (s.lotDemand r.epoch tt) = some core →
    ∃ s' t', exec (.taskPlacement lr) s = .next s' ∧ Assoc.find s'.tasks s.nextTask = some t' ∧ s'.nextTask = s.nextTask + 1 ∧
      t'.lr = lr ∧ t'.wid = r.widOf r.next ∧ t'.vdie = v ∧ t'.die = d ∧ t'.core = core ∧ t'.life = .running ∧
      t'.kq.pc = tt.kent ∧ t'.lq.pc = tt.lent ∧ t'.wq.pc = tt.went ∧ t'.cq.pc = tt.cent ∧
      t'.kq.regAt 1 = BitVec.ofNat 64 r.argp ∧ t'.kq.regAt 2 = t'.wid ∧ t'.spad = [] ∧ t'.evt = 0 ∧
      (s'.lrec lr).next = r.next + 1) ∧
  (∀ (s : State) (lr : Nat), lr ∈ s.service → (∀ k t, Assoc.find s.tasks k = some t → k < s.nextTask) →
    let r := s.lrec lr
    exec (.taskPlacement lr) s = .next ((s.service.takeWhile (· != lr) ++ [lr]).foldl State.serve s) ∧
    (r.gang = true → (∃ d ∈ s.grantedDies r, d ∈ s.reservedDies lr) → s.serve lr = s) ∧
    (r.gang = false → ∀ g ∈ s.service, g ≠ lr → (s.lrec g).gang = true → r.prio ≤ (s.lrec g).prio →
      ∀ k t', s.nextTask ≤ k → Assoc.find (s.serve lr).tasks k = some t' → t'.die ∉ s.grantedDies (s.lrec g))) ∧
  (∀ (s : State) (lr : Nat) (rest : List Nat) (tt : TaskType), s.service = lr :: rest → Assoc.wf LaunchRec.free s.recs = true →
    TasksOk s → (∀ k t, Assoc.find s.tasks k = some t → k < s.nextTask) →
    let r := s.lrec lr
    r.tt = some tt →
    (r.gang = true → r.next = 0 → ∃ s', exec (.taskPlacement lr) s = .next s' ∧
        ((s'.nextTask = s.nextTask + r.total ∧ (s'.lrec lr).next = r.total ∧
          ∀ n < r.total, ∃ t', Assoc.find s'.tasks (s.nextTask + n) = some t' ∧ t'.lr = lr ∧ t'.wid = r.widOf n ∧
            t'.life = .running ∧ t'.die ∈ s.grantedDies r) ∨
         (s'.nextTask = s.nextTask ∧ (s'.lrec lr).next = 0 ∧ ∀ k, s.nextTask ≤ k → Assoc.find s'.tasks k = none))) ∧
    (∀ v d c vs, r.gang = false → r.next + 1 = r.total → r.placed = [] → v ∈ r.granted →
      ((s.homeDie r tt (r.widOf r.next).toNat).orElse fun _ => s.emptiest r) = some v → s.physDie (r.ctx.getD 0) v = some d →
      (s.reservedDies lr).contains d = false → s.pickCore d lr r.prio tt (s.lotDemand r.epoch tt) = none →
      s.cutsDone.bestVictims d lr r.prio tt (s.lotDemand r.epoch tt) = some (c, vs) →
      ∃ s', exec (.taskPlacement lr) s = .next s' ∧ s'.nextTask = s.nextTask ∧
        (∀ k ∈ vs, ∃ t', Assoc.find s'.tasks k = some t' ∧ t'.life = .cutting .preempt ∧ ∀ q, t'.issues q = false) ∧
        ∀ k, k ∉ vs → Assoc.find s'.tasks k = Assoc.find s.tasks k) ∧
    (∃ s', exec (.taskPlacement lr) s = .next s' ∧ ∀ k t, Assoc.find s.tasks k = some t → Assoc.find s'.tasks k = some t ∨
      ((t.life = .running ∨ t.life = .ending) ∧ t.prio < r.prio ∧
        ((s.lrec t.lr).pers = true → (s.lrec t.lr).premask.testBit r.prio = true) ∧
        ∃ t', Assoc.find s'.tasks k = some t' ∧ t'.life = .cutting .preempt))) ∧
  (∀ (s : State) (port : Fin 16) (pkt : Packet), Assoc.wf Pitch.start s.pitches = true →
    Assoc.wf { ctl := 0, state := [] } s.flows = true → Assoc.wf 0 s.dropped = true →
    (pkt.mode = .other → ∃ s', exec (.packetArrival port pkt) s = .next s' ∧
      Assoc.get 0 s'.dropped port.val = Assoc.get 0 s.dropped port.val + 1 ∧ { s' with dropped := s.dropped } = s) ∧
    (pkt.mode ≠ .other → s.flowOf port.val pkt = none → pkt.hdr = none →
      exec (.packetArrival port pkt) s = .next { s with delivered := s.delivered ++ [(port.val, pkt)] }) ∧
    (∀ f, pkt.mode ≠ .other → s.flowOf port.val pkt = some f →
      let p := 2 * port.val + f % 2
      let e := s.flow port.val f
      ((s.pitch p).run = none → (s.pitch p).queue = [] → ∃ s' r, exec (.packetArrival port pkt) s = .next s' ∧
        (s'.pitch p).run = some r ∧ r.pkt = pkt ∧ r.flow = f ∧ r.pc = e.entry ∧ r.budget = e.budget ∧ r.seq = e.seq ∧
        r.window = pkt.payload ∧ r.q = [] ∧ (s'.flow port.val f).seq = e.seq + 1) ∧
      ((s.pitch p).run ≠ none → ∃ s', exec (.packetArrival port pkt) s = .next s' ∧ (s'.pitch p).run = (s.pitch p).run ∧
        (s'.pitch p).queue = (s.pitch p).queue ++ [(f, pkt)]))) ∧
  (∀ (s : State) (ctx : Nat) (c : Ctx) (n : Word), Assoc.find s.ctxs ctx = some c →
    (c.evq = none → exec (.evqSlotFreed ctx n) s = .next s) ∧
    (∀ addr k, c.evq = some (addr, k) →
      let s1 := { s with hostMem := writeBytes s.hostMem ((addr + 256 * 2 ^ k) % 2 ^ 51) (toBytes 8 n.toNat) }
      (c.lost = 0 → exec (.evqSlotFreed ctx n) s = .next s1) ∧
      (c.lost ≠ 0 → State.evqFree s1 addr k c.produced = true → ∃ s' c', exec (.evqSlotFreed ctx n) s = .next s' ∧
        Assoc.find s'.ctxs ctx = some c' ∧ c'.lost = 0 ∧ c'.produced = c.produced + 1)))

/-- R333 to R335: a bid on a number bound to the context enters the task's table behind the fences that are pending, takes the place
of an earlier one that has not reached a bell or whose round has ended, or stands behind one whose round is in progress; a fifth
number waits; `bidw` gives the number, the key and whether it is the task's own, once, and waits until there is a result; `ares` shows
a lane's last number, or 0 when it is not the context's, with its key.
R68 to R70, R105 to R111: the evaluation that is due in a class begins when none runs, and takes the three rounds of each PSR on
number 62; the last of them ends it with the next epoch, and a PSR whose greatest QC exceeds its least N is promoted one width under a
new generation; an evaluation without PSRs ends at once, and is no longer due; a target written meanwhile takes effect. A call takes
the next pending number of its lane with its entrants, after a wire test and a heartbeat that are due; a round ends with the largest
key, which tells each entrant whether it is its own; a round with a mismatch is void and is repeated with all its entrants but those
of dies that work no longer; a wire test retires the wire that is stuck.
That one evaluation runs at a time is the model's (log entry 72). -/
def Obligations.AuctionsAndEvaluations : Prop :=
  (∀ (s : State) (tid : Nat) (q : Seq) (t : Task) (w : Stall) (d a b : SReg),
    Ready s tid q t [.s d.code, .s a.code, .s b.code] →
    let x := ((t.sq q).rd a).toNat
    let v : BitVec 32 := ((t.sq q).rd b).setWidth 32
    let s0 := seen s tid t
    let bound := fun n : Nat => n < 60 ∧ Assoc.find s.auctions n = some t.ctx
    let bad := fun cause : Nat => traps s0 tid q { cls := if cause = 1 then 6 else 2, cspace := 3, cause := cause,
                                                    addr := 0, info := 0, words := true, async := false }
    let l := Assoc.get Lane.start s.lanes (x % 4)
    let fs := (t.sq q).fences
    (¬ bound x → exec (.bid w a b) s = bad 1) ∧
    (bound x →
      (t.bidOf x = none → t.bids.length < 4 → exec (.bid w a b) s =
        ends (s0.modTask tid fun _ => { t with bids := t.bids ++ [⟨x, v, .posted, none, fs⟩] }) tid q t w) ∧
      (t.bidOf x = none → 4 ≤ t.bids.length → exec (.bid w a b) s = waits s0 tid q .bidFull false) ∧
      (∀ e, t.bids = [e] → e.num = x → e.st ≠ .entered → exec (.bid w a b) s =
        ends (s0.modTask tid fun _ => { t with bids := [⟨x, v, .posted, none, fs⟩] }) tid q t w) ∧
      (∀ e, t.bids = [e] → e.num = x → e.st = .entered → exec (.bid w a b) s =
        ends (s0.modTask tid fun _ => { t with bids := [{ e with next := some v, after := fs }] }) tid q t w)) ∧
    (t.bidOf (x % 64) = none → exec (.bidw w d a) s = bad 11) ∧
    (∀ e, t.bidOf (x % 64) = some e →
      (∀ key own, e.st = .result key own → exec (.bidw w d a) s =
        ends ((s0.modTask tid fun t => { t with bids := t.bids.filter fun b => b.num != x % 64 }).result tid q 1 d
          (BitVec.ofNat 64 ((if own then 2 ^ 63 else 0) + x % 64 * 2 ^ 43 + key.toNat))) tid q t w) ∧
      ((e.st = .posted ∨ e.st = .entered) → exec (.bidw w d a) s = waits s0 tid q .bidw true)) ∧
    (bound l.number → exec (.ares w d a) s =
      ends (s0.interlock tid q d (BitVec.ofNat 64 (l.number * 2 ^ 43 + l.key.toNat))) tid q t w) ∧
    (¬ bound l.number → exec (.ares w d a) s = ends (s0.interlock tid q d (BitVec.ofNat 64 l.key.toNat)) tid q t w)) ∧
  ((∀ (s : State) (cls : Nat), Assoc.wf GovClass.start s.classes = true →
    let g := s.govClass cls
    (g.due = [] ∨ s.evaluation ≠ none → exec (.boundaryEvaluation cls) s = .next s) ∧
    (g.due ≠ [] → s.evaluation = none →
      (∀ k, s.psrFrom cls 0 = some k → ∃ s', exec (.boundaryEvaluation cls) s = .next s' ∧
        s'.evaluation = some { cls := cls, psr := some k, wins := [], agreed := [], changes := none } ∧ s'.epoch = s.epoch ∧
        s'.psrs = s.psrs ∧ s'.classes = s.classes) ∧
      (s.psrFrom cls 0 = none → s.launchesOf cls = [] → ∃ s', exec (.boundaryEvaluation cls) s = .next s' ∧
        s'.evaluation = none ∧ s'.epoch = s.epoch + 1 ∧ s'.psrs = s.psrs ∧
        (g.newTarget = none → s'.govClass cls = { g with due := g.due.drop 1, ended := g.ended + 1 }) ∧
        ((Assoc.get Ring.start s.rings 0).psrWait ≠ none → s'.agenda = .ring 0 :: s.agenda) ∧
        (∀ n, g.newTarget = some n → (s'.govClass cls).target = n ∧ (s'.govClass cls).newTarget = none)))) ∧
  (∀ (s : State) (v : Evaluation) (k : Nat) (es : List Entrant) (silent : BitVec 8), Assoc.wf Lane.start s.lanes = true →
    s.evaluation = some v → v.psr = some k → (s.lane 2).round = some (62, es) → (s.lane 2).rerun = false →
    (s.lane 2).testing = false → (∀ e ∈ es, e.task = none) →
    ∃ s' key, exec (.auctionRoundEnd 2 false silent) s = .next s' ∧ (s'.lane 2).key = key ∧ (s'.lane 2).number = 62 ∧
      (∀ e ∈ es, e.key.toNat ≤ key.toNat) ∧ (es ≠ [] → ∃ e ∈ es, e.key = key) ∧
      (v.wins.length < 2 → s'.evaluation = some { v with wins := v.wins ++ [key.toNat] } ∧ s'.epoch = s.epoch ∧ s'.psrs = s.psrs) ∧
      (∀ k', v.wins.length = 2 → s.psrFrom v.cls (k + 1) = some k' → s'.evaluation = some { v with
          psr := some k', wins := [],
          agreed := if (v.wins ++ [key.toNat]).contains 0 then v.agreed else Assoc.put v.agreed k ((v.wins ++ [key.toNat]).map keyBid) } ∧
        s'.epoch = s.epoch ∧ s'.psrs = s.psrs) ∧
      (∀ a b, v.wins = [a, b] → s.psrFrom v.cls (k + 1) = none → s.launchesOf v.cls = [] → v.changes = none → v.agreed = [] →
        s'.evaluation = none ∧ s'.epoch = s.epoch + 1 ∧
        (s.poisonAt (.psr (k / 8) (k % 8)) = none → Assoc.get [] s.roleHist k = [] → Assoc.wf Psr.start s.psrs = true →
          s.deferred (s.psr k) = false → (s.psr k).wcur < (s.psr k).wcap → entryEn ((s.psr k).entry ((s.psr k).wcur + 1)) = true →
          a ≠ 0 → key ≠ 0 → 2 ^ 32 - 1 - keyBid key.toNat < keyBid b →
          (s'.psr k).wcur = (s.psr k).wcur + 1 ∧ (s'.psr k).gen = (s.psr k).gen + 1 ∧ (s'.psr k).qcnt = 0))) ∧
  (∀ (s : State) (lane : Fin 4), Assoc.wf Lane.start s.lanes = true → TasksOk s →
    let l := s.lane lane.val
    (l.testing = true ∨ l.round ≠ none ∧ l.rerun = false → exec (.auctionCall lane) s = .next s) ∧
    (l.testing = false → l.round = none → 4 ≤ l.run → ∃ s', exec (.auctionCall lane) s = .next s' ∧
      s'.lane lane.val = { l with testing := true } ∧ s'.tasks = s.tasks) ∧
    (l.testing = false → l.round = none → l.run < 4 → l.rerun = false → lane.val = 3 → s.heartbeatDue = true →
      ∃ s', exec (.auctionCall lane) s = .next s' ∧ (s'.lane 3).round = some (63, []) ∧ s'.heartbeatDue = false ∧
        (s'.lane 3).swept = l.swept ∧ s'.tasks = s.tasks) ∧
    (∀ n, l.testing = false → l.round = none → l.run < 4 → l.rerun = false → (lane.val ≠ 3 ∨ s.heartbeatDue = false) →
      s.nextNumber lane.val = some n → ∃ s', exec (.auctionCall lane) s = .next s' ∧
        (s'.lane lane.val).round = some (n, s.entrants n) ∧ (s'.lane lane.val).swept = some n ∧
        ∀ tid t b, Assoc.find s.tasks tid = some t → t.bidOf n = some b → t.bidding b = true →
          ∃ t' b', Assoc.find s'.tasks tid = some t' ∧ t'.bidOf n = some b' ∧ b'.st = .entered ∧ b'.bid = b.bid) ∧
    (∀ n es, l.testing = false → l.run < 4 → l.rerun = true → l.round = some (n, es) → ∃ s' es', exec (.auctionCall lane) s = .next s' ∧
      (s'.lane lane.val).round = some (n, es') ∧ (s'.lane lane.val).rerun = false ∧ ∀ e ∈ es, s.stands e = true → e ∈ es') ∧
    (∀ bad silent, l.round = none ∨ l.rerun = true ∨ l.testing = true →
      exec (.auctionRoundEnd lane bad silent) s = .next s) ∧
    (∀ n es silent, l.round = some (n, es) → l.rerun = false → l.testing = false → l.retiredWires = 0 →
      ∃ s', exec (.auctionRoundEnd lane true silent) s = .next s' ∧ s'.tasks = s.tasks ∧
        s'.lane lane.val = { l with voids := l.voids + 1, run := l.run + 1, rerun := true }) ∧
    (∀ n es silent, l.round = some (n, es) → l.rerun = false → l.testing = false → n ≤ 60 →
      ∃ s' key, exec (.auctionRoundEnd lane false silent) s = .next s' ∧ (s'.lane lane.val).key = key ∧
        (s'.lane lane.val).number = n ∧ (s'.lane lane.val).round = none ∧ (∀ e ∈ es, e.key.toNat ≤ key.toNat) ∧
        (es ≠ [] → ∃ e ∈ es, e.key = key) ∧ (n = 60 → s'.elections = s.elections.drop 1) ∧
        ∀ e ∈ es, ∀ tid t b, e.task = some tid → (∀ e' ∈ es, e'.task = some tid → e' = e) →
          Assoc.find s.tasks tid = some t → t.bidOf n = some b → b.st = .entered → b.next = none →
          ∃ t' b', Assoc.find s'.tasks tid = some t' ∧ t'.bidOf n = some b' ∧ b'.st = .result key (key == e.key)) ∧
    (∀ stuck, (l.testing = false → exec (.wireTestComplete lane stuck) s = .next s) ∧
      (l.testing = true → ∃ s', exec (.wireTestComplete lane stuck) s = .next s' ∧ s'.lane lane.val =
        { l with testing := false, run := 0, retiredWires := l.retiredWires + (if stuck then 1 else 0) }))) ∧
  (∀ s : State, exec .heartbeatTick s = .next { s with heartbeatDue := true }))

/-- R19, R372 to R375, R378, R379: a corrected error is counted and changes nothing else; an uncorrectable one marks its sector, where
there is one to strike, and sends its owner a record; a noted machine check is delivered to the K-seq as an asynchronous trap of class
15; a first parity error begins the cut at whose end its task goes back to its image, and a task without an image ends; a second
one that retires the core binds a spare, which has no error counted; a scrub
changes nothing; a failed channel is spared, or its share of the capacity goes; a CRC error is counted per lane, and a retired lane is
spared by one of its direction or lost; a link sleeps, wakes with no snoop left to do, and a die whose link was to wake and does not
fails. Which bytes a lost channel takes, when an earlier error still counts and which lanes are a direction's are the model's (log
entries 17, 40 and 81). -/
def Obligations.ErrorEvents : Prop :=
  (∀ (s : State) (arr : Fin 16), exec (.scrub arr) s = .next s) ∧
  (∀ (s : State) (arr : Fin 16), Assoc.wf 0 s.corrected = true → ∃ s', exec (.correctableError arr) s = .next s' ∧
    Assoc.get 0 s'.corrected arr.val = Assoc.get 0 s.corrected arr.val + 1 ∧
    (∀ k, k ≠ arr.val → Assoc.get 0 s'.corrected k = Assoc.get 0 s.corrected k) ∧ { s' with corrected := s.corrected } = s) ∧
  (∀ (s : State) (arr : Fin 16) (loc : Loc), s.present loc = false → exec (.uncorrectableError arr loc) s = .next s) ∧
  (∀ (s : State) (arr : Fin 16) (loc : Loc), s.present loc = true → (∀ d c pa, loc ≠ .l1 d c pa) →
    ∃ s', exec (.uncorrectableError arr loc) s = .next s' ∧ s'.poisonAt loc = some arr.val ∧
      (∀ l, l ≠ loc → s'.poisonAt l = s.poisonAt l) ∧ s'.mem = s.mem ∧ s'.tasks = s.tasks ∧
      (∀ cid c addr k, s.owners loc = [cid] → Assoc.find s.ctxs cid = some c → c.evq = some (addr, k) → c.lost = 0 →
        s.evqFree addr k c.produced = true → Memory.wf s.hostMem = true →
        readBytes s'.hostMem (addr + 256 * (c.produced.toNat % 2 ^ k)) 64 = (s.checkRecord arr.val loc).bytes)) ∧
  (∀ (s : State) (tid : Nat) (t : Task), Assoc.find s.tasks tid = some t →
    (t.checks = [] ∨ t.handler ≠ none ∨ (t.life ≠ .running ∧ t.life ≠ .ending) ∨ s.moves t = false →
      exec (.machineCheck tid) s = .next s) ∧
    (∀ c rest, t.checks = c :: rest → t.handler = none → t.life = .running ∨ t.life = .ending → s.moves t = true →
      exec (.machineCheck tid) s = traps (s.modTask tid fun x => { x with checks := rest }) tid .k
        { cls := 15, cspace := c.cspace, cause := c.cause, addr := c.addr.toNat, info := c.array, words := false,
          async := true })) ∧
  (∀ (s : State) (tid : Nat) (t : Task) (arr : Fin 16), Assoc.find s.tasks tid = some t → TasksOk s →
    (t.resident = false → exec (.parityError tid arr) s = .next s) ∧
    (t.resident = true → t.life ≠ .cutting .cancel → Assoc.get 0 (s.core t.die t.core).parity arr.val = 0 →
      (Assoc.has s.images tid = true → ∃ s' t', exec (.parityError tid arr) s = .next s' ∧
        Assoc.find s'.tasks tid = some t' ∧ t'.life = .cutting (.replay arr.val) ∧ s'.images = s.images ∧
        ∀ q, t'.issues q = false) ∧
      (Assoc.find s.images tid = none → ∃ s', exec (.parityError tid arr) s = .next s' ∧ Assoc.find s'.tasks tid = none)) ∧
    (t.resident = true → Assoc.get 0 (s.core t.die t.core).parity arr.val ≠ 0 →
      (s.die t.die).lostCores.contains t.core = false → 0 < (s.die t.die).spares → Assoc.wf Die.start s.dies = true →
      Assoc.wf CoreState.start s.cores = true → ∃ s', exec (.parityError tid arr) s = .next s' ∧
        (s'.die t.die).lostCores = (s.die t.die).lostCores ∧
        ((s'.die t.die).spares = (s.die t.die).spares ∨
          (s'.die t.die).spares = (s.die t.die).spares - 1 ∧ (s'.core t.die t.core).parity = []))) ∧
  (∀ (s : State) (d ln : Nat), Assoc.wf Die.start s.dies = true →
    let x := s.die d
    (0 < x.spareChannels → ∃ s', exec (.channelFailure d) s = .next s' ∧
      s'.die d = { x with spareChannels := x.spareChannels - 1 }) ∧
    (x.spareChannels = 0 → 0 < x.channels → ∃ s', exec (.channelFailure d) s = .next s' ∧
      s'.die d = { x with channels := x.channels - 1, lostBytes := x.lostBytes + 3 * 2 ^ 30 }) ∧
    (x.spareChannels = 0 → x.channels = 0 → exec (.channelFailure d) s = .next s) ∧
    (let spares := if ln % 2 = 0 then x.laneSparesIn else x.laneSparesOut
     let spared := if ln % 2 = 0 then { x with laneSparesIn := x.laneSparesIn - 1 }
       else { x with laneSparesOut := x.laneSparesOut - 1 }
     Assoc.wf 0 x.crc = true → ∃ s' n, exec (.flitCrcError d ln) s = .next s' ∧ n ≤ Assoc.get 0 x.crc ln + 1 ∧
      ((1 ≤ n ∧ n < 8 ∧ s'.die d = { x with crc := Assoc.set 0 x.crc ln n }) ∨
        (n = 8 ∧ 0 < spares ∧ s'.die d = { spared with crc := Assoc.set 0 x.crc ln 0, repairing := true }) ∨
        (n = 8 ∧ spares = 0 ∧ s'.die d = { x with crc := Assoc.set 0 x.crc ln 0, lanesLost := x.lanesLost + 1 }))) ∧
    (∃ s', exec (.laneRepairComplete d) s = .next s' ∧ s'.die d = { x with repairing := false }) ∧
    (s.dieWorks d = false → exec (.linkSleep d) s = .next s) ∧
    (s.dieWorks d = true → ∃ s', exec (.linkSleep d) s = .next s' ∧ s'.die d = { x with linkAsleep := true }) ∧
    (∃ s', exec (.linkWakeDone d) s = .next s' ∧ s'.die d = { x with linkAsleep := false, snoops := [] }) ∧
    (x.linkAsleep = false ∨ x.snoops = [] → exec (.linkWakeTimeout d) s = .next s) ∧
    (x.linkAsleep = true → x.snoops ≠ [] → s.dieWorks d = true →
      ∃ s', exec (.linkWakeTimeout d) s = .next s' ∧ s'.dieWorks d = false ∧ s'.cluster.all (fun e => e.1 / 4096 / 8 != d) = true) ∧
    (s.boot = 3 → ∃ s', exec (.linkTrainTimeout d) s = .next s' ∧ s'.die d = { x with leftOut := true }) ∧
    (s.boot ≠ 3 → exec (.linkTrainTimeout d) s = .next s))

/-! ### Words, decoding and steps -/

/-- R118 to R128: words of the spec's own examples decode to the instructions the spec prints beside them, on a sequencer that may
execute them. -/
def Obligations.SampleWords : Prop :=
  decode .k 0xF0000000 0 = .ok (.nop 15) ∧ decode .k 0x00000004 0 = .ok (.tend 0) ∧
  decode .k 0x00000051 0 = .ok (.trap 0 5) ∧ decode .k 0x00140105 0 = .ok (.srd 0 (.x 20) .trec) ∧
  decode .k 0x00001436 0 = .ok (.swr 0 (.x 5) .sto) ∧ decode .w 0x00000003 0 = .ok (.brk 0) ∧
  decode .k 0x0471012C 0 = .ok (.lcset 0 1 300) ∧ decode .k 0x05432401 0 = .ok (.larm 0 (.x 3) (.x 9)) ∧
  decode .k 0x05451804 0 = .ok (.wqpop 0 (.x 5) (.x 6)) ∧ decode .l 0x06A68800 0 = .ok (.hist 0 (.a 6) (.a 2)) ∧
  decode .l 0x06A50031 0 = .ok (.histrd 0 (.a 5) 3 false) ∧ decode .k 0x06870C02 0 = .ok (.gvget 0 (.x 7) (.x 3)) ∧
  decode .c 0x06C00011 0 = .ok (.mark 0 .l) ∧ decode .k 0x07C01470 0 = .ok (.bid 0 (.x 5) (.x 7)) ∧
  decode .c 0x0A000000 0 = .ok (.vadam 0 ⟨0, false⟩) ∧ decode .c 0x0AF10000 0x00000045 = .ok (.mshape 0 1 1 5) ∧
  decode .c 0x0AC40012 0x00000FF8 = .ok (.asetx 0 4 true 0xFF8) ∧ decode .c 0x0B03C405 0 = .ok (.mpoll 0 3 1) ∧
  decode .c 0x0B438203 0 = .ok (.ald 0 3 (.lq 0) (.lq 0)) ∧ decode .c 0x0BB20000 0x00000030 = .ok (.gemvgo 0 2 0x30) ∧
  decode .c 0x0B80C801 0 = .ok (.gemvwait 0 2)

/-- R118 to R128: every well-formed instruction of one word, on every sequencer that may execute it, decodes from its word to
itself, with every operand at every value its encoding admits. -/
def Obligations.OneWordRoundTrip : Prop :=
  ∀ (me : Seq) (i : Instr) (w : Nat), i.wf me = true → encode i = [w] → (∀ p : PitchInstr, i ≠ p.toInstr) →
    w < 2 ^ 32 ∧ decode me w 0 = .ok i

/-- R118, R121, R122, R125: every well-formed instruction of two words decodes from its words to itself on the C-seq, with every
operand at every value its encoding admits. -/
def Obligations.TwoWordRoundTrip : Prop :=
  ∀ (i : Instr) (w v : Nat), i.wf .c = true → encode i = [w, v] → w < 2 ^ 32 ∧ v < 2 ^ 32 ∧ decode .c w v = .ok i

/-- R90, R355, R403, R404: every well-formed pitch instruction decodes from its word to itself, and every command from the eight words of its
descriptor; an OP that the command tables do not define is read as the command that completes as unsupported. -/
def Obligations.PitchAndCommandRoundTrip : Prop :=
  (∀ (me : Seq) (p : PitchInstr), p.toInstr.wf me = true → ∃ w, encode p.toInstr = [w] ∧ w < 2 ^ 32 ∧ readPitch w = some p) ∧
  (∀ c : Command, (∀ tag op, c = .unsupportedCommand tag op → op.toNat ∉ ([1, 2, 3, 4, 5, 6, 0x10, 0x11, 0x20, 0x21, 0x22, 0x23,
      0x24, 0x25, 0x26, 0x27, 0x28, 0x29, 0x2A, 0x2B, 0x2C, 0x30, 0x31, 0x32, 0x40, 0x41, 0x42, 0x50, 0x51, 0x60, 0x61,
      0x70] : List Nat)) → (encode c.toInstr).length = 8 ∧ readDescriptor (encode c.toInstr) = c)

/-- R122 to R128, R131: what the decoder accepts is well formed for the sequencer that decodes it.
R128, R131: no sequencer accepts a reserved major opcode, a C-seq second word beside a 32-bit group, or an instruction of a group
it may not execute: each ends in the fate the rule names. -/
def Obligations.DecodingIsExact : Prop :=
  (∀ (me : Seq) (w v : Nat) (i : Instr), decode me w v = .ok i → i.wf me = true) ∧
  (∀ (me : Seq) (w v : Nat),
    (0x2F ≤ w / 2 ^ 22 % 64 → decode me w v = .error .illegalInstruction) ∧
    (me = .c → w / 2 ^ 22 % 64 < 0x20 → v ≠ 0 → decode me w v = .error .illegalInstruction) ∧
    (me ≠ .c → 0x20 ≤ w / 2 ^ 22 % 64 → w / 2 ^ 22 % 64 < 0x2F → decode me w v = .error .wrongSequencer) ∧
    (w / 2 ^ 22 % 64 = 0x12 ∨ w / 2 ^ 22 % 64 = 0x13 → me = .l ∨ me = .w → decode me w v = .error .wrongSequencer))

/-- R104, R113, R118, R129 to R131, R147, R222, R295, R300, R354, R369, R402: a step runs the decoded instruction, once what nothing holds any longer
has been performed. When a sequencer has the turn, issues, has no stall count to pass, no machine check, fence or product to wait for,
and its PC translates to memory whose bytes decode to `i`, the step is `exec i` with that sequencer moving and the translation kept; an
instruction that has issued and waits goes on with the words it was fetched with; a pitch processor and a ring run the word and the
descriptor they stand at; an event happens; firmware sets a core's mode. In a core cycle a task's sequencers
issue in ascending code. A stall count passes first; a fence with code in Q holds the fetch, and one with xl in Q a page walk it needs,
and the issue clock does not count these cycles; a product that runs on without its `mma` is waited for, and reports its skew; and
a fetch or a decoder that refuses takes the trap the rules name. The cause of the reserved addresses between the windows and 2^60 is
the model's reading (log entry 58). -/
def Obligations.StepRunsDecoded : Prop :=
  (∀ (s : State) (tid : Nat) (q : Seq) (t0 : Task) (rest : List Turn), s.settled.agenda = .issue tid q :: rest →
    s.settled.poweredDown = false → Assoc.find s.settled.tasks tid = some t0 →
    let t := t0.countMarks q
    let s1 := State.setTask { s.settled with agenda := rest } tid t
    let s2 := { s1 with cur := .seq tid q, curWord := 0 }
    let x := t.sq q
    t.issues q = true → (s1.die t.die).halted = false →
    (x.stall ≠ 0 → step s = .next (s1.expireStall tid q)) ∧
    (x.stall = 0 → (q = .k → t.handler = none → t.checks = []) →
      (∀ y : Word, x.words = some y → ∀ i, decode q (y.toNat % 2 ^ 32) (y.toNat / 2 ^ 32) = .ok i →
        step s = exec i { s2 with curWord := BitVec.ofNat 64 (y.toNat % 2 ^ 32 + 2 ^ 32 * (y.toNat / 2 ^ 32)) }) ∧
      (∀ m, x.words = none → q = .c → t.sync = some m → m.detached = true → m.op.finished = true →
        step s = .next ((s2.modTask tid fun t => { t with sync := none }).takeTrap tid .c
          { cls := 11, cspace := 0, cause := 0, addr := 0, info := 0, words := false, async := false })) ∧
      (x.words = none → (∀ m, q = .c → t.sync = some m → m.detached = false) →
        (x.codeHeld = true → step s = .next (s2.modSq tid q fun y => { y with wait := some .fence })) ∧
        (x.codeHeld = false →
          let pc := x.pc.toNat
          (2 ^ 60 ≤ pc ∨ (0xFF0 * 2 ^ 48 ≤ pc ∧ pc < 0xFF3 * 2 ^ 48) → step s = .next (s2.takeTrap tid q
            { cls := 6, cspace := 0, cause := 0, addr := pc, info := 0, words := false, async := false })) ∧
          (0xFF3 * 2 ^ 48 ≤ pc → pc < 2 ^ 60 → step s = .next (s2.takeTrap tid q
            { cls := 10, cspace := 5, cause := 1, addr := pc, info := 0, words := false, async := false })) ∧
          (s2.walkHeld t q pc q.size = true → step s = .next (s2.modSq tid q fun y => { y with wait := some .fence })) ∧
          (∀ c, pc < 0xFF0 * 2 ^ 48 → s2.walkHeld t q pc q.size = false → c < 16 → s2.resolve t pc .exec = .error (.translation c) → step s = .next (s2.takeTrap tid q
            { cls := 10, cspace := 5, cause := c, addr := pc, info := 0, words := false, async := false })) ∧
          (∀ pa st, pc < 0xFF0 * 2 ^ 48 → s2.walkHeld t q pc q.size = false → s2.resolve t pc .exec = .ok (.phys pa st) →
            (isHostPa pa = false → s2.poisonAt (.hbm (pa / 64 * 64)) = none) →
            let bytes := s2.physRead pa q.size
            let w := leNat (bytes.take 4)
            let v := leNat (bytes.drop 4)
            let s3 := { s2.keepVa t pc q.size with curWord := BitVec.ofNat 64 (w + 2 ^ 32 * v) }
            (∀ i, decode q w v = .ok i → step s = exec i s3) ∧
            (∀ f, decode q w v = .error f → step s = .next (s3.takeTrap tid q
              { cls := (match f with | .illegalInstruction => 2 | .wrongSequencer => 3 | .illegalRegister => 4), cspace := 0,
                cause := 0, addr := 0, info := 0, words := true, async := false }))))))) ∧
  (∀ (s : State) (turn : Turn) (rest : List Turn), s.settled.agenda = turn :: rest → s.settled.poweredDown = false →
    let s1 := { s.settled with agenda := rest }
    (∀ i, turn = .event i → encode i = [] → step s = exec i { s1 with cur := .outside }) ∧
    (∀ p r i, turn = .pitch p → (s1.pitch p).run = some r → s1.kernelPoison p r.pc = false →
      readPitch (Assoc.get 0 (s1.pitch p).store r.pc).toNat = some i → step s = exec i.toInstr { s1 with cur := .pitch p }) ∧
    (∀ n, turn = .ring n → s1.ringReady n = true →
      step s = exec (readDescriptor (s1.descriptorAt n)).toInstr { s1 with cur := .ring n }) ∧
    (∀ a bytes, turn = .hostMem a bytes → step s = .next { s1 with hostMem := writeBytes s1.hostMem (a % 2 ^ 51) bytes }) ∧
    (turn = .cp → step s = .next (s1.runCp cpFuel)) ∧
    (∀ t, turn = .cycle t → step s = .next { s1 with agenda := Seq.all.map (Turn.issue t) ++ s1.agenda }) ∧
    (∀ d c m, turn = .service d c m → m < 4 → step s = .next (s1.setCore d c { s1.core d c with mode := m })))

/-- R131, R356, R403: every step goes on: no instruction, command or event that an agent runs stops the machine. -/
def Obligations.EveryStepGoesOn : Prop := ∀ s : State, Sys2Proof.Safety.goesOn s

/-- R10 to R13, R19, R411, R406, R407: the power cap lowers every working die that is not held; a die past 95 °C lowers its own point,
held or not, and neither makes a die run faster; a critical die or lost coolant makes THERM 2; a condition that clears returns the die
to the host's point, or to nominal when it is held (that it ends the other conditions of the die is the model's: log entry 83); 100 ms
after Critical the package powers down; boot's steps follow one another, a failed verification holds them at code 1, step 4 tests the
dies' cores and channels and binds spares, and PERST# starts them anew with the memories standing (assumption 18).
R411, R406: a package that has powered down moves only by a BOOT event and by the host's writes to its own memory. -/
def Obligations.PowerAndBoot : Prop :=
  ((∀ s : State, Assoc.wf Die.start s.dies = true → ∃ s', exec .powerCapExceeded s = .next s' ∧
    ∀ d ∈ s.workingDies, (s.holdsDie d = true → s'.die d = s.die d) ∧
      (s.holdsDie d = false → (s'.die d).capped = true ∧ 1 ≤ (s'.die d).point ∧ (s.die d).point ≤ (s'.die d).point)) ∧
  (∀ (s : State) (d : Nat) (temp : BitVec 8), Assoc.wf Die.start s.dies = true →
    (s.dieWorks d = false → exec (.junctionOver95 d temp) s = .next s) ∧
    (s.dieWorks d = true → ∃ s', exec (.junctionOver95 d temp) s = .next s' ∧ (s'.die d).hot = true ∧
      1 ≤ (s'.die d).point ∧ (s.die d).point ≤ (s'.die d).point ∧
      ((s'.die d).point ≠ (s.die d).point → (s'.die d).halted = true)) ∧
    (d < 8 → ∃ s', exec (.junctionCritical d) s = .next s' ∧ (s'.die d).critical = true ∧
      s'.therm = (if s.poweredDown then 3 else 2)) ∧
    (d < 8 → ∃ s', exec (.thermalCleared d) s = .next s' ∧ (s'.die d).hot = false ∧ (s'.die d).capped = false ∧
      (s'.die d).critical = false ∧
      (s'.die d).point = (if s.holdsDie d then 0 else (s.die d).hostPoint))) ∧
  (∀ s : State, (∃ s', exec .coolantFlowLost s = .next s' ∧ s'.coolantLost = true ∧
      s'.therm = (if s.poweredDown then 3 else 2) ∧ s'.dies = s.dies) ∧
    (∃ s', exec (.thermalCleared 8) s = .next s' ∧ s'.coolantLost = false ∧ s'.dies = s.dies) ∧
    (s.therm ≠ 2 → exec .shutdownTimer s = .next s) ∧
    (s.therm = 2 → ∃ s', exec .shutdownTimer s = .next s' ∧ s'.poweredDown = true ∧ s'.therm = 3)) ∧
  (∀ (s : State) (ok : Bool) (tested : List (Nat × Nat)),
    let moves := fun n : Nat => ∃ s', exec (.boot false ok tested) s = .next s' ∧ s'.boot = n ∧ s'.mem = s.mem ∧
      s'.tasks = s.tasks
    (s.boot = 0 → moves 1) ∧
    (s.boot = 1 → s.bootFail = false → ok = true → moves 2) ∧
    (s.boot = 1 → s.bootFail = false → ok = false → exec (.boot false ok tested) s = .next { s with bootFail := true }) ∧
    (s.boot = 1 → s.bootFail = true → exec (.boot false ok tested) s = .next s) ∧
    (s.boot = 2 → moves 3) ∧ (s.boot = 3 → moves 4) ∧ (s.boot = 4 → moves 5) ∧ (s.boot = 5 → moves 6) ∧
    (s.boot = 4 → Assoc.wf Die.start s.dies = true → ∃ s', exec (.boot false ok tested) s = .next s' ∧
      (s'.bootDies = true ↔ ∃ d < 8, s'.dieWorks d = true) ∧
      ∀ d < 8, let n := (tested.getD d (0, 0)).1
        let ch := (tested.getD d (0, 0)).2
        ((s.die d).leftOut = true ∨ n < 28 → s'.dieWorks d = false) ∧
        ((s.die d).leftOut = false → 28 ≤ n → s'.dieWorks d = true) ∧
        (s'.die d).spares = min 2 (n - 32) ∧ (∀ k, k ∈ (s'.die d).lostCores ↔ n ≤ k ∧ k < 32) ∧
        (s'.die d).channels = min 32 ch ∧ (s'.die d).spareChannels = min 2 (ch - 32)) ∧
    (6 ≤ s.boot → exec (.boot false ok tested) s = .next s) ∧
    (∃ s', exec (.boot true ok tested) s = .next s' ∧ s'.boot = 1 ∧ s'.tasks = [] ∧ s'.ctxs = [] ∧ s'.rings = [] ∧
      s'.mem = s.mem ∧ s'.hostMem = s.hostMem ∧ s'.poweredDown = false))) ∧
  (∀ (s : State) (turn : Turn) (rest : List Turn), s.poweredDown = true → s.agenda = turn :: rest →
    (∀ a b c, turn ≠ .event (.boot a b c)) → (∀ a bytes, turn ≠ .hostMem a bytes) → step s = .next { s with agenda := rest })

/-- Every memory of the package is listed in canonical form. -/
def MemoriesCanonical (s : State) : Prop := Memory.wf s.mem = true ∧ Memory.wf s.hostMem = true

/-- R2, R248: whatever a step does, the HBM5 stacks and the host's memory stay listed in their canonical form, so that equal contents
are equal data. -/
def Obligations.MemoriesStayCanonical : Prop :=
  ∀ s t : State, MemoriesCanonical s → step s = .next t → MemoriesCanonical t

/-- R60, R104, R402, R406: at power-on no ring is enabled, every PSR holds its reset value, every core is in Normal mode, every class's
target is 1, nothing is bound, placed or running, and both memories are in canonical form. Memory that nothing has written reads as 0,
and no die works before boot: these are the model's (assumptions 3 and 20). -/
def Obligations.ResetState : Prop :=
  MemoriesCanonical State.reset ∧ State.reset.tasks = [] ∧ State.reset.recs = [] ∧ State.reset.boot = 0 ∧
  State.reset.epoch = 0 ∧
  (∀ k, (State.reset.psr k).rscl = 0x7F ∧ (State.reset.psr k).hbase = -16 ∧ (State.reset.psr k).clip = 64 ∧
    (State.reset.psr k).h = 2 ∧ (State.reset.psr k).wmin = 1 ∧ (State.reset.psr k).wcap = 3 ∧ (State.reset.psr k).wcur = 2 ∧
    (State.reset.psr k).gen = 0 ∧ (State.reset.psr k).map16 = 0x81 ∧ (State.reset.psr k).map8 = 0xA6 ∧
    (State.reset.psr k).map4 = 0xA5 ∧ (State.reset.psr k).map2 = 0x0C) ∧
  (∀ d c, (State.reset.core d c).mode = 0) ∧ (∀ c, (State.reset.govClass c).target = 1) ∧
  (∀ n, (Assoc.get Ring.start State.reset.rings n).enabled = false ∧ (Assoc.get Ring.start State.reset.rings n).rbase = 0) ∧
  (∀ l, (State.reset.lrec l).state = .free) ∧ ∀ a, Assoc.get 0 State.reset.mem a = 0
end

