-- ==== Sys2Proof/Laws/Assoc.lean ====
section
/-! SUPPORT. What sparse maps do: reads after writes, and the canonical form every operation keeps. -/

namespace Sys2Proof

open Sys2Proof

/-- The keys of a map, with a bound below them all: what an induction over the canonical form needs. -/
def Assoc.above {α : Type} (n : Nat) (m : Assoc α) : Prop := ∀ e ∈ m, n ≤ e.1

theorem Assoc.find_put_self {α : Type} (m : Assoc α) (k : Nat) (v : α) : Assoc.find (Assoc.put m k v) k = some v := by
  induction m with
  | nil => simp [Assoc.put, Assoc.find]
  | cons e r ih =>
    obtain ⟨j, w⟩ := e
    simp only [Assoc.put]
    split
    · simp [Assoc.find]
    · split
      · simp [Assoc.find]
      · rename_i h1 h2
        have : (j == k) = false := by simpa using h2
        simp [Assoc.find, this, h1, ih]

theorem Assoc.find_put_ne {α : Type} (m : Assoc α) (k i : Nat) (v : α) (h : i ≠ k) :
    Assoc.find (Assoc.put m k v) i = Assoc.find m i := by
  have hki : (k == i) = false := by simpa using Ne.symm h
  induction m with
  | nil =>
    simp only [Assoc.put, Assoc.find, hki]
    split <;> simp_all
  | cons e r ih =>
    obtain ⟨j, w⟩ := e
    simp only [Assoc.put]
    split
    · rename_i h1
      simp only [Assoc.find, hki]
      by_cases hji : j = i
      · subst hji; simp; omega
      · have : (j == i) = false := by simpa using hji
        simp only [this]
        by_cases hi : i < k
        · have : i < j := by omega
          simp [hi, this]
        · simp [hi]
    · split
      · rename_i h1 h2
        have hjk : j = k := by simpa using h2
        subst hjk
        simp [Assoc.find, hki]
      · simp only [Assoc.find]
        by_cases hji : j = i
        · simp [hji]
        · have : (j == i) = false := by simpa using hji
          simp [this, ih]

theorem Assoc.get_put_self {α : Type} (d : α) (m : Assoc α) (k : Nat) (v : α) : Assoc.get d (Assoc.put m k v) k = v := by
  simp [Assoc.get, Assoc.find_put_self]

theorem Assoc.get_put_ne {α : Type} (d : α) (m : Assoc α) (k i : Nat) (v : α) (h : i ≠ k) :
    Assoc.get d (Assoc.put m k v) i = Assoc.get d m i := by
  simp [Assoc.get, Assoc.find_put_ne _ _ _ _ h]

/-- The canonical form at its head: the first value is no default, and the second key is larger. -/
theorem Assoc.wf_cons {α : Type} [DecidableEq α] (d : α) (j : Nat) (v : α) (r : Assoc α) :
    Assoc.wf d ((j, v) :: r) = true ↔ v ≠ d ∧ Assoc.above (j + 1) r ∧ Assoc.wf d r = true := by
  induction r generalizing j v with
  | nil => simp [Assoc.wf, Assoc.above]
  | cons e r ih =>
    obtain ⟨k, w⟩ := e
    have hk := ih k w
    simp only [Assoc.wf, Bool.and_eq_true, bne_iff_ne, decide_eq_true_eq]
    constructor
    · rintro ⟨⟨h1, h2⟩, h3⟩
      refine ⟨h1, ?_, h3⟩
      intro e he
      rcases List.mem_cons.1 he with rfl | he
      · exact h2
      · have := (hk.1 h3).2.1 e he
        omega
    · rintro ⟨h1, h2, h3⟩
      exact ⟨⟨h1, h2 (k, w) (by simp)⟩, h3⟩

/-- The head of a map in canonical form bounds the rest, so a smaller key is not listed. -/
theorem Assoc.find_below {α : Type} (m : Assoc α) (n k : Nat) (h : Assoc.above n m) (hk : k < n) : Assoc.find m k = none := by
  induction m with
  | nil => rfl
  | cons e r ih =>
    obtain ⟨j, w⟩ := e
    have hj : n ≤ j := h (j, w) (by simp)
    have : (j == k) = false := by simp; omega
    simp only [Assoc.find, this]
    simp
    intro h'
    omega

theorem Assoc.above_put {α : Type} (m : Assoc α) (n k : Nat) (v : α) (h : Assoc.above n m) (hk : n ≤ k) :
    Assoc.above n (Assoc.put m k v) := by
  induction m with
  | nil => intro e he; simp [Assoc.put] at he; subst he; exact hk
  | cons e r ih =>
    obtain ⟨j, w⟩ := e
    have hr : Assoc.above n r := fun e he => h e (List.mem_cons_of_mem _ he)
    have hj : n ≤ j := h (j, w) (by simp)
    intro e he
    simp only [Assoc.put] at he
    split at he
    · rcases List.mem_cons.1 he with rfl | he
      · exact hk
      · exact h e he
    · split at he
      · rcases List.mem_cons.1 he with rfl | he
        · exact hk
        · exact hr e he
      · rcases List.mem_cons.1 he with rfl | he
        · exact hj
        · exact ih hr e he

/-- Listing a value that is no default keeps the canonical form. -/
theorem Assoc.wf_put {α : Type} [DecidableEq α] (d : α) (m : Assoc α) (k : Nat) (v : α) (h : Assoc.wf d m = true)
    (hv : v ≠ d) : Assoc.wf d (Assoc.put m k v) = true := by
  induction m with
  | nil => simp [Assoc.put, Assoc.wf, hv]
  | cons e r ih =>
    obtain ⟨j, w⟩ := e
    obtain ⟨h1, h2, h3⟩ := (Assoc.wf_cons d j w r).1 h
    simp only [Assoc.put]
    split
    · rename_i hkj
      refine (Assoc.wf_cons d k v _).2 ⟨hv, ?_, h⟩
      intro e he
      rcases List.mem_cons.1 he with rfl | he
      · exact hkj
      · have := h2 e he
        omega
    · split
      · rename_i hjk
        have : j = k := by simpa using hjk
        subst this
        exact (Assoc.wf_cons d j v r).2 ⟨hv, h2, h3⟩
      · rename_i hkj hjk
        have : ¬ j = k := by simpa using hjk
        exact (Assoc.wf_cons d j w _).2 ⟨h1, Assoc.above_put r (j + 1) k v h2 (by omega), ih h3⟩

theorem Assoc.above_erase {α : Type} (m : Assoc α) (n k : Nat) (h : Assoc.above n m) : Assoc.above n (Assoc.erase m k) := by
  induction m with
  | nil => exact h
  | cons e r ih =>
    obtain ⟨j, w⟩ := e
    have hr : Assoc.above n r := fun e he => h e (List.mem_cons_of_mem _ he)
    simp only [Assoc.erase]
    split
    · exact h
    · split
      · exact hr
      · intro e he
        rcases List.mem_cons.1 he with rfl | he
        · exact h (j, w) (by simp)
        · exact ih hr e he

/-- Removing a key keeps the canonical form. -/
theorem Assoc.wf_erase {α : Type} [DecidableEq α] (d : α) (m : Assoc α) (k : Nat) (h : Assoc.wf d m = true) :
    Assoc.wf d (Assoc.erase m k) = true := by
  induction m with
  | nil => exact h
  | cons e r ih =>
    obtain ⟨j, w⟩ := e
    obtain ⟨h1, h2, h3⟩ := (Assoc.wf_cons d j w r).1 h
    simp only [Assoc.erase]
    split
    · exact h
    · split
      · exact h3
      · exact (Assoc.wf_cons d j w _).2 ⟨h1, Assoc.above_erase r _ k h2, ih h3⟩

/-- Storing keeps the canonical form. -/
theorem Assoc.wf_set {α : Type} [DecidableEq α] (d : α) (m : Assoc α) (k : Nat) (v : α) (h : Assoc.wf d m = true) :
    Assoc.wf d (Assoc.set d m k v) = true := by
  unfold Assoc.set
  split
  · exact Assoc.wf_erase d m k h
  · exact Assoc.wf_put d m k v h ‹_›

theorem Assoc.find_erase_self {α : Type} [DecidableEq α] (d : α) (m : Assoc α) (k : Nat) (h : Assoc.wf d m = true) :
    Assoc.find (Assoc.erase m k) k = none := by
  induction m with
  | nil => rfl
  | cons e r ih =>
    obtain ⟨j, w⟩ := e
    obtain ⟨-, h2, h3⟩ := (Assoc.wf_cons d j w r).1 h
    simp only [Assoc.erase]
    split
    · rename_i hkj
      have : (j == k) = false := by simp; omega
      simp [Assoc.find, this, hkj]
    · split
      · rename_i hjk
        have : j = k := by simpa using hjk
        subst this
        exact Assoc.find_below r (j + 1) j h2 (by omega)
      · rename_i hkj hjk
        have : (j == k) = false := by simpa using hjk
        simp [Assoc.find, this, hkj, ih h3]

theorem Assoc.find_erase_ne {α : Type} [DecidableEq α] (d : α) (m : Assoc α) (k i : Nat) (h : Assoc.wf d m = true)
    (hi : i ≠ k) : Assoc.find (Assoc.erase m k) i = Assoc.find m i := by
  induction m with
  | nil => rfl
  | cons e r ih =>
    obtain ⟨j, w⟩ := e
    obtain ⟨-, h2, h3⟩ := (Assoc.wf_cons d j w r).1 h
    simp only [Assoc.erase]
    split
    · rfl
    · split
      · rename_i hjk
        have hjk' : j = k := by simpa using hjk
        subst hjk'
        have hji : (j == i) = false := by simpa using Ne.symm hi
        by_cases hlt : i < j
        · simp [Assoc.find, hji, hlt, Assoc.find_below r (j + 1) i h2 (by omega)]
        · simp [Assoc.find, hji, hlt]
      · by_cases hji : j = i
        · subst hji; simp [Assoc.find]
        · have : (j == i) = false := by simpa using hji
          simp [Assoc.find, this, ih h3]

/-- A read at the key of a write gives the value written. -/
theorem Assoc.get_set_self {α : Type} [DecidableEq α] (d : α) (m : Assoc α) (k : Nat) (v : α) (h : Assoc.wf d m = true) :
    Assoc.get d (Assoc.set d m k v) k = v := by
  unfold Assoc.set
  split
  · rename_i hv; subst hv; simp [Assoc.get, Assoc.find_erase_self _ m k h]
  · exact Assoc.get_put_self d m k v

/-- A write leaves every other key alone. -/
theorem Assoc.get_set_ne {α : Type} [DecidableEq α] (d : α) (m : Assoc α) (k i : Nat) (v : α) (h : Assoc.wf d m = true)
    (hi : i ≠ k) : Assoc.get d (Assoc.set d m k v) i = Assoc.get d m i := by
  unfold Assoc.set
  split
  · simp [Assoc.get, Assoc.find_erase_ne d m k i h hi]
  · exact Assoc.get_put_ne d m k i v hi

/-! ### Runs of keys -/

theorem Assoc.above_ofList {α : Type} [DecidableEq α] (d : α) (l : List α) (lo : Nat) :
    Assoc.above lo (Assoc.ofList d l lo) := by
  induction l generalizing lo with
  | nil => intro e he; cases he
  | cons v r ih =>
    simp only [Assoc.ofList]
    split
    · intro e he; have := ih (lo + 1) e he; omega
    · intro e he
      rcases List.mem_cons.1 he with rfl | he
      · exact Nat.le_refl _
      · have := ih (lo + 1) e he; omega

theorem Assoc.below_ofList {α : Type} [DecidableEq α] (d : α) (l : List α) (lo : Nat) :
    ∀ e ∈ Assoc.ofList d l lo, e.1 < lo + l.length := by
  induction l generalizing lo with
  | nil => intro e he; cases he
  | cons v r ih =>
    simp only [Assoc.ofList, List.length_cons]
    split
    · intro e he; have := ih (lo + 1) e he; omega
    · intro e he
      rcases List.mem_cons.1 he with rfl | he
      · simp
      · have := ih (lo + 1) e he; omega

/-- A plain list becomes a map in canonical form. -/
theorem Assoc.wf_ofList {α : Type} [DecidableEq α] (d : α) (l : List α) (lo : Nat) : Assoc.wf d (Assoc.ofList d l lo) = true := by
  induction l generalizing lo with
  | nil => rfl
  | cons v r ih =>
    simp only [Assoc.ofList]
    split
    · exact ih (lo + 1)
    · exact (Assoc.wf_cons d lo v _).2 ⟨‹_›, Assoc.above_ofList d r (lo + 1), ih (lo + 1)⟩

/-- Two maps in canonical form, the second above the first, join in canonical form. -/
theorem Assoc.wf_append {α : Type} [DecidableEq α] (d : α) (a b : Assoc α) (ha : Assoc.wf d a = true)
    (hb : Assoc.wf d b = true) (h : ∀ x ∈ a, Assoc.above (x.1 + 1) b) : Assoc.wf d (a ++ b) = true := by
  induction a with
  | nil => exact hb
  | cons e r ih =>
    obtain ⟨j, v⟩ := e
    obtain ⟨h1, h2, h3⟩ := (Assoc.wf_cons d j v r).1 ha
    refine (Assoc.wf_cons d j v (r ++ b)).2 ⟨h1, ?_, ih h3 fun x hx => h x (List.mem_cons_of_mem _ hx)⟩
    intro e he
    rcases List.mem_append.1 he with he | he
    · exact h2 e he
    · exact h (j, v) (by simp) e he

theorem Assoc.wf_takeWhile {α : Type} [DecidableEq α] (d : α) (m : Assoc α) (p : Nat × α → Bool) (h : Assoc.wf d m = true) :
    Assoc.wf d (m.takeWhile p) = true := by
  induction m with
  | nil => rfl
  | cons e r ih =>
    obtain ⟨j, v⟩ := e
    obtain ⟨h1, h2, h3⟩ := (Assoc.wf_cons d j v r).1 h
    simp only [List.takeWhile_cons]
    split
    · exact (Assoc.wf_cons d j v _).2 ⟨h1, fun e he => h2 e ((List.takeWhile_sublist p).subset he), ih h3⟩
    · rfl

theorem Assoc.wf_dropWhile {α : Type} [DecidableEq α] (d : α) (m : Assoc α) (p : Nat × α → Bool) (h : Assoc.wf d m = true) :
    Assoc.wf d (m.dropWhile p) = true := by
  induction m with
  | nil => rfl
  | cons e r ih =>
    obtain ⟨j, v⟩ := e
    simp only [List.dropWhile_cons]
    split
    · exact ih ((Assoc.wf_cons d j v r).1 h).2.2
    · exact h

/-- In canonical form, what stands past a run of keys below a bound is at or above the bound. -/
theorem Assoc.above_dropWhile {α : Type} [DecidableEq α] (d : α) (m : Assoc α) (n : Nat) (h : Assoc.wf d m = true) :
    Assoc.above n (m.dropWhile fun e => e.1 < n) := by
  induction m with
  | nil => intro e he; cases he
  | cons e r ih =>
    obtain ⟨j, v⟩ := e
    obtain ⟨-, h2, h3⟩ := (Assoc.wf_cons d j v r).1 h
    simp only [List.dropWhile_cons]
    split
    · exact ih h3
    · rename_i hj
      simp at hj
      intro e he
      rcases List.mem_cons.1 he with rfl | he
      · exact hj
      · have := h2 e he; omega

theorem Assoc.below_takeWhile {α : Type} (m : Assoc α) (n : Nat) : ∀ e ∈ m.takeWhile (fun e => e.1 < n), e.1 < n := by
  intro e he
  have := List.mem_takeWhile_imp he
  simpa using this

/-- Replacing a run of keys keeps the canonical form. -/
theorem Assoc.wf_splice {α : Type} [DecidableEq α] (d : α) (m : Assoc α) (lo : Nat) (l : List α) (h : Assoc.wf d m = true) :
    Assoc.wf d (Assoc.splice d m lo l) = true := by
  unfold Assoc.splice
  have hlow := Assoc.below_takeWhile m lo
  have hmid := Assoc.below_ofList d l lo
  have hhigh := Assoc.above_dropWhile d m (lo + l.length) h
  refine Assoc.wf_append d _ _ (Assoc.wf_append d _ _ (Assoc.wf_takeWhile d m _ h) (Assoc.wf_ofList d l lo) ?_)
    (Assoc.wf_dropWhile d m _ h) ?_
  · intro x hx e he
    have := hlow x hx
    have := Assoc.above_ofList d l lo e he
    omega
  · intro x hx e he
    have := hhigh e he
    rcases List.mem_append.1 hx with hx | hx
    · have := hlow x hx; omega
    · have := hmid x hx; omega

theorem Assoc.find_append_of_below {α : Type} (a b : Assoc α) (k : Nat) (h : ∀ e ∈ a, e.1 < k) :
    Assoc.find (a ++ b) k = Assoc.find b k := by
  induction a with
  | nil => rfl
  | cons e r ih =>
    obtain ⟨j, v⟩ := e
    have hj : j < k := h (j, v) (by simp)
    have h1 : (j == k) = false := by simp; omega
    have h2 : ¬ k < j := by omega
    simp [Assoc.find, h1, h2, ih fun e he => h e (List.mem_cons_of_mem _ he)]

theorem Assoc.find_append_of_above {α : Type} (a b : Assoc α) (k : Nat) (h : Assoc.above (k + 1) b) :
    Assoc.find (a ++ b) k = Assoc.find a k := by
  induction a with
  | nil => exact Assoc.find_below b (k + 1) k h (by omega)
  | cons e r ih =>
    obtain ⟨j, v⟩ := e
    simp only [List.cons_append, Assoc.find, ih]

theorem Assoc.find_takeWhile {α : Type} (m : Assoc α) (n k : Nat) (h : k < n) :
    Assoc.find (m.takeWhile fun e => e.1 < n) k = Assoc.find m k := by
  induction m with
  | nil => rfl
  | cons e r ih =>
    obtain ⟨j, v⟩ := e
    simp only [List.takeWhile_cons]
    split
    · simp only [Assoc.find, ih]
    · rename_i hj
      simp at hj
      have h1 : (j == k) = false := by simp; omega
      have h2 : k < j := by omega
      simp [Assoc.find, h1, h2]

theorem Assoc.find_dropWhile {α : Type} (m : Assoc α) (n k : Nat) (h : n ≤ k) :
    Assoc.find (m.dropWhile fun e => e.1 < n) k = Assoc.find m k := by
  induction m with
  | nil => rfl
  | cons e r ih =>
    obtain ⟨j, v⟩ := e
    simp only [List.dropWhile_cons]
    split
    · rename_i hj
      simp at hj
      have h1 : (j == k) = false := by simp; omega
      have h2 : ¬ k < j := by omega
      simp [Assoc.find, h1, h2, ih]
    · rfl

theorem Assoc.get_ofList {α : Type} [DecidableEq α] (d : α) (l : List α) (lo i : Nat) (h : i < l.length) :
    Assoc.get d (Assoc.ofList d l lo) (lo + i) = l[i] := by
  induction l generalizing lo i with
  | nil => simp at h
  | cons v r ih =>
    cases i with
    | zero =>
      simp only [Assoc.ofList, Nat.add_zero, List.getElem_cons_zero]
      split
      · rename_i hv
        simp [Assoc.get, Assoc.find_below _ (lo + 1) lo (Assoc.above_ofList d r (lo + 1)) (by omega), hv]
      · simp [Assoc.get, Assoc.find]
    | succ i =>
      have := ih (lo + 1) i (by simpa using h)
      have e : lo + (i + 1) = lo + 1 + i := by omega
      simp only [Assoc.ofList, List.getElem_cons_succ, e]
      split
      · exact this
      · have h1 : (lo == lo + 1 + i) = false := by simp; omega
        have h2 : ¬ lo + 1 + i < lo := by omega
        simpa [Assoc.get, Assoc.find, h1, h2] using this

/-- A key inside a replaced run reads as the new value. -/
theorem Assoc.get_splice_in {α : Type} [DecidableEq α] (d : α) (m : Assoc α) (lo : Nat) (l : List α) (i : Nat)
    (h : Assoc.wf d m = true) (hi : i < l.length) : Assoc.get d (Assoc.splice d m lo l) (lo + i) = l[i] := by
  have hhigh := Assoc.above_dropWhile d m (lo + l.length) h
  unfold Assoc.splice Assoc.get
  rw [Assoc.find_append_of_above _ _ _ (fun e he => by have := hhigh e he; omega),
    Assoc.find_append_of_below _ _ _ (fun e he => by have := Assoc.below_takeWhile m lo e he; omega)]
  exact Assoc.get_ofList d l lo i hi

/-- A key outside a replaced run reads as before. -/
theorem Assoc.get_splice_out {α : Type} [DecidableEq α] (d : α) (m : Assoc α) (lo : Nat) (l : List α) (k : Nat)
    (h : Assoc.wf d m = true) (hk : k < lo ∨ lo + l.length ≤ k) :
    Assoc.get d (Assoc.splice d m lo l) k = Assoc.get d m k := by
  have hhigh := Assoc.above_dropWhile d m (lo + l.length) h
  unfold Assoc.splice Assoc.get
  rcases hk with hk | hk
  · rw [Assoc.find_append_of_above _ _ _ (fun e he => by have := hhigh e he; omega),
      Assoc.find_append_of_above _ _ _ (fun e he => by have := Assoc.above_ofList d l lo e he; omega),
      Assoc.find_takeWhile m lo k hk]
  · rw [Assoc.find_append_of_below _ _ _ (fun e he => ?_), Assoc.find_dropWhile m _ k hk]
    rcases List.mem_append.1 he with he | he
    · have := Assoc.below_takeWhile m lo e he; omega
    · have := Assoc.below_ofList d l lo e he; omega

theorem Assoc.length_dense {α : Type} (d : α) (m : Assoc α) (lo n : Nat) : (Assoc.dense d m lo n).length = n := by
  induction n generalizing m lo with
  | zero => rfl
  | succ n ih =>
    simp only [Assoc.dense]
    split
    · simp [ih]
    · split <;> simp [ih]

/-- The values read from a run of keys are those of its keys. -/
theorem Assoc.dense_getElem? {α : Type} [DecidableEq α] (d : α) (m : Assoc α) (lo n i : Nat) (h : Assoc.wf d m = true)
    (hi : i < n) : (Assoc.dense d m lo n)[i]? = some (Assoc.get d m (lo + i)) := by
  induction n generalizing m lo i with
  | zero => omega
  | succ n ih =>
    have hw := Assoc.wf_dropWhile d m (fun e => e.1 < lo) h
    have hab := Assoc.above_dropWhile d m lo h
    have hfind : Assoc.get d m (lo + i) = Assoc.get d (m.dropWhile fun e => e.1 < lo) (lo + i) := by
      simp [Assoc.get, Assoc.find_dropWhile m lo (lo + i) (by omega)]
    rw [hfind]
    simp only [Assoc.dense]
    rcases hb : m.dropWhile (fun e => decide (e.1 < lo)) with _ | ⟨⟨j, v⟩, r⟩
    · rw [hb]
      cases i with
      | zero => simp [Assoc.get, Assoc.find]
      | succ i => simpa [Assoc.get, Assoc.find] using ih [] (lo + 1) i rfl (by omega)
    · rw [hb] at hw hab ⊢
      obtain ⟨-, h2, h3⟩ := (Assoc.wf_cons d j v r).1 hw
      have hj : lo ≤ j := hab (j, v) (by simp)
      by_cases hjlo : j = lo
      · subst hjlo
        simp only [beq_self_eq_true, if_true]
        cases i with
        | zero => simp [Assoc.get, Assoc.find]
        | succ i =>
          have e : j + (i + 1) = j + 1 + i := by omega
          have h1 : (j == j + 1 + i) = false := by simp; omega
          have h4 : ¬ j + 1 + i < j := by omega
          simp only [List.getElem?_cons_succ, e]
          rw [ih r (j + 1) i h3 (by omega)]
          simp [Assoc.get, Assoc.find, h1, h4]
      · have hb : (j == lo) = false := by simpa using hjlo
        simp only [hb, Bool.false_eq_true, if_false]
        cases i with
        | zero =>
          have h4 : lo < j := by omega
          simp [Assoc.get, Assoc.find, hb, h4]
        | succ i =>
          have e : lo + (i + 1) = lo + 1 + i := by omega
          simp only [List.getElem?_cons_succ, e]
          exact ih ((j, v) :: r) (lo + 1) i hw (by omega)

end Sys2Proof
end

