-- ==== Sys2Proof/Laws/State.lean ====
section
/-! SUPPORT. What each update of the state leaves alone: one lemma per field per update, so that no proof unfolds one. -/

namespace Sys2Proof.Machine

variable (s : State) (t : Task) (x : SeqState)

/-- The sequencers are distinct parts of a task. -/
theorem Task.sq_setSq_self (q : Seq) : (t.setSq q x).sq q = x := by cases q <;> rfl

theorem Task.sq_setSq_ne (q r : Seq) (h : r ≠ q) : (t.setSq q x).sq r = t.sq r := by
  cases q <;> cases r <;> first | rfl | exact absurd rfl h

@[simp] theorem Task.setSq_sq (q : Seq) : t.setSq q (t.sq q) = t := by cases q <;> rfl

@[simp] theorem Task.setSq_setSq (q : Seq) (y : SeqState) : (t.setSq q x).setSq q y = t.setSq q y := by cases q <;> rfl

/-! ### `State.setTask` -/

@[simp] theorem State.setTask_cur (n : Nat) (t : Task) : (s.setTask n t).cur = s.cur := rfl
@[simp] theorem State.setTask_curWord (n : Nat) (t : Task) : (s.setTask n t).curWord = s.curWord := rfl
@[simp] theorem State.setTask_agenda (n : Nat) (t : Task) : (s.setTask n t).agenda = s.agenda := rfl
@[simp] theorem State.setTask_turns (n : Nat) (t : Task) : (s.setTask n t).turns = s.turns := rfl
@[simp] theorem State.setTask_fresh (n : Nat) (t : Task) : (s.setTask n t).fresh = s.fresh := rfl
@[simp] theorem State.setTask_uid (n : Nat) (t : Task) : (s.setTask n t).uid = s.uid := rfl
@[simp] theorem State.setTask_noWalks (n : Nat) (t : Task) : (s.setTask n t).noWalks = s.noWalks := rfl
@[simp] theorem State.setTask_mem (n : Nat) (t : Task) : (s.setTask n t).mem = s.mem := rfl
@[simp] theorem State.setTask_hostMem (n : Nat) (t : Task) : (s.setTask n t).hostMem = s.hostMem := rfl
@[simp] theorem State.setTask_cluster (n : Nat) (t : Task) : (s.setTask n t).cluster = s.cluster := rfl
@[simp] theorem State.setTask_stripes (n : Nat) (t : Task) : (s.setTask n t).stripes = s.stripes := rfl
@[simp] theorem State.setTask_poison (n : Nat) (t : Task) : (s.setTask n t).poison = s.poison := rfl
@[simp] theorem State.setTask_l1 (n : Nat) (t : Task) : (s.setTask n t).l1 = s.l1 := rfl
@[simp] theorem State.setTask_coreTlb (n : Nat) (t : Task) : (s.setTask n t).coreTlb = s.coreTlb := rfl
@[simp] theorem State.setTask_dieTlb (n : Nat) (t : Task) : (s.setTask n t).dieTlb = s.dieTlb := rfl
@[simp] theorem State.setTask_nextTask (n : Nat) (t : Task) : (s.setTask n t).nextTask = s.nextTask := rfl
@[simp] theorem State.setTask_images (n : Nat) (t : Task) : (s.setTask n t).images = s.images := rfl
@[simp] theorem State.setTask_cores (n : Nat) (t : Task) : (s.setTask n t).cores = s.cores := rfl
@[simp] theorem State.setTask_lotq (n : Nat) (t : Task) : (s.setTask n t).lotq = s.lotq := rfl
@[simp] theorem State.setTask_dies (n : Nat) (t : Task) : (s.setTask n t).dies = s.dies := rfl
@[simp] theorem State.setTask_recs (n : Nat) (t : Task) : (s.setTask n t).recs = s.recs := rfl
@[simp] theorem State.setTask_counters (n : Nat) (t : Task) : (s.setTask n t).counters = s.counters := rfl
@[simp] theorem State.setTask_readyCtr (n : Nat) (t : Task) : (s.setTask n t).readyCtr = s.readyCtr := rfl
@[simp] theorem State.setTask_cpq (n : Nat) (t : Task) : (s.setTask n t).cpq = s.cpq := rfl
@[simp] theorem State.setTask_retirements (n : Nat) (t : Task) : (s.setTask n t).retirements = s.retirements := rfl
@[simp] theorem State.setTask_ctxs (n : Nat) (t : Task) : (s.setTask n t).ctxs = s.ctxs := rfl
@[simp] theorem State.setTask_queues (n : Nat) (t : Task) : (s.setTask n t).queues = s.queues := rfl
@[simp] theorem State.setTask_phasers (n : Nat) (t : Task) : (s.setTask n t).phasers = s.phasers := rfl
@[simp] theorem State.setTask_barriers (n : Nat) (t : Task) : (s.setTask n t).barriers = s.barriers := rfl
@[simp] theorem State.setTask_auctions (n : Nat) (t : Task) : (s.setTask n t).auctions = s.auctions := rfl
@[simp] theorem State.setTask_lanes (n : Nat) (t : Task) : (s.setTask n t).lanes = s.lanes := rfl
@[simp] theorem State.setTask_heartbeatDue (n : Nat) (t : Task) : (s.setTask n t).heartbeatDue = s.heartbeatDue := rfl
@[simp] theorem State.setTask_epoch (n : Nat) (t : Task) : (s.setTask n t).epoch = s.epoch := rfl
@[simp] theorem State.setTask_psrs (n : Nat) (t : Task) : (s.setTask n t).psrs = s.psrs := rfl
@[simp] theorem State.setTask_evidence (n : Nat) (t : Task) : (s.setTask n t).evidence = s.evidence := rfl
@[simp] theorem State.setTask_roleHist (n : Nat) (t : Task) : (s.setTask n t).roleHist = s.roleHist := rfl
@[simp] theorem State.setTask_classes (n : Nat) (t : Task) : (s.setTask n t).classes = s.classes := rfl
@[simp] theorem State.setTask_evaluation (n : Nat) (t : Task) : (s.setTask n t).evaluation = s.evaluation := rfl
@[simp] theorem State.setTask_elections (n : Nat) (t : Task) : (s.setTask n t).elections = s.elections := rfl
@[simp] theorem State.setTask_xfers (n : Nat) (t : Task) : (s.setTask n t).xfers = s.xfers := rfl
@[simp] theorem State.setTask_nextXfer (n : Nat) (t : Task) : (s.setTask n t).nextXfer = s.nextXfer := rfl
@[simp] theorem State.setTask_parts (n : Nat) (t : Task) : (s.setTask n t).parts = s.parts := rfl
@[simp] theorem State.setTask_egress (n : Nat) (t : Task) : (s.setTask n t).egress = s.egress := rfl
@[simp] theorem State.setTask_delivered (n : Nat) (t : Task) : (s.setTask n t).delivered = s.delivered := rfl
@[simp] theorem State.setTask_domain (n : Nat) (t : Task) : (s.setTask n t).domain = s.domain := rfl
@[simp] theorem State.setTask_pkgIndex (n : Nat) (t : Task) : (s.setTask n t).pkgIndex = s.pkgIndex := rfl
@[simp] theorem State.setTask_switches (n : Nat) (t : Task) : (s.setTask n t).switches = s.switches := rfl
@[simp] theorem State.setTask_jobPkgs (n : Nat) (t : Task) : (s.setTask n t).jobPkgs = s.jobPkgs := rfl
@[simp] theorem State.setTask_ports (n : Nat) (t : Task) : (s.setTask n t).ports = s.ports := rfl
@[simp] theorem State.setTask_dropped (n : Nat) (t : Task) : (s.setTask n t).dropped = s.dropped := rfl
@[simp] theorem State.setTask_flows (n : Nat) (t : Task) : (s.setTask n t).flows = s.flows := rfl
@[simp] theorem State.setTask_classifier (n : Nat) (t : Task) : (s.setTask n t).classifier = s.classifier := rfl
@[simp] theorem State.setTask_pitches (n : Nat) (t : Task) : (s.setTask n t).pitches = s.pitches := rfl
@[simp] theorem State.setTask_rings (n : Nat) (t : Task) : (s.setTask n t).rings = s.rings := rfl
@[simp] theorem State.setTask_boot (n : Nat) (t : Task) : (s.setTask n t).boot = s.boot := rfl
@[simp] theorem State.setTask_bootFail (n : Nat) (t : Task) : (s.setTask n t).bootFail = s.bootFail := rfl
@[simp] theorem State.setTask_bootDies (n : Nat) (t : Task) : (s.setTask n t).bootDies = s.bootDies := rfl
@[simp] theorem State.setTask_therm (n : Nat) (t : Task) : (s.setTask n t).therm = s.therm := rfl
@[simp] theorem State.setTask_coolantLost (n : Nat) (t : Task) : (s.setTask n t).coolantLost = s.coolantLost := rfl
@[simp] theorem State.setTask_poweredDown (n : Nat) (t : Task) : (s.setTask n t).poweredDown = s.poweredDown := rfl
@[simp] theorem State.setTask_corrected (n : Nat) (t : Task) : (s.setTask n t).corrected = s.corrected := rfl
@[simp] theorem State.setTask_measure3 (n : Nat) (t : Task) : (s.setTask n t).measure3 = s.measure3 := rfl
@[simp] theorem State.setTask_measure4 (n : Nat) (t : Task) : (s.setTask n t).measure4 = s.measure4 := rfl
@[simp] theorem State.setTask_config (n : Nat) (t : Task) : (s.setTask n t).config = s.config := rfl
@[simp] theorem State.setTask_sensorRead (n : Nat) (t : Task) : (s.setTask n t).sensorRead = s.sensorRead := rfl

/-! ### `State.modTask` -/

@[simp] theorem State.modTask_cur (n : Nat) (f : Task → Task) : (s.modTask n f).cur = s.cur := rfl
@[simp] theorem State.modTask_curWord (n : Nat) (f : Task → Task) : (s.modTask n f).curWord = s.curWord := rfl
@[simp] theorem State.modTask_agenda (n : Nat) (f : Task → Task) : (s.modTask n f).agenda = s.agenda := rfl
@[simp] theorem State.modTask_turns (n : Nat) (f : Task → Task) : (s.modTask n f).turns = s.turns := rfl
@[simp] theorem State.modTask_fresh (n : Nat) (f : Task → Task) : (s.modTask n f).fresh = s.fresh := rfl
@[simp] theorem State.modTask_uid (n : Nat) (f : Task → Task) : (s.modTask n f).uid = s.uid := rfl
@[simp] theorem State.modTask_noWalks (n : Nat) (f : Task → Task) : (s.modTask n f).noWalks = s.noWalks := rfl
@[simp] theorem State.modTask_mem (n : Nat) (f : Task → Task) : (s.modTask n f).mem = s.mem := rfl
@[simp] theorem State.modTask_hostMem (n : Nat) (f : Task → Task) : (s.modTask n f).hostMem = s.hostMem := rfl
@[simp] theorem State.modTask_cluster (n : Nat) (f : Task → Task) : (s.modTask n f).cluster = s.cluster := rfl
@[simp] theorem State.modTask_stripes (n : Nat) (f : Task → Task) : (s.modTask n f).stripes = s.stripes := rfl
@[simp] theorem State.modTask_poison (n : Nat) (f : Task → Task) : (s.modTask n f).poison = s.poison := rfl
@[simp] theorem State.modTask_l1 (n : Nat) (f : Task → Task) : (s.modTask n f).l1 = s.l1 := rfl
@[simp] theorem State.modTask_coreTlb (n : Nat) (f : Task → Task) : (s.modTask n f).coreTlb = s.coreTlb := rfl
@[simp] theorem State.modTask_dieTlb (n : Nat) (f : Task → Task) : (s.modTask n f).dieTlb = s.dieTlb := rfl
@[simp] theorem State.modTask_nextTask (n : Nat) (f : Task → Task) : (s.modTask n f).nextTask = s.nextTask := rfl
@[simp] theorem State.modTask_images (n : Nat) (f : Task → Task) : (s.modTask n f).images = s.images := rfl
@[simp] theorem State.modTask_cores (n : Nat) (f : Task → Task) : (s.modTask n f).cores = s.cores := rfl
@[simp] theorem State.modTask_lotq (n : Nat) (f : Task → Task) : (s.modTask n f).lotq = s.lotq := rfl
@[simp] theorem State.modTask_dies (n : Nat) (f : Task → Task) : (s.modTask n f).dies = s.dies := rfl
@[simp] theorem State.modTask_recs (n : Nat) (f : Task → Task) : (s.modTask n f).recs = s.recs := rfl
@[simp] theorem State.modTask_counters (n : Nat) (f : Task → Task) : (s.modTask n f).counters = s.counters := rfl
@[simp] theorem State.modTask_readyCtr (n : Nat) (f : Task → Task) : (s.modTask n f).readyCtr = s.readyCtr := rfl
@[simp] theorem State.modTask_cpq (n : Nat) (f : Task → Task) : (s.modTask n f).cpq = s.cpq := rfl
@[simp] theorem State.modTask_retirements (n : Nat) (f : Task → Task) : (s.modTask n f).retirements = s.retirements := rfl
@[simp] theorem State.modTask_ctxs (n : Nat) (f : Task → Task) : (s.modTask n f).ctxs = s.ctxs := rfl
@[simp] theorem State.modTask_queues (n : Nat) (f : Task → Task) : (s.modTask n f).queues = s.queues := rfl
@[simp] theorem State.modTask_phasers (n : Nat) (f : Task → Task) : (s.modTask n f).phasers = s.phasers := rfl
@[simp] theorem State.modTask_barriers (n : Nat) (f : Task → Task) : (s.modTask n f).barriers = s.barriers := rfl
@[simp] theorem State.modTask_auctions (n : Nat) (f : Task → Task) : (s.modTask n f).auctions = s.auctions := rfl
@[simp] theorem State.modTask_lanes (n : Nat) (f : Task → Task) : (s.modTask n f).lanes = s.lanes := rfl
@[simp] theorem State.modTask_heartbeatDue (n : Nat) (f : Task → Task) : (s.modTask n f).heartbeatDue = s.heartbeatDue := rfl
@[simp] theorem State.modTask_epoch (n : Nat) (f : Task → Task) : (s.modTask n f).epoch = s.epoch := rfl
@[simp] theorem State.modTask_psrs (n : Nat) (f : Task → Task) : (s.modTask n f).psrs = s.psrs := rfl
@[simp] theorem State.modTask_evidence (n : Nat) (f : Task → Task) : (s.modTask n f).evidence = s.evidence := rfl
@[simp] theorem State.modTask_roleHist (n : Nat) (f : Task → Task) : (s.modTask n f).roleHist = s.roleHist := rfl
@[simp] theorem State.modTask_classes (n : Nat) (f : Task → Task) : (s.modTask n f).classes = s.classes := rfl
@[simp] theorem State.modTask_evaluation (n : Nat) (f : Task → Task) : (s.modTask n f).evaluation = s.evaluation := rfl
@[simp] theorem State.modTask_elections (n : Nat) (f : Task → Task) : (s.modTask n f).elections = s.elections := rfl
@[simp] theorem State.modTask_xfers (n : Nat) (f : Task → Task) : (s.modTask n f).xfers = s.xfers := rfl
@[simp] theorem State.modTask_nextXfer (n : Nat) (f : Task → Task) : (s.modTask n f).nextXfer = s.nextXfer := rfl
@[simp] theorem State.modTask_parts (n : Nat) (f : Task → Task) : (s.modTask n f).parts = s.parts := rfl
@[simp] theorem State.modTask_egress (n : Nat) (f : Task → Task) : (s.modTask n f).egress = s.egress := rfl
@[simp] theorem State.modTask_delivered (n : Nat) (f : Task → Task) : (s.modTask n f).delivered = s.delivered := rfl
@[simp] theorem State.modTask_domain (n : Nat) (f : Task → Task) : (s.modTask n f).domain = s.domain := rfl
@[simp] theorem State.modTask_pkgIndex (n : Nat) (f : Task → Task) : (s.modTask n f).pkgIndex = s.pkgIndex := rfl
@[simp] theorem State.modTask_switches (n : Nat) (f : Task → Task) : (s.modTask n f).switches = s.switches := rfl
@[simp] theorem State.modTask_jobPkgs (n : Nat) (f : Task → Task) : (s.modTask n f).jobPkgs = s.jobPkgs := rfl
@[simp] theorem State.modTask_ports (n : Nat) (f : Task → Task) : (s.modTask n f).ports = s.ports := rfl
@[simp] theorem State.modTask_dropped (n : Nat) (f : Task → Task) : (s.modTask n f).dropped = s.dropped := rfl
@[simp] theorem State.modTask_flows (n : Nat) (f : Task → Task) : (s.modTask n f).flows = s.flows := rfl
@[simp] theorem State.modTask_classifier (n : Nat) (f : Task → Task) : (s.modTask n f).classifier = s.classifier := rfl
@[simp] theorem State.modTask_pitches (n : Nat) (f : Task → Task) : (s.modTask n f).pitches = s.pitches := rfl
@[simp] theorem State.modTask_rings (n : Nat) (f : Task → Task) : (s.modTask n f).rings = s.rings := rfl
@[simp] theorem State.modTask_boot (n : Nat) (f : Task → Task) : (s.modTask n f).boot = s.boot := rfl
@[simp] theorem State.modTask_bootFail (n : Nat) (f : Task → Task) : (s.modTask n f).bootFail = s.bootFail := rfl
@[simp] theorem State.modTask_bootDies (n : Nat) (f : Task → Task) : (s.modTask n f).bootDies = s.bootDies := rfl
@[simp] theorem State.modTask_therm (n : Nat) (f : Task → Task) : (s.modTask n f).therm = s.therm := rfl
@[simp] theorem State.modTask_coolantLost (n : Nat) (f : Task → Task) : (s.modTask n f).coolantLost = s.coolantLost := rfl
@[simp] theorem State.modTask_poweredDown (n : Nat) (f : Task → Task) : (s.modTask n f).poweredDown = s.poweredDown := rfl
@[simp] theorem State.modTask_corrected (n : Nat) (f : Task → Task) : (s.modTask n f).corrected = s.corrected := rfl
@[simp] theorem State.modTask_measure3 (n : Nat) (f : Task → Task) : (s.modTask n f).measure3 = s.measure3 := rfl
@[simp] theorem State.modTask_measure4 (n : Nat) (f : Task → Task) : (s.modTask n f).measure4 = s.measure4 := rfl
@[simp] theorem State.modTask_config (n : Nat) (f : Task → Task) : (s.modTask n f).config = s.config := rfl
@[simp] theorem State.modTask_sensorRead (n : Nat) (f : Task → Task) : (s.modTask n f).sensorRead = s.sensorRead := rfl

/-! ### `State.modSq` -/

@[simp] theorem State.modSq_cur (n : Nat) (q : Seq) (f : SeqState → SeqState) : (s.modSq n q f).cur = s.cur := rfl
@[simp] theorem State.modSq_curWord (n : Nat) (q : Seq) (f : SeqState → SeqState) : (s.modSq n q f).curWord = s.curWord := rfl
@[simp] theorem State.modSq_agenda (n : Nat) (q : Seq) (f : SeqState → SeqState) : (s.modSq n q f).agenda = s.agenda := rfl
@[simp] theorem State.modSq_turns (n : Nat) (q : Seq) (f : SeqState → SeqState) : (s.modSq n q f).turns = s.turns := rfl
@[simp] theorem State.modSq_fresh (n : Nat) (q : Seq) (f : SeqState → SeqState) : (s.modSq n q f).fresh = s.fresh := rfl
@[simp] theorem State.modSq_uid (n : Nat) (q : Seq) (f : SeqState → SeqState) : (s.modSq n q f).uid = s.uid := rfl
@[simp] theorem State.modSq_noWalks (n : Nat) (q : Seq) (f : SeqState → SeqState) : (s.modSq n q f).noWalks = s.noWalks := rfl
@[simp] theorem State.modSq_mem (n : Nat) (q : Seq) (f : SeqState → SeqState) : (s.modSq n q f).mem = s.mem := rfl
@[simp] theorem State.modSq_hostMem (n : Nat) (q : Seq) (f : SeqState → SeqState) : (s.modSq n q f).hostMem = s.hostMem := rfl
@[simp] theorem State.modSq_cluster (n : Nat) (q : Seq) (f : SeqState → SeqState) : (s.modSq n q f).cluster = s.cluster := rfl
@[simp] theorem State.modSq_stripes (n : Nat) (q : Seq) (f : SeqState → SeqState) : (s.modSq n q f).stripes = s.stripes := rfl
@[simp] theorem State.modSq_poison (n : Nat) (q : Seq) (f : SeqState → SeqState) : (s.modSq n q f).poison = s.poison := rfl
@[simp] theorem State.modSq_l1 (n : Nat) (q : Seq) (f : SeqState → SeqState) : (s.modSq n q f).l1 = s.l1 := rfl
@[simp] theorem State.modSq_coreTlb (n : Nat) (q : Seq) (f : SeqState → SeqState) : (s.modSq n q f).coreTlb = s.coreTlb := rfl
@[simp] theorem State.modSq_dieTlb (n : Nat) (q : Seq) (f : SeqState → SeqState) : (s.modSq n q f).dieTlb = s.dieTlb := rfl
@[simp] theorem State.modSq_nextTask (n : Nat) (q : Seq) (f : SeqState → SeqState) : (s.modSq n q f).nextTask = s.nextTask := rfl
@[simp] theorem State.modSq_images (n : Nat) (q : Seq) (f : SeqState → SeqState) : (s.modSq n q f).images = s.images := rfl
@[simp] theorem State.modSq_cores (n : Nat) (q : Seq) (f : SeqState → SeqState) : (s.modSq n q f).cores = s.cores := rfl
@[simp] theorem State.modSq_lotq (n : Nat) (q : Seq) (f : SeqState → SeqState) : (s.modSq n q f).lotq = s.lotq := rfl
@[simp] theorem State.modSq_dies (n : Nat) (q : Seq) (f : SeqState → SeqState) : (s.modSq n q f).dies = s.dies := rfl
@[simp] theorem State.modSq_recs (n : Nat) (q : Seq) (f : SeqState → SeqState) : (s.modSq n q f).recs = s.recs := rfl
@[simp] theorem State.modSq_counters (n : Nat) (q : Seq) (f : SeqState → SeqState) : (s.modSq n q f).counters = s.counters := rfl
@[simp] theorem State.modSq_readyCtr (n : Nat) (q : Seq) (f : SeqState → SeqState) : (s.modSq n q f).readyCtr = s.readyCtr := rfl
@[simp] theorem State.modSq_cpq (n : Nat) (q : Seq) (f : SeqState → SeqState) : (s.modSq n q f).cpq = s.cpq := rfl
@[simp] theorem State.modSq_retirements (n : Nat) (q : Seq) (f : SeqState → SeqState) : (s.modSq n q f).retirements = s.retirements := rfl
@[simp] theorem State.modSq_ctxs (n : Nat) (q : Seq) (f : SeqState → SeqState) : (s.modSq n q f).ctxs = s.ctxs := rfl
@[simp] theorem State.modSq_queues (n : Nat) (q : Seq) (f : SeqState → SeqState) : (s.modSq n q f).queues = s.queues := rfl
@[simp] theorem State.modSq_phasers (n : Nat) (q : Seq) (f : SeqState → SeqState) : (s.modSq n q f).phasers = s.phasers := rfl
@[simp] theorem State.modSq_barriers (n : Nat) (q : Seq) (f : SeqState → SeqState) : (s.modSq n q f).barriers = s.barriers := rfl
@[simp] theorem State.modSq_auctions (n : Nat) (q : Seq) (f : SeqState → SeqState) : (s.modSq n q f).auctions = s.auctions := rfl
@[simp] theorem State.modSq_lanes (n : Nat) (q : Seq) (f : SeqState → SeqState) : (s.modSq n q f).lanes = s.lanes := rfl
@[simp] theorem State.modSq_heartbeatDue (n : Nat) (q : Seq) (f : SeqState → SeqState) : (s.modSq n q f).heartbeatDue = s.heartbeatDue := rfl
@[simp] theorem State.modSq_epoch (n : Nat) (q : Seq) (f : SeqState → SeqState) : (s.modSq n q f).epoch = s.epoch := rfl
@[simp] theorem State.modSq_psrs (n : Nat) (q : Seq) (f : SeqState → SeqState) : (s.modSq n q f).psrs = s.psrs := rfl
@[simp] theorem State.modSq_evidence (n : Nat) (q : Seq) (f : SeqState → SeqState) : (s.modSq n q f).evidence = s.evidence := rfl
@[simp] theorem State.modSq_roleHist (n : Nat) (q : Seq) (f : SeqState → SeqState) : (s.modSq n q f).roleHist = s.roleHist := rfl
@[simp] theorem State.modSq_classes (n : Nat) (q : Seq) (f : SeqState → SeqState) : (s.modSq n q f).classes = s.classes := rfl
@[simp] theorem State.modSq_evaluation (n : Nat) (q : Seq) (f : SeqState → SeqState) : (s.modSq n q f).evaluation = s.evaluation := rfl
@[simp] theorem State.modSq_elections (n : Nat) (q : Seq) (f : SeqState → SeqState) : (s.modSq n q f).elections = s.elections := rfl
@[simp] theorem State.modSq_xfers (n : Nat) (q : Seq) (f : SeqState → SeqState) : (s.modSq n q f).xfers = s.xfers := rfl
@[simp] theorem State.modSq_nextXfer (n : Nat) (q : Seq) (f : SeqState → SeqState) : (s.modSq n q f).nextXfer = s.nextXfer := rfl
@[simp] theorem State.modSq_parts (n : Nat) (q : Seq) (f : SeqState → SeqState) : (s.modSq n q f).parts = s.parts := rfl
@[simp] theorem State.modSq_egress (n : Nat) (q : Seq) (f : SeqState → SeqState) : (s.modSq n q f).egress = s.egress := rfl
@[simp] theorem State.modSq_delivered (n : Nat) (q : Seq) (f : SeqState → SeqState) : (s.modSq n q f).delivered = s.delivered := rfl
@[simp] theorem State.modSq_domain (n : Nat) (q : Seq) (f : SeqState → SeqState) : (s.modSq n q f).domain = s.domain := rfl
@[simp] theorem State.modSq_pkgIndex (n : Nat) (q : Seq) (f : SeqState → SeqState) : (s.modSq n q f).pkgIndex = s.pkgIndex := rfl
@[simp] theorem State.modSq_switches (n : Nat) (q : Seq) (f : SeqState → SeqState) : (s.modSq n q f).switches = s.switches := rfl
@[simp] theorem State.modSq_jobPkgs (n : Nat) (q : Seq) (f : SeqState → SeqState) : (s.modSq n q f).jobPkgs = s.jobPkgs := rfl
@[simp] theorem State.modSq_ports (n : Nat) (q : Seq) (f : SeqState → SeqState) : (s.modSq n q f).ports = s.ports := rfl
@[simp] theorem State.modSq_dropped (n : Nat) (q : Seq) (f : SeqState → SeqState) : (s.modSq n q f).dropped = s.dropped := rfl
@[simp] theorem State.modSq_flows (n : Nat) (q : Seq) (f : SeqState → SeqState) : (s.modSq n q f).flows = s.flows := rfl
@[simp] theorem State.modSq_classifier (n : Nat) (q : Seq) (f : SeqState → SeqState) : (s.modSq n q f).classifier = s.classifier := rfl
@[simp] theorem State.modSq_pitches (n : Nat) (q : Seq) (f : SeqState → SeqState) : (s.modSq n q f).pitches = s.pitches := rfl
@[simp] theorem State.modSq_rings (n : Nat) (q : Seq) (f : SeqState → SeqState) : (s.modSq n q f).rings = s.rings := rfl
@[simp] theorem State.modSq_boot (n : Nat) (q : Seq) (f : SeqState → SeqState) : (s.modSq n q f).boot = s.boot := rfl
@[simp] theorem State.modSq_bootFail (n : Nat) (q : Seq) (f : SeqState → SeqState) : (s.modSq n q f).bootFail = s.bootFail := rfl
@[simp] theorem State.modSq_bootDies (n : Nat) (q : Seq) (f : SeqState → SeqState) : (s.modSq n q f).bootDies = s.bootDies := rfl
@[simp] theorem State.modSq_therm (n : Nat) (q : Seq) (f : SeqState → SeqState) : (s.modSq n q f).therm = s.therm := rfl
@[simp] theorem State.modSq_coolantLost (n : Nat) (q : Seq) (f : SeqState → SeqState) : (s.modSq n q f).coolantLost = s.coolantLost := rfl
@[simp] theorem State.modSq_poweredDown (n : Nat) (q : Seq) (f : SeqState → SeqState) : (s.modSq n q f).poweredDown = s.poweredDown := rfl
@[simp] theorem State.modSq_corrected (n : Nat) (q : Seq) (f : SeqState → SeqState) : (s.modSq n q f).corrected = s.corrected := rfl
@[simp] theorem State.modSq_measure3 (n : Nat) (q : Seq) (f : SeqState → SeqState) : (s.modSq n q f).measure3 = s.measure3 := rfl
@[simp] theorem State.modSq_measure4 (n : Nat) (q : Seq) (f : SeqState → SeqState) : (s.modSq n q f).measure4 = s.measure4 := rfl
@[simp] theorem State.modSq_config (n : Nat) (q : Seq) (f : SeqState → SeqState) : (s.modSq n q f).config = s.config := rfl
@[simp] theorem State.modSq_sensorRead (n : Nat) (q : Seq) (f : SeqState → SeqState) : (s.modSq n q f).sensorRead = s.sensorRead := rfl

/-! ### `State.complete` -/

@[simp] theorem State.complete_cur (n : Nat) (q : Seq) (w : Stall) (pc : Word) : (s.complete n q w pc).cur = s.cur := rfl
@[simp] theorem State.complete_curWord (n : Nat) (q : Seq) (w : Stall) (pc : Word) : (s.complete n q w pc).curWord = s.curWord := rfl
@[simp] theorem State.complete_agenda (n : Nat) (q : Seq) (w : Stall) (pc : Word) : (s.complete n q w pc).agenda = s.agenda := rfl
@[simp] theorem State.complete_turns (n : Nat) (q : Seq) (w : Stall) (pc : Word) : (s.complete n q w pc).turns = s.turns := rfl
@[simp] theorem State.complete_fresh (n : Nat) (q : Seq) (w : Stall) (pc : Word) : (s.complete n q w pc).fresh = s.fresh := rfl
@[simp] theorem State.complete_uid (n : Nat) (q : Seq) (w : Stall) (pc : Word) : (s.complete n q w pc).uid = s.uid := rfl
@[simp] theorem State.complete_noWalks (n : Nat) (q : Seq) (w : Stall) (pc : Word) : (s.complete n q w pc).noWalks = s.noWalks := rfl
@[simp] theorem State.complete_mem (n : Nat) (q : Seq) (w : Stall) (pc : Word) : (s.complete n q w pc).mem = s.mem := rfl
@[simp] theorem State.complete_hostMem (n : Nat) (q : Seq) (w : Stall) (pc : Word) : (s.complete n q w pc).hostMem = s.hostMem := rfl
@[simp] theorem State.complete_cluster (n : Nat) (q : Seq) (w : Stall) (pc : Word) : (s.complete n q w pc).cluster = s.cluster := rfl
@[simp] theorem State.complete_stripes (n : Nat) (q : Seq) (w : Stall) (pc : Word) : (s.complete n q w pc).stripes = s.stripes := rfl
@[simp] theorem State.complete_poison (n : Nat) (q : Seq) (w : Stall) (pc : Word) : (s.complete n q w pc).poison = s.poison := rfl
@[simp] theorem State.complete_l1 (n : Nat) (q : Seq) (w : Stall) (pc : Word) : (s.complete n q w pc).l1 = s.l1 := rfl
@[simp] theorem State.complete_coreTlb (n : Nat) (q : Seq) (w : Stall) (pc : Word) : (s.complete n q w pc).coreTlb = s.coreTlb := rfl
@[simp] theorem State.complete_dieTlb (n : Nat) (q : Seq) (w : Stall) (pc : Word) : (s.complete n q w pc).dieTlb = s.dieTlb := rfl
@[simp] theorem State.complete_nextTask (n : Nat) (q : Seq) (w : Stall) (pc : Word) : (s.complete n q w pc).nextTask = s.nextTask := rfl
@[simp] theorem State.complete_images (n : Nat) (q : Seq) (w : Stall) (pc : Word) : (s.complete n q w pc).images = s.images := rfl
@[simp] theorem State.complete_cores (n : Nat) (q : Seq) (w : Stall) (pc : Word) : (s.complete n q w pc).cores = s.cores := rfl
@[simp] theorem State.complete_lotq (n : Nat) (q : Seq) (w : Stall) (pc : Word) : (s.complete n q w pc).lotq = s.lotq := rfl
@[simp] theorem State.complete_dies (n : Nat) (q : Seq) (w : Stall) (pc : Word) : (s.complete n q w pc).dies = s.dies := rfl
@[simp] theorem State.complete_recs (n : Nat) (q : Seq) (w : Stall) (pc : Word) : (s.complete n q w pc).recs = s.recs := rfl
@[simp] theorem State.complete_counters (n : Nat) (q : Seq) (w : Stall) (pc : Word) : (s.complete n q w pc).counters = s.counters := rfl
@[simp] theorem State.complete_readyCtr (n : Nat) (q : Seq) (w : Stall) (pc : Word) : (s.complete n q w pc).readyCtr = s.readyCtr := rfl
@[simp] theorem State.complete_cpq (n : Nat) (q : Seq) (w : Stall) (pc : Word) : (s.complete n q w pc).cpq = s.cpq := rfl
@[simp] theorem State.complete_retirements (n : Nat) (q : Seq) (w : Stall) (pc : Word) : (s.complete n q w pc).retirements = s.retirements := rfl
@[simp] theorem State.complete_ctxs (n : Nat) (q : Seq) (w : Stall) (pc : Word) : (s.complete n q w pc).ctxs = s.ctxs := rfl
@[simp] theorem State.complete_queues (n : Nat) (q : Seq) (w : Stall) (pc : Word) : (s.complete n q w pc).queues = s.queues := rfl
@[simp] theorem State.complete_phasers (n : Nat) (q : Seq) (w : Stall) (pc : Word) : (s.complete n q w pc).phasers = s.phasers := rfl
@[simp] theorem State.complete_barriers (n : Nat) (q : Seq) (w : Stall) (pc : Word) : (s.complete n q w pc).barriers = s.barriers := rfl
@[simp] theorem State.complete_auctions (n : Nat) (q : Seq) (w : Stall) (pc : Word) : (s.complete n q w pc).auctions = s.auctions := rfl
@[simp] theorem State.complete_lanes (n : Nat) (q : Seq) (w : Stall) (pc : Word) : (s.complete n q w pc).lanes = s.lanes := rfl
@[simp] theorem State.complete_heartbeatDue (n : Nat) (q : Seq) (w : Stall) (pc : Word) : (s.complete n q w pc).heartbeatDue = s.heartbeatDue := rfl
@[simp] theorem State.complete_epoch (n : Nat) (q : Seq) (w : Stall) (pc : Word) : (s.complete n q w pc).epoch = s.epoch := rfl
@[simp] theorem State.complete_psrs (n : Nat) (q : Seq) (w : Stall) (pc : Word) : (s.complete n q w pc).psrs = s.psrs := rfl
@[simp] theorem State.complete_evidence (n : Nat) (q : Seq) (w : Stall) (pc : Word) : (s.complete n q w pc).evidence = s.evidence := rfl
@[simp] theorem State.complete_roleHist (n : Nat) (q : Seq) (w : Stall) (pc : Word) : (s.complete n q w pc).roleHist = s.roleHist := rfl
@[simp] theorem State.complete_classes (n : Nat) (q : Seq) (w : Stall) (pc : Word) : (s.complete n q w pc).classes = s.classes := rfl
@[simp] theorem State.complete_evaluation (n : Nat) (q : Seq) (w : Stall) (pc : Word) : (s.complete n q w pc).evaluation = s.evaluation := rfl
@[simp] theorem State.complete_elections (n : Nat) (q : Seq) (w : Stall) (pc : Word) : (s.complete n q w pc).elections = s.elections := rfl
@[simp] theorem State.complete_xfers (n : Nat) (q : Seq) (w : Stall) (pc : Word) : (s.complete n q w pc).xfers = s.xfers := rfl
@[simp] theorem State.complete_nextXfer (n : Nat) (q : Seq) (w : Stall) (pc : Word) : (s.complete n q w pc).nextXfer = s.nextXfer := rfl
@[simp] theorem State.complete_parts (n : Nat) (q : Seq) (w : Stall) (pc : Word) : (s.complete n q w pc).parts = s.parts := rfl
@[simp] theorem State.complete_egress (n : Nat) (q : Seq) (w : Stall) (pc : Word) : (s.complete n q w pc).egress = s.egress := rfl
@[simp] theorem State.complete_delivered (n : Nat) (q : Seq) (w : Stall) (pc : Word) : (s.complete n q w pc).delivered = s.delivered := rfl
@[simp] theorem State.complete_domain (n : Nat) (q : Seq) (w : Stall) (pc : Word) : (s.complete n q w pc).domain = s.domain := rfl
@[simp] theorem State.complete_pkgIndex (n : Nat) (q : Seq) (w : Stall) (pc : Word) : (s.complete n q w pc).pkgIndex = s.pkgIndex := rfl
@[simp] theorem State.complete_switches (n : Nat) (q : Seq) (w : Stall) (pc : Word) : (s.complete n q w pc).switches = s.switches := rfl
@[simp] theorem State.complete_jobPkgs (n : Nat) (q : Seq) (w : Stall) (pc : Word) : (s.complete n q w pc).jobPkgs = s.jobPkgs := rfl
@[simp] theorem State.complete_ports (n : Nat) (q : Seq) (w : Stall) (pc : Word) : (s.complete n q w pc).ports = s.ports := rfl
@[simp] theorem State.complete_dropped (n : Nat) (q : Seq) (w : Stall) (pc : Word) : (s.complete n q w pc).dropped = s.dropped := rfl
@[simp] theorem State.complete_flows (n : Nat) (q : Seq) (w : Stall) (pc : Word) : (s.complete n q w pc).flows = s.flows := rfl
@[simp] theorem State.complete_classifier (n : Nat) (q : Seq) (w : Stall) (pc : Word) : (s.complete n q w pc).classifier = s.classifier := rfl
@[simp] theorem State.complete_pitches (n : Nat) (q : Seq) (w : Stall) (pc : Word) : (s.complete n q w pc).pitches = s.pitches := rfl
@[simp] theorem State.complete_rings (n : Nat) (q : Seq) (w : Stall) (pc : Word) : (s.complete n q w pc).rings = s.rings := rfl
@[simp] theorem State.complete_boot (n : Nat) (q : Seq) (w : Stall) (pc : Word) : (s.complete n q w pc).boot = s.boot := rfl
@[simp] theorem State.complete_bootFail (n : Nat) (q : Seq) (w : Stall) (pc : Word) : (s.complete n q w pc).bootFail = s.bootFail := rfl
@[simp] theorem State.complete_bootDies (n : Nat) (q : Seq) (w : Stall) (pc : Word) : (s.complete n q w pc).bootDies = s.bootDies := rfl
@[simp] theorem State.complete_therm (n : Nat) (q : Seq) (w : Stall) (pc : Word) : (s.complete n q w pc).therm = s.therm := rfl
@[simp] theorem State.complete_coolantLost (n : Nat) (q : Seq) (w : Stall) (pc : Word) : (s.complete n q w pc).coolantLost = s.coolantLost := rfl
@[simp] theorem State.complete_poweredDown (n : Nat) (q : Seq) (w : Stall) (pc : Word) : (s.complete n q w pc).poweredDown = s.poweredDown := rfl
@[simp] theorem State.complete_corrected (n : Nat) (q : Seq) (w : Stall) (pc : Word) : (s.complete n q w pc).corrected = s.corrected := rfl
@[simp] theorem State.complete_measure3 (n : Nat) (q : Seq) (w : Stall) (pc : Word) : (s.complete n q w pc).measure3 = s.measure3 := rfl
@[simp] theorem State.complete_measure4 (n : Nat) (q : Seq) (w : Stall) (pc : Word) : (s.complete n q w pc).measure4 = s.measure4 := rfl
@[simp] theorem State.complete_config (n : Nat) (q : Seq) (w : Stall) (pc : Word) : (s.complete n q w pc).config = s.config := rfl
@[simp] theorem State.complete_sensorRead (n : Nat) (q : Seq) (w : Stall) (pc : Word) : (s.complete n q w pc).sensorRead = s.sensorRead := rfl

/-! ### `State.waitCycle` -/

@[simp] theorem State.waitCycle_cur (n : Nat) (q : Seq) (y : Wait) (b : Bool) : (s.waitCycle n q y b).cur = s.cur := rfl
@[simp] theorem State.waitCycle_curWord (n : Nat) (q : Seq) (y : Wait) (b : Bool) : (s.waitCycle n q y b).curWord = s.curWord := rfl
@[simp] theorem State.waitCycle_agenda (n : Nat) (q : Seq) (y : Wait) (b : Bool) : (s.waitCycle n q y b).agenda = s.agenda := rfl
@[simp] theorem State.waitCycle_turns (n : Nat) (q : Seq) (y : Wait) (b : Bool) : (s.waitCycle n q y b).turns = s.turns := rfl
@[simp] theorem State.waitCycle_fresh (n : Nat) (q : Seq) (y : Wait) (b : Bool) : (s.waitCycle n q y b).fresh = s.fresh := rfl
@[simp] theorem State.waitCycle_uid (n : Nat) (q : Seq) (y : Wait) (b : Bool) : (s.waitCycle n q y b).uid = s.uid := rfl
@[simp] theorem State.waitCycle_noWalks (n : Nat) (q : Seq) (y : Wait) (b : Bool) : (s.waitCycle n q y b).noWalks = s.noWalks := rfl
@[simp] theorem State.waitCycle_mem (n : Nat) (q : Seq) (y : Wait) (b : Bool) : (s.waitCycle n q y b).mem = s.mem := rfl
@[simp] theorem State.waitCycle_hostMem (n : Nat) (q : Seq) (y : Wait) (b : Bool) : (s.waitCycle n q y b).hostMem = s.hostMem := rfl
@[simp] theorem State.waitCycle_cluster (n : Nat) (q : Seq) (y : Wait) (b : Bool) : (s.waitCycle n q y b).cluster = s.cluster := rfl
@[simp] theorem State.waitCycle_stripes (n : Nat) (q : Seq) (y : Wait) (b : Bool) : (s.waitCycle n q y b).stripes = s.stripes := rfl
@[simp] theorem State.waitCycle_poison (n : Nat) (q : Seq) (y : Wait) (b : Bool) : (s.waitCycle n q y b).poison = s.poison := rfl
@[simp] theorem State.waitCycle_l1 (n : Nat) (q : Seq) (y : Wait) (b : Bool) : (s.waitCycle n q y b).l1 = s.l1 := rfl
@[simp] theorem State.waitCycle_coreTlb (n : Nat) (q : Seq) (y : Wait) (b : Bool) : (s.waitCycle n q y b).coreTlb = s.coreTlb := rfl
@[simp] theorem State.waitCycle_dieTlb (n : Nat) (q : Seq) (y : Wait) (b : Bool) : (s.waitCycle n q y b).dieTlb = s.dieTlb := rfl
@[simp] theorem State.waitCycle_nextTask (n : Nat) (q : Seq) (y : Wait) (b : Bool) : (s.waitCycle n q y b).nextTask = s.nextTask := rfl
@[simp] theorem State.waitCycle_images (n : Nat) (q : Seq) (y : Wait) (b : Bool) : (s.waitCycle n q y b).images = s.images := rfl
@[simp] theorem State.waitCycle_cores (n : Nat) (q : Seq) (y : Wait) (b : Bool) : (s.waitCycle n q y b).cores = s.cores := rfl
@[simp] theorem State.waitCycle_lotq (n : Nat) (q : Seq) (y : Wait) (b : Bool) : (s.waitCycle n q y b).lotq = s.lotq := rfl
@[simp] theorem State.waitCycle_dies (n : Nat) (q : Seq) (y : Wait) (b : Bool) : (s.waitCycle n q y b).dies = s.dies := rfl
@[simp] theorem State.waitCycle_recs (n : Nat) (q : Seq) (y : Wait) (b : Bool) : (s.waitCycle n q y b).recs = s.recs := rfl
@[simp] theorem State.waitCycle_counters (n : Nat) (q : Seq) (y : Wait) (b : Bool) : (s.waitCycle n q y b).counters = s.counters := rfl
@[simp] theorem State.waitCycle_readyCtr (n : Nat) (q : Seq) (y : Wait) (b : Bool) : (s.waitCycle n q y b).readyCtr = s.readyCtr := rfl
@[simp] theorem State.waitCycle_cpq (n : Nat) (q : Seq) (y : Wait) (b : Bool) : (s.waitCycle n q y b).cpq = s.cpq := rfl
@[simp] theorem State.waitCycle_retirements (n : Nat) (q : Seq) (y : Wait) (b : Bool) : (s.waitCycle n q y b).retirements = s.retirements := rfl
@[simp] theorem State.waitCycle_ctxs (n : Nat) (q : Seq) (y : Wait) (b : Bool) : (s.waitCycle n q y b).ctxs = s.ctxs := rfl
@[simp] theorem State.waitCycle_queues (n : Nat) (q : Seq) (y : Wait) (b : Bool) : (s.waitCycle n q y b).queues = s.queues := rfl
@[simp] theorem State.waitCycle_phasers (n : Nat) (q : Seq) (y : Wait) (b : Bool) : (s.waitCycle n q y b).phasers = s.phasers := rfl
@[simp] theorem State.waitCycle_barriers (n : Nat) (q : Seq) (y : Wait) (b : Bool) : (s.waitCycle n q y b).barriers = s.barriers := rfl
@[simp] theorem State.waitCycle_auctions (n : Nat) (q : Seq) (y : Wait) (b : Bool) : (s.waitCycle n q y b).auctions = s.auctions := rfl
@[simp] theorem State.waitCycle_lanes (n : Nat) (q : Seq) (y : Wait) (b : Bool) : (s.waitCycle n q y b).lanes = s.lanes := rfl
@[simp] theorem State.waitCycle_heartbeatDue (n : Nat) (q : Seq) (y : Wait) (b : Bool) : (s.waitCycle n q y b).heartbeatDue = s.heartbeatDue := rfl
@[simp] theorem State.waitCycle_epoch (n : Nat) (q : Seq) (y : Wait) (b : Bool) : (s.waitCycle n q y b).epoch = s.epoch := rfl
@[simp] theorem State.waitCycle_psrs (n : Nat) (q : Seq) (y : Wait) (b : Bool) : (s.waitCycle n q y b).psrs = s.psrs := rfl
@[simp] theorem State.waitCycle_evidence (n : Nat) (q : Seq) (y : Wait) (b : Bool) : (s.waitCycle n q y b).evidence = s.evidence := rfl
@[simp] theorem State.waitCycle_roleHist (n : Nat) (q : Seq) (y : Wait) (b : Bool) : (s.waitCycle n q y b).roleHist = s.roleHist := rfl
@[simp] theorem State.waitCycle_classes (n : Nat) (q : Seq) (y : Wait) (b : Bool) : (s.waitCycle n q y b).classes = s.classes := rfl
@[simp] theorem State.waitCycle_evaluation (n : Nat) (q : Seq) (y : Wait) (b : Bool) : (s.waitCycle n q y b).evaluation = s.evaluation := rfl
@[simp] theorem State.waitCycle_elections (n : Nat) (q : Seq) (y : Wait) (b : Bool) : (s.waitCycle n q y b).elections = s.elections := rfl
@[simp] theorem State.waitCycle_xfers (n : Nat) (q : Seq) (y : Wait) (b : Bool) : (s.waitCycle n q y b).xfers = s.xfers := rfl
@[simp] theorem State.waitCycle_nextXfer (n : Nat) (q : Seq) (y : Wait) (b : Bool) : (s.waitCycle n q y b).nextXfer = s.nextXfer := rfl
@[simp] theorem State.waitCycle_parts (n : Nat) (q : Seq) (y : Wait) (b : Bool) : (s.waitCycle n q y b).parts = s.parts := rfl
@[simp] theorem State.waitCycle_egress (n : Nat) (q : Seq) (y : Wait) (b : Bool) : (s.waitCycle n q y b).egress = s.egress := rfl
@[simp] theorem State.waitCycle_delivered (n : Nat) (q : Seq) (y : Wait) (b : Bool) : (s.waitCycle n q y b).delivered = s.delivered := rfl
@[simp] theorem State.waitCycle_domain (n : Nat) (q : Seq) (y : Wait) (b : Bool) : (s.waitCycle n q y b).domain = s.domain := rfl
@[simp] theorem State.waitCycle_pkgIndex (n : Nat) (q : Seq) (y : Wait) (b : Bool) : (s.waitCycle n q y b).pkgIndex = s.pkgIndex := rfl
@[simp] theorem State.waitCycle_switches (n : Nat) (q : Seq) (y : Wait) (b : Bool) : (s.waitCycle n q y b).switches = s.switches := rfl
@[simp] theorem State.waitCycle_jobPkgs (n : Nat) (q : Seq) (y : Wait) (b : Bool) : (s.waitCycle n q y b).jobPkgs = s.jobPkgs := rfl
@[simp] theorem State.waitCycle_ports (n : Nat) (q : Seq) (y : Wait) (b : Bool) : (s.waitCycle n q y b).ports = s.ports := rfl
@[simp] theorem State.waitCycle_dropped (n : Nat) (q : Seq) (y : Wait) (b : Bool) : (s.waitCycle n q y b).dropped = s.dropped := rfl
@[simp] theorem State.waitCycle_flows (n : Nat) (q : Seq) (y : Wait) (b : Bool) : (s.waitCycle n q y b).flows = s.flows := rfl
@[simp] theorem State.waitCycle_classifier (n : Nat) (q : Seq) (y : Wait) (b : Bool) : (s.waitCycle n q y b).classifier = s.classifier := rfl
@[simp] theorem State.waitCycle_pitches (n : Nat) (q : Seq) (y : Wait) (b : Bool) : (s.waitCycle n q y b).pitches = s.pitches := rfl
@[simp] theorem State.waitCycle_rings (n : Nat) (q : Seq) (y : Wait) (b : Bool) : (s.waitCycle n q y b).rings = s.rings := rfl
@[simp] theorem State.waitCycle_boot (n : Nat) (q : Seq) (y : Wait) (b : Bool) : (s.waitCycle n q y b).boot = s.boot := rfl
@[simp] theorem State.waitCycle_bootFail (n : Nat) (q : Seq) (y : Wait) (b : Bool) : (s.waitCycle n q y b).bootFail = s.bootFail := rfl
@[simp] theorem State.waitCycle_bootDies (n : Nat) (q : Seq) (y : Wait) (b : Bool) : (s.waitCycle n q y b).bootDies = s.bootDies := rfl
@[simp] theorem State.waitCycle_therm (n : Nat) (q : Seq) (y : Wait) (b : Bool) : (s.waitCycle n q y b).therm = s.therm := rfl
@[simp] theorem State.waitCycle_coolantLost (n : Nat) (q : Seq) (y : Wait) (b : Bool) : (s.waitCycle n q y b).coolantLost = s.coolantLost := rfl
@[simp] theorem State.waitCycle_poweredDown (n : Nat) (q : Seq) (y : Wait) (b : Bool) : (s.waitCycle n q y b).poweredDown = s.poweredDown := rfl
@[simp] theorem State.waitCycle_corrected (n : Nat) (q : Seq) (y : Wait) (b : Bool) : (s.waitCycle n q y b).corrected = s.corrected := rfl
@[simp] theorem State.waitCycle_measure3 (n : Nat) (q : Seq) (y : Wait) (b : Bool) : (s.waitCycle n q y b).measure3 = s.measure3 := rfl
@[simp] theorem State.waitCycle_measure4 (n : Nat) (q : Seq) (y : Wait) (b : Bool) : (s.waitCycle n q y b).measure4 = s.measure4 := rfl
@[simp] theorem State.waitCycle_config (n : Nat) (q : Seq) (y : Wait) (b : Bool) : (s.waitCycle n q y b).config = s.config := rfl
@[simp] theorem State.waitCycle_sensorRead (n : Nat) (q : Seq) (y : Wait) (b : Bool) : (s.waitCycle n q y b).sensorRead = s.sensorRead := rfl

/-! ### `State.physWrite` -/

@[simp] theorem State.physWrite_cur (n : Nat) (l : List Byte) : (s.physWrite n l).cur = s.cur := by
  unfold State.physWrite; split <;> rfl
@[simp] theorem State.physWrite_curWord (n : Nat) (l : List Byte) : (s.physWrite n l).curWord = s.curWord := by
  unfold State.physWrite; split <;> rfl
@[simp] theorem State.physWrite_agenda (n : Nat) (l : List Byte) : (s.physWrite n l).agenda = s.agenda := by
  unfold State.physWrite; split <;> rfl
@[simp] theorem State.physWrite_turns (n : Nat) (l : List Byte) : (s.physWrite n l).turns = s.turns := by
  unfold State.physWrite; split <;> rfl
@[simp] theorem State.physWrite_fresh (n : Nat) (l : List Byte) : (s.physWrite n l).fresh = s.fresh := by
  unfold State.physWrite; split <;> rfl
@[simp] theorem State.physWrite_uid (n : Nat) (l : List Byte) : (s.physWrite n l).uid = s.uid := by
  unfold State.physWrite; split <;> rfl
@[simp] theorem State.physWrite_noWalks (n : Nat) (l : List Byte) : (s.physWrite n l).noWalks = s.noWalks := by
  unfold State.physWrite; split <;> rfl
@[simp] theorem State.physWrite_cluster (n : Nat) (l : List Byte) : (s.physWrite n l).cluster = s.cluster := by
  unfold State.physWrite; split <;> rfl
@[simp] theorem State.physWrite_stripes (n : Nat) (l : List Byte) : (s.physWrite n l).stripes = s.stripes := by
  unfold State.physWrite; split <;> rfl
@[simp] theorem State.physWrite_poison (n : Nat) (l : List Byte) : (s.physWrite n l).poison = s.poison := by
  unfold State.physWrite; split <;> rfl
@[simp] theorem State.physWrite_l1 (n : Nat) (l : List Byte) : (s.physWrite n l).l1 = s.l1 := by
  unfold State.physWrite; split <;> rfl
@[simp] theorem State.physWrite_coreTlb (n : Nat) (l : List Byte) : (s.physWrite n l).coreTlb = s.coreTlb := by
  unfold State.physWrite; split <;> rfl
@[simp] theorem State.physWrite_dieTlb (n : Nat) (l : List Byte) : (s.physWrite n l).dieTlb = s.dieTlb := by
  unfold State.physWrite; split <;> rfl
@[simp] theorem State.physWrite_tasks (n : Nat) (l : List Byte) : (s.physWrite n l).tasks = s.tasks := by
  unfold State.physWrite; split <;> rfl
@[simp] theorem State.physWrite_nextTask (n : Nat) (l : List Byte) : (s.physWrite n l).nextTask = s.nextTask := by
  unfold State.physWrite; split <;> rfl
@[simp] theorem State.physWrite_images (n : Nat) (l : List Byte) : (s.physWrite n l).images = s.images := by
  unfold State.physWrite; split <;> rfl
@[simp] theorem State.physWrite_cores (n : Nat) (l : List Byte) : (s.physWrite n l).cores = s.cores := by
  unfold State.physWrite; split <;> rfl
@[simp] theorem State.physWrite_lotq (n : Nat) (l : List Byte) : (s.physWrite n l).lotq = s.lotq := by
  unfold State.physWrite; split <;> rfl
@[simp] theorem State.physWrite_dies (n : Nat) (l : List Byte) : (s.physWrite n l).dies = s.dies := by
  unfold State.physWrite; split <;> rfl
@[simp] theorem State.physWrite_recs (n : Nat) (l : List Byte) : (s.physWrite n l).recs = s.recs := by
  unfold State.physWrite; split <;> rfl
@[simp] theorem State.physWrite_counters (n : Nat) (l : List Byte) : (s.physWrite n l).counters = s.counters := by
  unfold State.physWrite; split <;> rfl
@[simp] theorem State.physWrite_readyCtr (n : Nat) (l : List Byte) : (s.physWrite n l).readyCtr = s.readyCtr := by
  unfold State.physWrite; split <;> rfl
@[simp] theorem State.physWrite_cpq (n : Nat) (l : List Byte) : (s.physWrite n l).cpq = s.cpq := by
  unfold State.physWrite; split <;> rfl
@[simp] theorem State.physWrite_retirements (n : Nat) (l : List Byte) : (s.physWrite n l).retirements = s.retirements := by
  unfold State.physWrite; split <;> rfl
@[simp] theorem State.physWrite_ctxs (n : Nat) (l : List Byte) : (s.physWrite n l).ctxs = s.ctxs := by
  unfold State.physWrite; split <;> rfl
@[simp] theorem State.physWrite_queues (n : Nat) (l : List Byte) : (s.physWrite n l).queues = s.queues := by
  unfold State.physWrite; split <;> rfl
@[simp] theorem State.physWrite_phasers (n : Nat) (l : List Byte) : (s.physWrite n l).phasers = s.phasers := by
  unfold State.physWrite; split <;> rfl
@[simp] theorem State.physWrite_barriers (n : Nat) (l : List Byte) : (s.physWrite n l).barriers = s.barriers := by
  unfold State.physWrite; split <;> rfl
@[simp] theorem State.physWrite_auctions (n : Nat) (l : List Byte) : (s.physWrite n l).auctions = s.auctions := by
  unfold State.physWrite; split <;> rfl
@[simp] theorem State.physWrite_lanes (n : Nat) (l : List Byte) : (s.physWrite n l).lanes = s.lanes := by
  unfold State.physWrite; split <;> rfl
@[simp] theorem State.physWrite_heartbeatDue (n : Nat) (l : List Byte) : (s.physWrite n l).heartbeatDue = s.heartbeatDue := by
  unfold State.physWrite; split <;> rfl
@[simp] theorem State.physWrite_epoch (n : Nat) (l : List Byte) : (s.physWrite n l).epoch = s.epoch := by
  unfold State.physWrite; split <;> rfl
@[simp] theorem State.physWrite_psrs (n : Nat) (l : List Byte) : (s.physWrite n l).psrs = s.psrs := by
  unfold State.physWrite; split <;> rfl
@[simp] theorem State.physWrite_evidence (n : Nat) (l : List Byte) : (s.physWrite n l).evidence = s.evidence := by
  unfold State.physWrite; split <;> rfl
@[simp] theorem State.physWrite_roleHist (n : Nat) (l : List Byte) : (s.physWrite n l).roleHist = s.roleHist := by
  unfold State.physWrite; split <;> rfl
@[simp] theorem State.physWrite_classes (n : Nat) (l : List Byte) : (s.physWrite n l).classes = s.classes := by
  unfold State.physWrite; split <;> rfl
@[simp] theorem State.physWrite_evaluation (n : Nat) (l : List Byte) : (s.physWrite n l).evaluation = s.evaluation := by
  unfold State.physWrite; split <;> rfl
@[simp] theorem State.physWrite_elections (n : Nat) (l : List Byte) : (s.physWrite n l).elections = s.elections := by
  unfold State.physWrite; split <;> rfl
@[simp] theorem State.physWrite_xfers (n : Nat) (l : List Byte) : (s.physWrite n l).xfers = s.xfers := by
  unfold State.physWrite; split <;> rfl
@[simp] theorem State.physWrite_nextXfer (n : Nat) (l : List Byte) : (s.physWrite n l).nextXfer = s.nextXfer := by
  unfold State.physWrite; split <;> rfl
@[simp] theorem State.physWrite_parts (n : Nat) (l : List Byte) : (s.physWrite n l).parts = s.parts := by
  unfold State.physWrite; split <;> rfl
@[simp] theorem State.physWrite_egress (n : Nat) (l : List Byte) : (s.physWrite n l).egress = s.egress := by
  unfold State.physWrite; split <;> rfl
@[simp] theorem State.physWrite_delivered (n : Nat) (l : List Byte) : (s.physWrite n l).delivered = s.delivered := by
  unfold State.physWrite; split <;> rfl
@[simp] theorem State.physWrite_domain (n : Nat) (l : List Byte) : (s.physWrite n l).domain = s.domain := by
  unfold State.physWrite; split <;> rfl
@[simp] theorem State.physWrite_pkgIndex (n : Nat) (l : List Byte) : (s.physWrite n l).pkgIndex = s.pkgIndex := by
  unfold State.physWrite; split <;> rfl
@[simp] theorem State.physWrite_switches (n : Nat) (l : List Byte) : (s.physWrite n l).switches = s.switches := by
  unfold State.physWrite; split <;> rfl
@[simp] theorem State.physWrite_jobPkgs (n : Nat) (l : List Byte) : (s.physWrite n l).jobPkgs = s.jobPkgs := by
  unfold State.physWrite; split <;> rfl
@[simp] theorem State.physWrite_ports (n : Nat) (l : List Byte) : (s.physWrite n l).ports = s.ports := by
  unfold State.physWrite; split <;> rfl
@[simp] theorem State.physWrite_dropped (n : Nat) (l : List Byte) : (s.physWrite n l).dropped = s.dropped := by
  unfold State.physWrite; split <;> rfl
@[simp] theorem State.physWrite_flows (n : Nat) (l : List Byte) : (s.physWrite n l).flows = s.flows := by
  unfold State.physWrite; split <;> rfl
@[simp] theorem State.physWrite_classifier (n : Nat) (l : List Byte) : (s.physWrite n l).classifier = s.classifier := by
  unfold State.physWrite; split <;> rfl
@[simp] theorem State.physWrite_pitches (n : Nat) (l : List Byte) : (s.physWrite n l).pitches = s.pitches := by
  unfold State.physWrite; split <;> rfl
@[simp] theorem State.physWrite_rings (n : Nat) (l : List Byte) : (s.physWrite n l).rings = s.rings := by
  unfold State.physWrite; split <;> rfl
@[simp] theorem State.physWrite_boot (n : Nat) (l : List Byte) : (s.physWrite n l).boot = s.boot := by
  unfold State.physWrite; split <;> rfl
@[simp] theorem State.physWrite_bootFail (n : Nat) (l : List Byte) : (s.physWrite n l).bootFail = s.bootFail := by
  unfold State.physWrite; split <;> rfl
@[simp] theorem State.physWrite_bootDies (n : Nat) (l : List Byte) : (s.physWrite n l).bootDies = s.bootDies := by
  unfold State.physWrite; split <;> rfl
@[simp] theorem State.physWrite_therm (n : Nat) (l : List Byte) : (s.physWrite n l).therm = s.therm := by
  unfold State.physWrite; split <;> rfl
@[simp] theorem State.physWrite_coolantLost (n : Nat) (l : List Byte) : (s.physWrite n l).coolantLost = s.coolantLost := by
  unfold State.physWrite; split <;> rfl
@[simp] theorem State.physWrite_poweredDown (n : Nat) (l : List Byte) : (s.physWrite n l).poweredDown = s.poweredDown := by
  unfold State.physWrite; split <;> rfl
@[simp] theorem State.physWrite_corrected (n : Nat) (l : List Byte) : (s.physWrite n l).corrected = s.corrected := by
  unfold State.physWrite; split <;> rfl
@[simp] theorem State.physWrite_measure3 (n : Nat) (l : List Byte) : (s.physWrite n l).measure3 = s.measure3 := by
  unfold State.physWrite; split <;> rfl
@[simp] theorem State.physWrite_measure4 (n : Nat) (l : List Byte) : (s.physWrite n l).measure4 = s.measure4 := by
  unfold State.physWrite; split <;> rfl
@[simp] theorem State.physWrite_config (n : Nat) (l : List Byte) : (s.physWrite n l).config = s.config := by
  unfold State.physWrite; split <;> rfl
@[simp] theorem State.physWrite_sensorRead (n : Nat) (l : List Byte) : (s.physWrite n l).sensorRead = s.sensorRead := by
  unfold State.physWrite; split <;> rfl

/-! ### `State.hostWrite` -/

@[simp] theorem State.hostWrite_cur (n : Nat) (l : List Byte) : (s.hostWrite n l).cur = s.cur := rfl
@[simp] theorem State.hostWrite_curWord (n : Nat) (l : List Byte) : (s.hostWrite n l).curWord = s.curWord := rfl
@[simp] theorem State.hostWrite_agenda (n : Nat) (l : List Byte) : (s.hostWrite n l).agenda = s.agenda := rfl
@[simp] theorem State.hostWrite_turns (n : Nat) (l : List Byte) : (s.hostWrite n l).turns = s.turns := rfl
@[simp] theorem State.hostWrite_fresh (n : Nat) (l : List Byte) : (s.hostWrite n l).fresh = s.fresh := rfl
@[simp] theorem State.hostWrite_uid (n : Nat) (l : List Byte) : (s.hostWrite n l).uid = s.uid := rfl
@[simp] theorem State.hostWrite_noWalks (n : Nat) (l : List Byte) : (s.hostWrite n l).noWalks = s.noWalks := rfl
@[simp] theorem State.hostWrite_mem (n : Nat) (l : List Byte) : (s.hostWrite n l).mem = s.mem := rfl
@[simp] theorem State.hostWrite_cluster (n : Nat) (l : List Byte) : (s.hostWrite n l).cluster = s.cluster := rfl
@[simp] theorem State.hostWrite_stripes (n : Nat) (l : List Byte) : (s.hostWrite n l).stripes = s.stripes := rfl
@[simp] theorem State.hostWrite_poison (n : Nat) (l : List Byte) : (s.hostWrite n l).poison = s.poison := rfl
@[simp] theorem State.hostWrite_l1 (n : Nat) (l : List Byte) : (s.hostWrite n l).l1 = s.l1 := rfl
@[simp] theorem State.hostWrite_coreTlb (n : Nat) (l : List Byte) : (s.hostWrite n l).coreTlb = s.coreTlb := rfl
@[simp] theorem State.hostWrite_dieTlb (n : Nat) (l : List Byte) : (s.hostWrite n l).dieTlb = s.dieTlb := rfl
@[simp] theorem State.hostWrite_tasks (n : Nat) (l : List Byte) : (s.hostWrite n l).tasks = s.tasks := rfl
@[simp] theorem State.hostWrite_nextTask (n : Nat) (l : List Byte) : (s.hostWrite n l).nextTask = s.nextTask := rfl
@[simp] theorem State.hostWrite_images (n : Nat) (l : List Byte) : (s.hostWrite n l).images = s.images := rfl
@[simp] theorem State.hostWrite_cores (n : Nat) (l : List Byte) : (s.hostWrite n l).cores = s.cores := rfl
@[simp] theorem State.hostWrite_lotq (n : Nat) (l : List Byte) : (s.hostWrite n l).lotq = s.lotq := rfl
@[simp] theorem State.hostWrite_dies (n : Nat) (l : List Byte) : (s.hostWrite n l).dies = s.dies := rfl
@[simp] theorem State.hostWrite_recs (n : Nat) (l : List Byte) : (s.hostWrite n l).recs = s.recs := rfl
@[simp] theorem State.hostWrite_counters (n : Nat) (l : List Byte) : (s.hostWrite n l).counters = s.counters := rfl
@[simp] theorem State.hostWrite_readyCtr (n : Nat) (l : List Byte) : (s.hostWrite n l).readyCtr = s.readyCtr := rfl
@[simp] theorem State.hostWrite_cpq (n : Nat) (l : List Byte) : (s.hostWrite n l).cpq = s.cpq := rfl
@[simp] theorem State.hostWrite_retirements (n : Nat) (l : List Byte) : (s.hostWrite n l).retirements = s.retirements := rfl
@[simp] theorem State.hostWrite_ctxs (n : Nat) (l : List Byte) : (s.hostWrite n l).ctxs = s.ctxs := rfl
@[simp] theorem State.hostWrite_queues (n : Nat) (l : List Byte) : (s.hostWrite n l).queues = s.queues := rfl
@[simp] theorem State.hostWrite_phasers (n : Nat) (l : List Byte) : (s.hostWrite n l).phasers = s.phasers := rfl
@[simp] theorem State.hostWrite_barriers (n : Nat) (l : List Byte) : (s.hostWrite n l).barriers = s.barriers := rfl
@[simp] theorem State.hostWrite_auctions (n : Nat) (l : List Byte) : (s.hostWrite n l).auctions = s.auctions := rfl
@[simp] theorem State.hostWrite_lanes (n : Nat) (l : List Byte) : (s.hostWrite n l).lanes = s.lanes := rfl
@[simp] theorem State.hostWrite_heartbeatDue (n : Nat) (l : List Byte) : (s.hostWrite n l).heartbeatDue = s.heartbeatDue := rfl
@[simp] theorem State.hostWrite_epoch (n : Nat) (l : List Byte) : (s.hostWrite n l).epoch = s.epoch := rfl
@[simp] theorem State.hostWrite_psrs (n : Nat) (l : List Byte) : (s.hostWrite n l).psrs = s.psrs := rfl
@[simp] theorem State.hostWrite_evidence (n : Nat) (l : List Byte) : (s.hostWrite n l).evidence = s.evidence := rfl
@[simp] theorem State.hostWrite_roleHist (n : Nat) (l : List Byte) : (s.hostWrite n l).roleHist = s.roleHist := rfl
@[simp] theorem State.hostWrite_classes (n : Nat) (l : List Byte) : (s.hostWrite n l).classes = s.classes := rfl
@[simp] theorem State.hostWrite_evaluation (n : Nat) (l : List Byte) : (s.hostWrite n l).evaluation = s.evaluation := rfl
@[simp] theorem State.hostWrite_elections (n : Nat) (l : List Byte) : (s.hostWrite n l).elections = s.elections := rfl
@[simp] theorem State.hostWrite_xfers (n : Nat) (l : List Byte) : (s.hostWrite n l).xfers = s.xfers := rfl
@[simp] theorem State.hostWrite_nextXfer (n : Nat) (l : List Byte) : (s.hostWrite n l).nextXfer = s.nextXfer := rfl
@[simp] theorem State.hostWrite_parts (n : Nat) (l : List Byte) : (s.hostWrite n l).parts = s.parts := rfl
@[simp] theorem State.hostWrite_egress (n : Nat) (l : List Byte) : (s.hostWrite n l).egress = s.egress := rfl
@[simp] theorem State.hostWrite_delivered (n : Nat) (l : List Byte) : (s.hostWrite n l).delivered = s.delivered := rfl
@[simp] theorem State.hostWrite_domain (n : Nat) (l : List Byte) : (s.hostWrite n l).domain = s.domain := rfl
@[simp] theorem State.hostWrite_pkgIndex (n : Nat) (l : List Byte) : (s.hostWrite n l).pkgIndex = s.pkgIndex := rfl
@[simp] theorem State.hostWrite_switches (n : Nat) (l : List Byte) : (s.hostWrite n l).switches = s.switches := rfl
@[simp] theorem State.hostWrite_jobPkgs (n : Nat) (l : List Byte) : (s.hostWrite n l).jobPkgs = s.jobPkgs := rfl
@[simp] theorem State.hostWrite_ports (n : Nat) (l : List Byte) : (s.hostWrite n l).ports = s.ports := rfl
@[simp] theorem State.hostWrite_dropped (n : Nat) (l : List Byte) : (s.hostWrite n l).dropped = s.dropped := rfl
@[simp] theorem State.hostWrite_flows (n : Nat) (l : List Byte) : (s.hostWrite n l).flows = s.flows := rfl
@[simp] theorem State.hostWrite_classifier (n : Nat) (l : List Byte) : (s.hostWrite n l).classifier = s.classifier := rfl
@[simp] theorem State.hostWrite_pitches (n : Nat) (l : List Byte) : (s.hostWrite n l).pitches = s.pitches := rfl
@[simp] theorem State.hostWrite_rings (n : Nat) (l : List Byte) : (s.hostWrite n l).rings = s.rings := rfl
@[simp] theorem State.hostWrite_boot (n : Nat) (l : List Byte) : (s.hostWrite n l).boot = s.boot := rfl
@[simp] theorem State.hostWrite_bootFail (n : Nat) (l : List Byte) : (s.hostWrite n l).bootFail = s.bootFail := rfl
@[simp] theorem State.hostWrite_bootDies (n : Nat) (l : List Byte) : (s.hostWrite n l).bootDies = s.bootDies := rfl
@[simp] theorem State.hostWrite_therm (n : Nat) (l : List Byte) : (s.hostWrite n l).therm = s.therm := rfl
@[simp] theorem State.hostWrite_coolantLost (n : Nat) (l : List Byte) : (s.hostWrite n l).coolantLost = s.coolantLost := rfl
@[simp] theorem State.hostWrite_poweredDown (n : Nat) (l : List Byte) : (s.hostWrite n l).poweredDown = s.poweredDown := rfl
@[simp] theorem State.hostWrite_corrected (n : Nat) (l : List Byte) : (s.hostWrite n l).corrected = s.corrected := rfl
@[simp] theorem State.hostWrite_measure3 (n : Nat) (l : List Byte) : (s.hostWrite n l).measure3 = s.measure3 := rfl
@[simp] theorem State.hostWrite_measure4 (n : Nat) (l : List Byte) : (s.hostWrite n l).measure4 = s.measure4 := rfl
@[simp] theorem State.hostWrite_config (n : Nat) (l : List Byte) : (s.hostWrite n l).config = s.config := rfl
@[simp] theorem State.hostWrite_sensorRead (n : Nat) (l : List Byte) : (s.hostWrite n l).sensorRead = s.sensorRead := rfl

/-! ### `State.setPoison` -/

@[simp] theorem State.setPoison_cur (l : Loc) (n : Nat) : (s.setPoison l n).cur = s.cur := rfl
@[simp] theorem State.setPoison_curWord (l : Loc) (n : Nat) : (s.setPoison l n).curWord = s.curWord := rfl
@[simp] theorem State.setPoison_agenda (l : Loc) (n : Nat) : (s.setPoison l n).agenda = s.agenda := rfl
@[simp] theorem State.setPoison_turns (l : Loc) (n : Nat) : (s.setPoison l n).turns = s.turns := rfl
@[simp] theorem State.setPoison_fresh (l : Loc) (n : Nat) : (s.setPoison l n).fresh = s.fresh := rfl
@[simp] theorem State.setPoison_uid (l : Loc) (n : Nat) : (s.setPoison l n).uid = s.uid := rfl
@[simp] theorem State.setPoison_noWalks (l : Loc) (n : Nat) : (s.setPoison l n).noWalks = s.noWalks := rfl
@[simp] theorem State.setPoison_mem (l : Loc) (n : Nat) : (s.setPoison l n).mem = s.mem := rfl
@[simp] theorem State.setPoison_hostMem (l : Loc) (n : Nat) : (s.setPoison l n).hostMem = s.hostMem := rfl
@[simp] theorem State.setPoison_cluster (l : Loc) (n : Nat) : (s.setPoison l n).cluster = s.cluster := rfl
@[simp] theorem State.setPoison_stripes (l : Loc) (n : Nat) : (s.setPoison l n).stripes = s.stripes := rfl
@[simp] theorem State.setPoison_l1 (l : Loc) (n : Nat) : (s.setPoison l n).l1 = s.l1 := rfl
@[simp] theorem State.setPoison_coreTlb (l : Loc) (n : Nat) : (s.setPoison l n).coreTlb = s.coreTlb := rfl
@[simp] theorem State.setPoison_dieTlb (l : Loc) (n : Nat) : (s.setPoison l n).dieTlb = s.dieTlb := rfl
@[simp] theorem State.setPoison_tasks (l : Loc) (n : Nat) : (s.setPoison l n).tasks = s.tasks := rfl
@[simp] theorem State.setPoison_nextTask (l : Loc) (n : Nat) : (s.setPoison l n).nextTask = s.nextTask := rfl
@[simp] theorem State.setPoison_images (l : Loc) (n : Nat) : (s.setPoison l n).images = s.images := rfl
@[simp] theorem State.setPoison_cores (l : Loc) (n : Nat) : (s.setPoison l n).cores = s.cores := rfl
@[simp] theorem State.setPoison_lotq (l : Loc) (n : Nat) : (s.setPoison l n).lotq = s.lotq := rfl
@[simp] theorem State.setPoison_dies (l : Loc) (n : Nat) : (s.setPoison l n).dies = s.dies := rfl
@[simp] theorem State.setPoison_recs (l : Loc) (n : Nat) : (s.setPoison l n).recs = s.recs := rfl
@[simp] theorem State.setPoison_counters (l : Loc) (n : Nat) : (s.setPoison l n).counters = s.counters := rfl
@[simp] theorem State.setPoison_readyCtr (l : Loc) (n : Nat) : (s.setPoison l n).readyCtr = s.readyCtr := rfl
@[simp] theorem State.setPoison_cpq (l : Loc) (n : Nat) : (s.setPoison l n).cpq = s.cpq := rfl
@[simp] theorem State.setPoison_retirements (l : Loc) (n : Nat) : (s.setPoison l n).retirements = s.retirements := rfl
@[simp] theorem State.setPoison_ctxs (l : Loc) (n : Nat) : (s.setPoison l n).ctxs = s.ctxs := rfl
@[simp] theorem State.setPoison_queues (l : Loc) (n : Nat) : (s.setPoison l n).queues = s.queues := rfl
@[simp] theorem State.setPoison_phasers (l : Loc) (n : Nat) : (s.setPoison l n).phasers = s.phasers := rfl
@[simp] theorem State.setPoison_barriers (l : Loc) (n : Nat) : (s.setPoison l n).barriers = s.barriers := rfl
@[simp] theorem State.setPoison_auctions (l : Loc) (n : Nat) : (s.setPoison l n).auctions = s.auctions := rfl
@[simp] theorem State.setPoison_lanes (l : Loc) (n : Nat) : (s.setPoison l n).lanes = s.lanes := rfl
@[simp] theorem State.setPoison_heartbeatDue (l : Loc) (n : Nat) : (s.setPoison l n).heartbeatDue = s.heartbeatDue := rfl
@[simp] theorem State.setPoison_epoch (l : Loc) (n : Nat) : (s.setPoison l n).epoch = s.epoch := rfl
@[simp] theorem State.setPoison_psrs (l : Loc) (n : Nat) : (s.setPoison l n).psrs = s.psrs := rfl
@[simp] theorem State.setPoison_evidence (l : Loc) (n : Nat) : (s.setPoison l n).evidence = s.evidence := rfl
@[simp] theorem State.setPoison_roleHist (l : Loc) (n : Nat) : (s.setPoison l n).roleHist = s.roleHist := rfl
@[simp] theorem State.setPoison_classes (l : Loc) (n : Nat) : (s.setPoison l n).classes = s.classes := rfl
@[simp] theorem State.setPoison_evaluation (l : Loc) (n : Nat) : (s.setPoison l n).evaluation = s.evaluation := rfl
@[simp] theorem State.setPoison_elections (l : Loc) (n : Nat) : (s.setPoison l n).elections = s.elections := rfl
@[simp] theorem State.setPoison_xfers (l : Loc) (n : Nat) : (s.setPoison l n).xfers = s.xfers := rfl
@[simp] theorem State.setPoison_nextXfer (l : Loc) (n : Nat) : (s.setPoison l n).nextXfer = s.nextXfer := rfl
@[simp] theorem State.setPoison_parts (l : Loc) (n : Nat) : (s.setPoison l n).parts = s.parts := rfl
@[simp] theorem State.setPoison_egress (l : Loc) (n : Nat) : (s.setPoison l n).egress = s.egress := rfl
@[simp] theorem State.setPoison_delivered (l : Loc) (n : Nat) : (s.setPoison l n).delivered = s.delivered := rfl
@[simp] theorem State.setPoison_domain (l : Loc) (n : Nat) : (s.setPoison l n).domain = s.domain := rfl
@[simp] theorem State.setPoison_pkgIndex (l : Loc) (n : Nat) : (s.setPoison l n).pkgIndex = s.pkgIndex := rfl
@[simp] theorem State.setPoison_switches (l : Loc) (n : Nat) : (s.setPoison l n).switches = s.switches := rfl
@[simp] theorem State.setPoison_jobPkgs (l : Loc) (n : Nat) : (s.setPoison l n).jobPkgs = s.jobPkgs := rfl
@[simp] theorem State.setPoison_ports (l : Loc) (n : Nat) : (s.setPoison l n).ports = s.ports := rfl
@[simp] theorem State.setPoison_dropped (l : Loc) (n : Nat) : (s.setPoison l n).dropped = s.dropped := rfl
@[simp] theorem State.setPoison_flows (l : Loc) (n : Nat) : (s.setPoison l n).flows = s.flows := rfl
@[simp] theorem State.setPoison_classifier (l : Loc) (n : Nat) : (s.setPoison l n).classifier = s.classifier := rfl
@[simp] theorem State.setPoison_pitches (l : Loc) (n : Nat) : (s.setPoison l n).pitches = s.pitches := rfl
@[simp] theorem State.setPoison_rings (l : Loc) (n : Nat) : (s.setPoison l n).rings = s.rings := rfl
@[simp] theorem State.setPoison_boot (l : Loc) (n : Nat) : (s.setPoison l n).boot = s.boot := rfl
@[simp] theorem State.setPoison_bootFail (l : Loc) (n : Nat) : (s.setPoison l n).bootFail = s.bootFail := rfl
@[simp] theorem State.setPoison_bootDies (l : Loc) (n : Nat) : (s.setPoison l n).bootDies = s.bootDies := rfl
@[simp] theorem State.setPoison_therm (l : Loc) (n : Nat) : (s.setPoison l n).therm = s.therm := rfl
@[simp] theorem State.setPoison_coolantLost (l : Loc) (n : Nat) : (s.setPoison l n).coolantLost = s.coolantLost := rfl
@[simp] theorem State.setPoison_poweredDown (l : Loc) (n : Nat) : (s.setPoison l n).poweredDown = s.poweredDown := rfl
@[simp] theorem State.setPoison_corrected (l : Loc) (n : Nat) : (s.setPoison l n).corrected = s.corrected := rfl
@[simp] theorem State.setPoison_measure3 (l : Loc) (n : Nat) : (s.setPoison l n).measure3 = s.measure3 := rfl
@[simp] theorem State.setPoison_measure4 (l : Loc) (n : Nat) : (s.setPoison l n).measure4 = s.measure4 := rfl
@[simp] theorem State.setPoison_config (l : Loc) (n : Nat) : (s.setPoison l n).config = s.config := rfl
@[simp] theorem State.setPoison_sensorRead (l : Loc) (n : Nat) : (s.setPoison l n).sensorRead = s.sensorRead := rfl

/-! ### `State.clearPoison` -/

@[simp] theorem State.clearPoison_cur (l : Loc) : (s.clearPoison l).cur = s.cur := rfl
@[simp] theorem State.clearPoison_curWord (l : Loc) : (s.clearPoison l).curWord = s.curWord := rfl
@[simp] theorem State.clearPoison_agenda (l : Loc) : (s.clearPoison l).agenda = s.agenda := rfl
@[simp] theorem State.clearPoison_turns (l : Loc) : (s.clearPoison l).turns = s.turns := rfl
@[simp] theorem State.clearPoison_fresh (l : Loc) : (s.clearPoison l).fresh = s.fresh := rfl
@[simp] theorem State.clearPoison_uid (l : Loc) : (s.clearPoison l).uid = s.uid := rfl
@[simp] theorem State.clearPoison_noWalks (l : Loc) : (s.clearPoison l).noWalks = s.noWalks := rfl
@[simp] theorem State.clearPoison_mem (l : Loc) : (s.clearPoison l).mem = s.mem := rfl
@[simp] theorem State.clearPoison_hostMem (l : Loc) : (s.clearPoison l).hostMem = s.hostMem := rfl
@[simp] theorem State.clearPoison_cluster (l : Loc) : (s.clearPoison l).cluster = s.cluster := rfl
@[simp] theorem State.clearPoison_stripes (l : Loc) : (s.clearPoison l).stripes = s.stripes := rfl
@[simp] theorem State.clearPoison_l1 (l : Loc) : (s.clearPoison l).l1 = s.l1 := rfl
@[simp] theorem State.clearPoison_coreTlb (l : Loc) : (s.clearPoison l).coreTlb = s.coreTlb := rfl
@[simp] theorem State.clearPoison_dieTlb (l : Loc) : (s.clearPoison l).dieTlb = s.dieTlb := rfl
@[simp] theorem State.clearPoison_tasks (l : Loc) : (s.clearPoison l).tasks = s.tasks := rfl
@[simp] theorem State.clearPoison_nextTask (l : Loc) : (s.clearPoison l).nextTask = s.nextTask := rfl
@[simp] theorem State.clearPoison_images (l : Loc) : (s.clearPoison l).images = s.images := rfl
@[simp] theorem State.clearPoison_cores (l : Loc) : (s.clearPoison l).cores = s.cores := rfl
@[simp] theorem State.clearPoison_lotq (l : Loc) : (s.clearPoison l).lotq = s.lotq := rfl
@[simp] theorem State.clearPoison_dies (l : Loc) : (s.clearPoison l).dies = s.dies := rfl
@[simp] theorem State.clearPoison_recs (l : Loc) : (s.clearPoison l).recs = s.recs := rfl
@[simp] theorem State.clearPoison_counters (l : Loc) : (s.clearPoison l).counters = s.counters := rfl
@[simp] theorem State.clearPoison_readyCtr (l : Loc) : (s.clearPoison l).readyCtr = s.readyCtr := rfl
@[simp] theorem State.clearPoison_cpq (l : Loc) : (s.clearPoison l).cpq = s.cpq := rfl
@[simp] theorem State.clearPoison_retirements (l : Loc) : (s.clearPoison l).retirements = s.retirements := rfl
@[simp] theorem State.clearPoison_ctxs (l : Loc) : (s.clearPoison l).ctxs = s.ctxs := rfl
@[simp] theorem State.clearPoison_queues (l : Loc) : (s.clearPoison l).queues = s.queues := rfl
@[simp] theorem State.clearPoison_phasers (l : Loc) : (s.clearPoison l).phasers = s.phasers := rfl
@[simp] theorem State.clearPoison_barriers (l : Loc) : (s.clearPoison l).barriers = s.barriers := rfl
@[simp] theorem State.clearPoison_auctions (l : Loc) : (s.clearPoison l).auctions = s.auctions := rfl
@[simp] theorem State.clearPoison_lanes (l : Loc) : (s.clearPoison l).lanes = s.lanes := rfl
@[simp] theorem State.clearPoison_heartbeatDue (l : Loc) : (s.clearPoison l).heartbeatDue = s.heartbeatDue := rfl
@[simp] theorem State.clearPoison_epoch (l : Loc) : (s.clearPoison l).epoch = s.epoch := rfl
@[simp] theorem State.clearPoison_psrs (l : Loc) : (s.clearPoison l).psrs = s.psrs := rfl
@[simp] theorem State.clearPoison_evidence (l : Loc) : (s.clearPoison l).evidence = s.evidence := rfl
@[simp] theorem State.clearPoison_roleHist (l : Loc) : (s.clearPoison l).roleHist = s.roleHist := rfl
@[simp] theorem State.clearPoison_classes (l : Loc) : (s.clearPoison l).classes = s.classes := rfl
@[simp] theorem State.clearPoison_evaluation (l : Loc) : (s.clearPoison l).evaluation = s.evaluation := rfl
@[simp] theorem State.clearPoison_elections (l : Loc) : (s.clearPoison l).elections = s.elections := rfl
@[simp] theorem State.clearPoison_xfers (l : Loc) : (s.clearPoison l).xfers = s.xfers := rfl
@[simp] theorem State.clearPoison_nextXfer (l : Loc) : (s.clearPoison l).nextXfer = s.nextXfer := rfl
@[simp] theorem State.clearPoison_parts (l : Loc) : (s.clearPoison l).parts = s.parts := rfl
@[simp] theorem State.clearPoison_egress (l : Loc) : (s.clearPoison l).egress = s.egress := rfl
@[simp] theorem State.clearPoison_delivered (l : Loc) : (s.clearPoison l).delivered = s.delivered := rfl
@[simp] theorem State.clearPoison_domain (l : Loc) : (s.clearPoison l).domain = s.domain := rfl
@[simp] theorem State.clearPoison_pkgIndex (l : Loc) : (s.clearPoison l).pkgIndex = s.pkgIndex := rfl
@[simp] theorem State.clearPoison_switches (l : Loc) : (s.clearPoison l).switches = s.switches := rfl
@[simp] theorem State.clearPoison_jobPkgs (l : Loc) : (s.clearPoison l).jobPkgs = s.jobPkgs := rfl
@[simp] theorem State.clearPoison_ports (l : Loc) : (s.clearPoison l).ports = s.ports := rfl
@[simp] theorem State.clearPoison_dropped (l : Loc) : (s.clearPoison l).dropped = s.dropped := rfl
@[simp] theorem State.clearPoison_flows (l : Loc) : (s.clearPoison l).flows = s.flows := rfl
@[simp] theorem State.clearPoison_classifier (l : Loc) : (s.clearPoison l).classifier = s.classifier := rfl
@[simp] theorem State.clearPoison_pitches (l : Loc) : (s.clearPoison l).pitches = s.pitches := rfl
@[simp] theorem State.clearPoison_rings (l : Loc) : (s.clearPoison l).rings = s.rings := rfl
@[simp] theorem State.clearPoison_boot (l : Loc) : (s.clearPoison l).boot = s.boot := rfl
@[simp] theorem State.clearPoison_bootFail (l : Loc) : (s.clearPoison l).bootFail = s.bootFail := rfl
@[simp] theorem State.clearPoison_bootDies (l : Loc) : (s.clearPoison l).bootDies = s.bootDies := rfl
@[simp] theorem State.clearPoison_therm (l : Loc) : (s.clearPoison l).therm = s.therm := rfl
@[simp] theorem State.clearPoison_coolantLost (l : Loc) : (s.clearPoison l).coolantLost = s.coolantLost := rfl
@[simp] theorem State.clearPoison_poweredDown (l : Loc) : (s.clearPoison l).poweredDown = s.poweredDown := rfl
@[simp] theorem State.clearPoison_corrected (l : Loc) : (s.clearPoison l).corrected = s.corrected := rfl
@[simp] theorem State.clearPoison_measure3 (l : Loc) : (s.clearPoison l).measure3 = s.measure3 := rfl
@[simp] theorem State.clearPoison_measure4 (l : Loc) : (s.clearPoison l).measure4 = s.measure4 := rfl
@[simp] theorem State.clearPoison_config (l : Loc) : (s.clearPoison l).config = s.config := rfl
@[simp] theorem State.clearPoison_sensorRead (l : Loc) : (s.clearPoison l).sensorRead = s.sensorRead := rfl

/-! ### `State.setLines` -/

@[simp] theorem State.setLines_cur (n : Nat) (l : List L1Line) : (s.setLines n l).cur = s.cur := rfl
@[simp] theorem State.setLines_curWord (n : Nat) (l : List L1Line) : (s.setLines n l).curWord = s.curWord := rfl
@[simp] theorem State.setLines_agenda (n : Nat) (l : List L1Line) : (s.setLines n l).agenda = s.agenda := rfl
@[simp] theorem State.setLines_turns (n : Nat) (l : List L1Line) : (s.setLines n l).turns = s.turns := rfl
@[simp] theorem State.setLines_fresh (n : Nat) (l : List L1Line) : (s.setLines n l).fresh = s.fresh := rfl
@[simp] theorem State.setLines_uid (n : Nat) (l : List L1Line) : (s.setLines n l).uid = s.uid := rfl
@[simp] theorem State.setLines_noWalks (n : Nat) (l : List L1Line) : (s.setLines n l).noWalks = s.noWalks := rfl
@[simp] theorem State.setLines_mem (n : Nat) (l : List L1Line) : (s.setLines n l).mem = s.mem := rfl
@[simp] theorem State.setLines_hostMem (n : Nat) (l : List L1Line) : (s.setLines n l).hostMem = s.hostMem := rfl
@[simp] theorem State.setLines_cluster (n : Nat) (l : List L1Line) : (s.setLines n l).cluster = s.cluster := rfl
@[simp] theorem State.setLines_stripes (n : Nat) (l : List L1Line) : (s.setLines n l).stripes = s.stripes := rfl
@[simp] theorem State.setLines_poison (n : Nat) (l : List L1Line) : (s.setLines n l).poison = s.poison := rfl
@[simp] theorem State.setLines_coreTlb (n : Nat) (l : List L1Line) : (s.setLines n l).coreTlb = s.coreTlb := rfl
@[simp] theorem State.setLines_dieTlb (n : Nat) (l : List L1Line) : (s.setLines n l).dieTlb = s.dieTlb := rfl
@[simp] theorem State.setLines_tasks (n : Nat) (l : List L1Line) : (s.setLines n l).tasks = s.tasks := rfl
@[simp] theorem State.setLines_nextTask (n : Nat) (l : List L1Line) : (s.setLines n l).nextTask = s.nextTask := rfl
@[simp] theorem State.setLines_images (n : Nat) (l : List L1Line) : (s.setLines n l).images = s.images := rfl
@[simp] theorem State.setLines_cores (n : Nat) (l : List L1Line) : (s.setLines n l).cores = s.cores := rfl
@[simp] theorem State.setLines_lotq (n : Nat) (l : List L1Line) : (s.setLines n l).lotq = s.lotq := rfl
@[simp] theorem State.setLines_dies (n : Nat) (l : List L1Line) : (s.setLines n l).dies = s.dies := rfl
@[simp] theorem State.setLines_recs (n : Nat) (l : List L1Line) : (s.setLines n l).recs = s.recs := rfl
@[simp] theorem State.setLines_counters (n : Nat) (l : List L1Line) : (s.setLines n l).counters = s.counters := rfl
@[simp] theorem State.setLines_readyCtr (n : Nat) (l : List L1Line) : (s.setLines n l).readyCtr = s.readyCtr := rfl
@[simp] theorem State.setLines_cpq (n : Nat) (l : List L1Line) : (s.setLines n l).cpq = s.cpq := rfl
@[simp] theorem State.setLines_retirements (n : Nat) (l : List L1Line) : (s.setLines n l).retirements = s.retirements := rfl
@[simp] theorem State.setLines_ctxs (n : Nat) (l : List L1Line) : (s.setLines n l).ctxs = s.ctxs := rfl
@[simp] theorem State.setLines_queues (n : Nat) (l : List L1Line) : (s.setLines n l).queues = s.queues := rfl
@[simp] theorem State.setLines_phasers (n : Nat) (l : List L1Line) : (s.setLines n l).phasers = s.phasers := rfl
@[simp] theorem State.setLines_barriers (n : Nat) (l : List L1Line) : (s.setLines n l).barriers = s.barriers := rfl
@[simp] theorem State.setLines_auctions (n : Nat) (l : List L1Line) : (s.setLines n l).auctions = s.auctions := rfl
@[simp] theorem State.setLines_lanes (n : Nat) (l : List L1Line) : (s.setLines n l).lanes = s.lanes := rfl
@[simp] theorem State.setLines_heartbeatDue (n : Nat) (l : List L1Line) : (s.setLines n l).heartbeatDue = s.heartbeatDue := rfl
@[simp] theorem State.setLines_epoch (n : Nat) (l : List L1Line) : (s.setLines n l).epoch = s.epoch := rfl
@[simp] theorem State.setLines_psrs (n : Nat) (l : List L1Line) : (s.setLines n l).psrs = s.psrs := rfl
@[simp] theorem State.setLines_evidence (n : Nat) (l : List L1Line) : (s.setLines n l).evidence = s.evidence := rfl
@[simp] theorem State.setLines_roleHist (n : Nat) (l : List L1Line) : (s.setLines n l).roleHist = s.roleHist := rfl
@[simp] theorem State.setLines_classes (n : Nat) (l : List L1Line) : (s.setLines n l).classes = s.classes := rfl
@[simp] theorem State.setLines_evaluation (n : Nat) (l : List L1Line) : (s.setLines n l).evaluation = s.evaluation := rfl
@[simp] theorem State.setLines_elections (n : Nat) (l : List L1Line) : (s.setLines n l).elections = s.elections := rfl
@[simp] theorem State.setLines_xfers (n : Nat) (l : List L1Line) : (s.setLines n l).xfers = s.xfers := rfl
@[simp] theorem State.setLines_nextXfer (n : Nat) (l : List L1Line) : (s.setLines n l).nextXfer = s.nextXfer := rfl
@[simp] theorem State.setLines_parts (n : Nat) (l : List L1Line) : (s.setLines n l).parts = s.parts := rfl
@[simp] theorem State.setLines_egress (n : Nat) (l : List L1Line) : (s.setLines n l).egress = s.egress := rfl
@[simp] theorem State.setLines_delivered (n : Nat) (l : List L1Line) : (s.setLines n l).delivered = s.delivered := rfl
@[simp] theorem State.setLines_domain (n : Nat) (l : List L1Line) : (s.setLines n l).domain = s.domain := rfl
@[simp] theorem State.setLines_pkgIndex (n : Nat) (l : List L1Line) : (s.setLines n l).pkgIndex = s.pkgIndex := rfl
@[simp] theorem State.setLines_switches (n : Nat) (l : List L1Line) : (s.setLines n l).switches = s.switches := rfl
@[simp] theorem State.setLines_jobPkgs (n : Nat) (l : List L1Line) : (s.setLines n l).jobPkgs = s.jobPkgs := rfl
@[simp] theorem State.setLines_ports (n : Nat) (l : List L1Line) : (s.setLines n l).ports = s.ports := rfl
@[simp] theorem State.setLines_dropped (n : Nat) (l : List L1Line) : (s.setLines n l).dropped = s.dropped := rfl
@[simp] theorem State.setLines_flows (n : Nat) (l : List L1Line) : (s.setLines n l).flows = s.flows := rfl
@[simp] theorem State.setLines_classifier (n : Nat) (l : List L1Line) : (s.setLines n l).classifier = s.classifier := rfl
@[simp] theorem State.setLines_pitches (n : Nat) (l : List L1Line) : (s.setLines n l).pitches = s.pitches := rfl
@[simp] theorem State.setLines_rings (n : Nat) (l : List L1Line) : (s.setLines n l).rings = s.rings := rfl
@[simp] theorem State.setLines_boot (n : Nat) (l : List L1Line) : (s.setLines n l).boot = s.boot := rfl
@[simp] theorem State.setLines_bootFail (n : Nat) (l : List L1Line) : (s.setLines n l).bootFail = s.bootFail := rfl
@[simp] theorem State.setLines_bootDies (n : Nat) (l : List L1Line) : (s.setLines n l).bootDies = s.bootDies := rfl
@[simp] theorem State.setLines_therm (n : Nat) (l : List L1Line) : (s.setLines n l).therm = s.therm := rfl
@[simp] theorem State.setLines_coolantLost (n : Nat) (l : List L1Line) : (s.setLines n l).coolantLost = s.coolantLost := rfl
@[simp] theorem State.setLines_poweredDown (n : Nat) (l : List L1Line) : (s.setLines n l).poweredDown = s.poweredDown := rfl
@[simp] theorem State.setLines_corrected (n : Nat) (l : List L1Line) : (s.setLines n l).corrected = s.corrected := rfl
@[simp] theorem State.setLines_measure3 (n : Nat) (l : List L1Line) : (s.setLines n l).measure3 = s.measure3 := rfl
@[simp] theorem State.setLines_measure4 (n : Nat) (l : List L1Line) : (s.setLines n l).measure4 = s.measure4 := rfl
@[simp] theorem State.setLines_config (n : Nat) (l : List L1Line) : (s.setLines n l).config = s.config := rfl
@[simp] theorem State.setLines_sensorRead (n : Nat) (l : List L1Line) : (s.setLines n l).sensorRead = s.sensorRead := rfl

/-! ### `State.setRec` -/

@[simp] theorem State.setRec_cur (n : Nat) (r : LaunchRec) : (s.setRec n r).cur = s.cur := rfl
@[simp] theorem State.setRec_curWord (n : Nat) (r : LaunchRec) : (s.setRec n r).curWord = s.curWord := rfl
@[simp] theorem State.setRec_agenda (n : Nat) (r : LaunchRec) : (s.setRec n r).agenda = s.agenda := rfl
@[simp] theorem State.setRec_turns (n : Nat) (r : LaunchRec) : (s.setRec n r).turns = s.turns := rfl
@[simp] theorem State.setRec_fresh (n : Nat) (r : LaunchRec) : (s.setRec n r).fresh = s.fresh := rfl
@[simp] theorem State.setRec_uid (n : Nat) (r : LaunchRec) : (s.setRec n r).uid = s.uid := rfl
@[simp] theorem State.setRec_noWalks (n : Nat) (r : LaunchRec) : (s.setRec n r).noWalks = s.noWalks := rfl
@[simp] theorem State.setRec_mem (n : Nat) (r : LaunchRec) : (s.setRec n r).mem = s.mem := rfl
@[simp] theorem State.setRec_hostMem (n : Nat) (r : LaunchRec) : (s.setRec n r).hostMem = s.hostMem := rfl
@[simp] theorem State.setRec_cluster (n : Nat) (r : LaunchRec) : (s.setRec n r).cluster = s.cluster := rfl
@[simp] theorem State.setRec_stripes (n : Nat) (r : LaunchRec) : (s.setRec n r).stripes = s.stripes := rfl
@[simp] theorem State.setRec_poison (n : Nat) (r : LaunchRec) : (s.setRec n r).poison = s.poison := rfl
@[simp] theorem State.setRec_l1 (n : Nat) (r : LaunchRec) : (s.setRec n r).l1 = s.l1 := rfl
@[simp] theorem State.setRec_coreTlb (n : Nat) (r : LaunchRec) : (s.setRec n r).coreTlb = s.coreTlb := rfl
@[simp] theorem State.setRec_dieTlb (n : Nat) (r : LaunchRec) : (s.setRec n r).dieTlb = s.dieTlb := rfl
@[simp] theorem State.setRec_tasks (n : Nat) (r : LaunchRec) : (s.setRec n r).tasks = s.tasks := rfl
@[simp] theorem State.setRec_nextTask (n : Nat) (r : LaunchRec) : (s.setRec n r).nextTask = s.nextTask := rfl
@[simp] theorem State.setRec_images (n : Nat) (r : LaunchRec) : (s.setRec n r).images = s.images := rfl
@[simp] theorem State.setRec_cores (n : Nat) (r : LaunchRec) : (s.setRec n r).cores = s.cores := rfl
@[simp] theorem State.setRec_lotq (n : Nat) (r : LaunchRec) : (s.setRec n r).lotq = s.lotq := rfl
@[simp] theorem State.setRec_dies (n : Nat) (r : LaunchRec) : (s.setRec n r).dies = s.dies := rfl
@[simp] theorem State.setRec_counters (n : Nat) (r : LaunchRec) : (s.setRec n r).counters = s.counters := rfl
@[simp] theorem State.setRec_readyCtr (n : Nat) (r : LaunchRec) : (s.setRec n r).readyCtr = s.readyCtr := rfl
@[simp] theorem State.setRec_cpq (n : Nat) (r : LaunchRec) : (s.setRec n r).cpq = s.cpq := rfl
@[simp] theorem State.setRec_retirements (n : Nat) (r : LaunchRec) : (s.setRec n r).retirements = s.retirements := rfl
@[simp] theorem State.setRec_ctxs (n : Nat) (r : LaunchRec) : (s.setRec n r).ctxs = s.ctxs := rfl
@[simp] theorem State.setRec_queues (n : Nat) (r : LaunchRec) : (s.setRec n r).queues = s.queues := rfl
@[simp] theorem State.setRec_phasers (n : Nat) (r : LaunchRec) : (s.setRec n r).phasers = s.phasers := rfl
@[simp] theorem State.setRec_barriers (n : Nat) (r : LaunchRec) : (s.setRec n r).barriers = s.barriers := rfl
@[simp] theorem State.setRec_auctions (n : Nat) (r : LaunchRec) : (s.setRec n r).auctions = s.auctions := rfl
@[simp] theorem State.setRec_lanes (n : Nat) (r : LaunchRec) : (s.setRec n r).lanes = s.lanes := rfl
@[simp] theorem State.setRec_heartbeatDue (n : Nat) (r : LaunchRec) : (s.setRec n r).heartbeatDue = s.heartbeatDue := rfl
@[simp] theorem State.setRec_epoch (n : Nat) (r : LaunchRec) : (s.setRec n r).epoch = s.epoch := rfl
@[simp] theorem State.setRec_psrs (n : Nat) (r : LaunchRec) : (s.setRec n r).psrs = s.psrs := rfl
@[simp] theorem State.setRec_evidence (n : Nat) (r : LaunchRec) : (s.setRec n r).evidence = s.evidence := rfl
@[simp] theorem State.setRec_roleHist (n : Nat) (r : LaunchRec) : (s.setRec n r).roleHist = s.roleHist := rfl
@[simp] theorem State.setRec_classes (n : Nat) (r : LaunchRec) : (s.setRec n r).classes = s.classes := rfl
@[simp] theorem State.setRec_evaluation (n : Nat) (r : LaunchRec) : (s.setRec n r).evaluation = s.evaluation := rfl
@[simp] theorem State.setRec_elections (n : Nat) (r : LaunchRec) : (s.setRec n r).elections = s.elections := rfl
@[simp] theorem State.setRec_xfers (n : Nat) (r : LaunchRec) : (s.setRec n r).xfers = s.xfers := rfl
@[simp] theorem State.setRec_nextXfer (n : Nat) (r : LaunchRec) : (s.setRec n r).nextXfer = s.nextXfer := rfl
@[simp] theorem State.setRec_parts (n : Nat) (r : LaunchRec) : (s.setRec n r).parts = s.parts := rfl
@[simp] theorem State.setRec_egress (n : Nat) (r : LaunchRec) : (s.setRec n r).egress = s.egress := rfl
@[simp] theorem State.setRec_delivered (n : Nat) (r : LaunchRec) : (s.setRec n r).delivered = s.delivered := rfl
@[simp] theorem State.setRec_domain (n : Nat) (r : LaunchRec) : (s.setRec n r).domain = s.domain := rfl
@[simp] theorem State.setRec_pkgIndex (n : Nat) (r : LaunchRec) : (s.setRec n r).pkgIndex = s.pkgIndex := rfl
@[simp] theorem State.setRec_switches (n : Nat) (r : LaunchRec) : (s.setRec n r).switches = s.switches := rfl
@[simp] theorem State.setRec_jobPkgs (n : Nat) (r : LaunchRec) : (s.setRec n r).jobPkgs = s.jobPkgs := rfl
@[simp] theorem State.setRec_ports (n : Nat) (r : LaunchRec) : (s.setRec n r).ports = s.ports := rfl
@[simp] theorem State.setRec_dropped (n : Nat) (r : LaunchRec) : (s.setRec n r).dropped = s.dropped := rfl
@[simp] theorem State.setRec_flows (n : Nat) (r : LaunchRec) : (s.setRec n r).flows = s.flows := rfl
@[simp] theorem State.setRec_classifier (n : Nat) (r : LaunchRec) : (s.setRec n r).classifier = s.classifier := rfl
@[simp] theorem State.setRec_pitches (n : Nat) (r : LaunchRec) : (s.setRec n r).pitches = s.pitches := rfl
@[simp] theorem State.setRec_rings (n : Nat) (r : LaunchRec) : (s.setRec n r).rings = s.rings := rfl
@[simp] theorem State.setRec_boot (n : Nat) (r : LaunchRec) : (s.setRec n r).boot = s.boot := rfl
@[simp] theorem State.setRec_bootFail (n : Nat) (r : LaunchRec) : (s.setRec n r).bootFail = s.bootFail := rfl
@[simp] theorem State.setRec_bootDies (n : Nat) (r : LaunchRec) : (s.setRec n r).bootDies = s.bootDies := rfl
@[simp] theorem State.setRec_therm (n : Nat) (r : LaunchRec) : (s.setRec n r).therm = s.therm := rfl
@[simp] theorem State.setRec_coolantLost (n : Nat) (r : LaunchRec) : (s.setRec n r).coolantLost = s.coolantLost := rfl
@[simp] theorem State.setRec_poweredDown (n : Nat) (r : LaunchRec) : (s.setRec n r).poweredDown = s.poweredDown := rfl
@[simp] theorem State.setRec_corrected (n : Nat) (r : LaunchRec) : (s.setRec n r).corrected = s.corrected := rfl
@[simp] theorem State.setRec_measure3 (n : Nat) (r : LaunchRec) : (s.setRec n r).measure3 = s.measure3 := rfl
@[simp] theorem State.setRec_measure4 (n : Nat) (r : LaunchRec) : (s.setRec n r).measure4 = s.measure4 := rfl
@[simp] theorem State.setRec_config (n : Nat) (r : LaunchRec) : (s.setRec n r).config = s.config := rfl
@[simp] theorem State.setRec_sensorRead (n : Nat) (r : LaunchRec) : (s.setRec n r).sensorRead = s.sensorRead := rfl

/-! ### `State.setCounter` -/

@[simp] theorem State.setCounter_cur (n : Nat) (v : BitVec 16) : (s.setCounter n v).cur = s.cur := rfl
@[simp] theorem State.setCounter_curWord (n : Nat) (v : BitVec 16) : (s.setCounter n v).curWord = s.curWord := rfl
@[simp] theorem State.setCounter_agenda (n : Nat) (v : BitVec 16) : (s.setCounter n v).agenda = s.agenda := rfl
@[simp] theorem State.setCounter_turns (n : Nat) (v : BitVec 16) : (s.setCounter n v).turns = s.turns := rfl
@[simp] theorem State.setCounter_fresh (n : Nat) (v : BitVec 16) : (s.setCounter n v).fresh = s.fresh := rfl
@[simp] theorem State.setCounter_uid (n : Nat) (v : BitVec 16) : (s.setCounter n v).uid = s.uid := rfl
@[simp] theorem State.setCounter_noWalks (n : Nat) (v : BitVec 16) : (s.setCounter n v).noWalks = s.noWalks := rfl
@[simp] theorem State.setCounter_mem (n : Nat) (v : BitVec 16) : (s.setCounter n v).mem = s.mem := rfl
@[simp] theorem State.setCounter_hostMem (n : Nat) (v : BitVec 16) : (s.setCounter n v).hostMem = s.hostMem := rfl
@[simp] theorem State.setCounter_cluster (n : Nat) (v : BitVec 16) : (s.setCounter n v).cluster = s.cluster := rfl
@[simp] theorem State.setCounter_stripes (n : Nat) (v : BitVec 16) : (s.setCounter n v).stripes = s.stripes := rfl
@[simp] theorem State.setCounter_poison (n : Nat) (v : BitVec 16) : (s.setCounter n v).poison = s.poison := rfl
@[simp] theorem State.setCounter_l1 (n : Nat) (v : BitVec 16) : (s.setCounter n v).l1 = s.l1 := rfl
@[simp] theorem State.setCounter_coreTlb (n : Nat) (v : BitVec 16) : (s.setCounter n v).coreTlb = s.coreTlb := rfl
@[simp] theorem State.setCounter_dieTlb (n : Nat) (v : BitVec 16) : (s.setCounter n v).dieTlb = s.dieTlb := rfl
@[simp] theorem State.setCounter_tasks (n : Nat) (v : BitVec 16) : (s.setCounter n v).tasks = s.tasks := rfl
@[simp] theorem State.setCounter_nextTask (n : Nat) (v : BitVec 16) : (s.setCounter n v).nextTask = s.nextTask := rfl
@[simp] theorem State.setCounter_images (n : Nat) (v : BitVec 16) : (s.setCounter n v).images = s.images := rfl
@[simp] theorem State.setCounter_cores (n : Nat) (v : BitVec 16) : (s.setCounter n v).cores = s.cores := rfl
@[simp] theorem State.setCounter_lotq (n : Nat) (v : BitVec 16) : (s.setCounter n v).lotq = s.lotq := rfl
@[simp] theorem State.setCounter_dies (n : Nat) (v : BitVec 16) : (s.setCounter n v).dies = s.dies := rfl
@[simp] theorem State.setCounter_recs (n : Nat) (v : BitVec 16) : (s.setCounter n v).recs = s.recs := rfl
@[simp] theorem State.setCounter_readyCtr (n : Nat) (v : BitVec 16) : (s.setCounter n v).readyCtr = s.readyCtr := rfl
@[simp] theorem State.setCounter_cpq (n : Nat) (v : BitVec 16) : (s.setCounter n v).cpq = s.cpq := rfl
@[simp] theorem State.setCounter_retirements (n : Nat) (v : BitVec 16) : (s.setCounter n v).retirements = s.retirements := rfl
@[simp] theorem State.setCounter_ctxs (n : Nat) (v : BitVec 16) : (s.setCounter n v).ctxs = s.ctxs := rfl
@[simp] theorem State.setCounter_queues (n : Nat) (v : BitVec 16) : (s.setCounter n v).queues = s.queues := rfl
@[simp] theorem State.setCounter_phasers (n : Nat) (v : BitVec 16) : (s.setCounter n v).phasers = s.phasers := rfl
@[simp] theorem State.setCounter_barriers (n : Nat) (v : BitVec 16) : (s.setCounter n v).barriers = s.barriers := rfl
@[simp] theorem State.setCounter_auctions (n : Nat) (v : BitVec 16) : (s.setCounter n v).auctions = s.auctions := rfl
@[simp] theorem State.setCounter_lanes (n : Nat) (v : BitVec 16) : (s.setCounter n v).lanes = s.lanes := rfl
@[simp] theorem State.setCounter_heartbeatDue (n : Nat) (v : BitVec 16) : (s.setCounter n v).heartbeatDue = s.heartbeatDue := rfl
@[simp] theorem State.setCounter_epoch (n : Nat) (v : BitVec 16) : (s.setCounter n v).epoch = s.epoch := rfl
@[simp] theorem State.setCounter_psrs (n : Nat) (v : BitVec 16) : (s.setCounter n v).psrs = s.psrs := rfl
@[simp] theorem State.setCounter_evidence (n : Nat) (v : BitVec 16) : (s.setCounter n v).evidence = s.evidence := rfl
@[simp] theorem State.setCounter_roleHist (n : Nat) (v : BitVec 16) : (s.setCounter n v).roleHist = s.roleHist := rfl
@[simp] theorem State.setCounter_classes (n : Nat) (v : BitVec 16) : (s.setCounter n v).classes = s.classes := rfl
@[simp] theorem State.setCounter_evaluation (n : Nat) (v : BitVec 16) : (s.setCounter n v).evaluation = s.evaluation := rfl
@[simp] theorem State.setCounter_elections (n : Nat) (v : BitVec 16) : (s.setCounter n v).elections = s.elections := rfl
@[simp] theorem State.setCounter_xfers (n : Nat) (v : BitVec 16) : (s.setCounter n v).xfers = s.xfers := rfl
@[simp] theorem State.setCounter_nextXfer (n : Nat) (v : BitVec 16) : (s.setCounter n v).nextXfer = s.nextXfer := rfl
@[simp] theorem State.setCounter_parts (n : Nat) (v : BitVec 16) : (s.setCounter n v).parts = s.parts := rfl
@[simp] theorem State.setCounter_egress (n : Nat) (v : BitVec 16) : (s.setCounter n v).egress = s.egress := rfl
@[simp] theorem State.setCounter_delivered (n : Nat) (v : BitVec 16) : (s.setCounter n v).delivered = s.delivered := rfl
@[simp] theorem State.setCounter_domain (n : Nat) (v : BitVec 16) : (s.setCounter n v).domain = s.domain := rfl
@[simp] theorem State.setCounter_pkgIndex (n : Nat) (v : BitVec 16) : (s.setCounter n v).pkgIndex = s.pkgIndex := rfl
@[simp] theorem State.setCounter_switches (n : Nat) (v : BitVec 16) : (s.setCounter n v).switches = s.switches := rfl
@[simp] theorem State.setCounter_jobPkgs (n : Nat) (v : BitVec 16) : (s.setCounter n v).jobPkgs = s.jobPkgs := rfl
@[simp] theorem State.setCounter_ports (n : Nat) (v : BitVec 16) : (s.setCounter n v).ports = s.ports := rfl
@[simp] theorem State.setCounter_dropped (n : Nat) (v : BitVec 16) : (s.setCounter n v).dropped = s.dropped := rfl
@[simp] theorem State.setCounter_flows (n : Nat) (v : BitVec 16) : (s.setCounter n v).flows = s.flows := rfl
@[simp] theorem State.setCounter_classifier (n : Nat) (v : BitVec 16) : (s.setCounter n v).classifier = s.classifier := rfl
@[simp] theorem State.setCounter_pitches (n : Nat) (v : BitVec 16) : (s.setCounter n v).pitches = s.pitches := rfl
@[simp] theorem State.setCounter_rings (n : Nat) (v : BitVec 16) : (s.setCounter n v).rings = s.rings := rfl
@[simp] theorem State.setCounter_boot (n : Nat) (v : BitVec 16) : (s.setCounter n v).boot = s.boot := rfl
@[simp] theorem State.setCounter_bootFail (n : Nat) (v : BitVec 16) : (s.setCounter n v).bootFail = s.bootFail := rfl
@[simp] theorem State.setCounter_bootDies (n : Nat) (v : BitVec 16) : (s.setCounter n v).bootDies = s.bootDies := rfl
@[simp] theorem State.setCounter_therm (n : Nat) (v : BitVec 16) : (s.setCounter n v).therm = s.therm := rfl
@[simp] theorem State.setCounter_coolantLost (n : Nat) (v : BitVec 16) : (s.setCounter n v).coolantLost = s.coolantLost := rfl
@[simp] theorem State.setCounter_poweredDown (n : Nat) (v : BitVec 16) : (s.setCounter n v).poweredDown = s.poweredDown := rfl
@[simp] theorem State.setCounter_corrected (n : Nat) (v : BitVec 16) : (s.setCounter n v).corrected = s.corrected := rfl
@[simp] theorem State.setCounter_measure3 (n : Nat) (v : BitVec 16) : (s.setCounter n v).measure3 = s.measure3 := rfl
@[simp] theorem State.setCounter_measure4 (n : Nat) (v : BitVec 16) : (s.setCounter n v).measure4 = s.measure4 := rfl
@[simp] theorem State.setCounter_config (n : Nat) (v : BitVec 16) : (s.setCounter n v).config = s.config := rfl
@[simp] theorem State.setCounter_sensorRead (n : Nat) (v : BitVec 16) : (s.setCounter n v).sensorRead = s.sensorRead := rfl

/-! ### `State.cpPush` -/

@[simp] theorem State.cpPush_cur (l : List CpWork) : (s.cpPush l).cur = s.cur := rfl
@[simp] theorem State.cpPush_curWord (l : List CpWork) : (s.cpPush l).curWord = s.curWord := rfl
@[simp] theorem State.cpPush_agenda (l : List CpWork) : (s.cpPush l).agenda = s.agenda := rfl
@[simp] theorem State.cpPush_turns (l : List CpWork) : (s.cpPush l).turns = s.turns := rfl
@[simp] theorem State.cpPush_fresh (l : List CpWork) : (s.cpPush l).fresh = s.fresh := rfl
@[simp] theorem State.cpPush_uid (l : List CpWork) : (s.cpPush l).uid = s.uid := rfl
@[simp] theorem State.cpPush_noWalks (l : List CpWork) : (s.cpPush l).noWalks = s.noWalks := rfl
@[simp] theorem State.cpPush_mem (l : List CpWork) : (s.cpPush l).mem = s.mem := rfl
@[simp] theorem State.cpPush_hostMem (l : List CpWork) : (s.cpPush l).hostMem = s.hostMem := rfl
@[simp] theorem State.cpPush_cluster (l : List CpWork) : (s.cpPush l).cluster = s.cluster := rfl
@[simp] theorem State.cpPush_stripes (l : List CpWork) : (s.cpPush l).stripes = s.stripes := rfl
@[simp] theorem State.cpPush_poison (l : List CpWork) : (s.cpPush l).poison = s.poison := rfl
@[simp] theorem State.cpPush_l1 (l : List CpWork) : (s.cpPush l).l1 = s.l1 := rfl
@[simp] theorem State.cpPush_coreTlb (l : List CpWork) : (s.cpPush l).coreTlb = s.coreTlb := rfl
@[simp] theorem State.cpPush_dieTlb (l : List CpWork) : (s.cpPush l).dieTlb = s.dieTlb := rfl
@[simp] theorem State.cpPush_tasks (l : List CpWork) : (s.cpPush l).tasks = s.tasks := rfl
@[simp] theorem State.cpPush_nextTask (l : List CpWork) : (s.cpPush l).nextTask = s.nextTask := rfl
@[simp] theorem State.cpPush_images (l : List CpWork) : (s.cpPush l).images = s.images := rfl
@[simp] theorem State.cpPush_cores (l : List CpWork) : (s.cpPush l).cores = s.cores := rfl
@[simp] theorem State.cpPush_lotq (l : List CpWork) : (s.cpPush l).lotq = s.lotq := rfl
@[simp] theorem State.cpPush_dies (l : List CpWork) : (s.cpPush l).dies = s.dies := rfl
@[simp] theorem State.cpPush_recs (l : List CpWork) : (s.cpPush l).recs = s.recs := rfl
@[simp] theorem State.cpPush_counters (l : List CpWork) : (s.cpPush l).counters = s.counters := rfl
@[simp] theorem State.cpPush_readyCtr (l : List CpWork) : (s.cpPush l).readyCtr = s.readyCtr := rfl
@[simp] theorem State.cpPush_retirements (l : List CpWork) : (s.cpPush l).retirements = s.retirements := rfl
@[simp] theorem State.cpPush_ctxs (l : List CpWork) : (s.cpPush l).ctxs = s.ctxs := rfl
@[simp] theorem State.cpPush_queues (l : List CpWork) : (s.cpPush l).queues = s.queues := rfl
@[simp] theorem State.cpPush_phasers (l : List CpWork) : (s.cpPush l).phasers = s.phasers := rfl
@[simp] theorem State.cpPush_barriers (l : List CpWork) : (s.cpPush l).barriers = s.barriers := rfl
@[simp] theorem State.cpPush_auctions (l : List CpWork) : (s.cpPush l).auctions = s.auctions := rfl
@[simp] theorem State.cpPush_lanes (l : List CpWork) : (s.cpPush l).lanes = s.lanes := rfl
@[simp] theorem State.cpPush_heartbeatDue (l : List CpWork) : (s.cpPush l).heartbeatDue = s.heartbeatDue := rfl
@[simp] theorem State.cpPush_epoch (l : List CpWork) : (s.cpPush l).epoch = s.epoch := rfl
@[simp] theorem State.cpPush_psrs (l : List CpWork) : (s.cpPush l).psrs = s.psrs := rfl
@[simp] theorem State.cpPush_evidence (l : List CpWork) : (s.cpPush l).evidence = s.evidence := rfl
@[simp] theorem State.cpPush_roleHist (l : List CpWork) : (s.cpPush l).roleHist = s.roleHist := rfl
@[simp] theorem State.cpPush_classes (l : List CpWork) : (s.cpPush l).classes = s.classes := rfl
@[simp] theorem State.cpPush_evaluation (l : List CpWork) : (s.cpPush l).evaluation = s.evaluation := rfl
@[simp] theorem State.cpPush_elections (l : List CpWork) : (s.cpPush l).elections = s.elections := rfl
@[simp] theorem State.cpPush_xfers (l : List CpWork) : (s.cpPush l).xfers = s.xfers := rfl
@[simp] theorem State.cpPush_nextXfer (l : List CpWork) : (s.cpPush l).nextXfer = s.nextXfer := rfl
@[simp] theorem State.cpPush_parts (l : List CpWork) : (s.cpPush l).parts = s.parts := rfl
@[simp] theorem State.cpPush_egress (l : List CpWork) : (s.cpPush l).egress = s.egress := rfl
@[simp] theorem State.cpPush_delivered (l : List CpWork) : (s.cpPush l).delivered = s.delivered := rfl
@[simp] theorem State.cpPush_domain (l : List CpWork) : (s.cpPush l).domain = s.domain := rfl
@[simp] theorem State.cpPush_pkgIndex (l : List CpWork) : (s.cpPush l).pkgIndex = s.pkgIndex := rfl
@[simp] theorem State.cpPush_switches (l : List CpWork) : (s.cpPush l).switches = s.switches := rfl
@[simp] theorem State.cpPush_jobPkgs (l : List CpWork) : (s.cpPush l).jobPkgs = s.jobPkgs := rfl
@[simp] theorem State.cpPush_ports (l : List CpWork) : (s.cpPush l).ports = s.ports := rfl
@[simp] theorem State.cpPush_dropped (l : List CpWork) : (s.cpPush l).dropped = s.dropped := rfl
@[simp] theorem State.cpPush_flows (l : List CpWork) : (s.cpPush l).flows = s.flows := rfl
@[simp] theorem State.cpPush_classifier (l : List CpWork) : (s.cpPush l).classifier = s.classifier := rfl
@[simp] theorem State.cpPush_pitches (l : List CpWork) : (s.cpPush l).pitches = s.pitches := rfl
@[simp] theorem State.cpPush_rings (l : List CpWork) : (s.cpPush l).rings = s.rings := rfl
@[simp] theorem State.cpPush_boot (l : List CpWork) : (s.cpPush l).boot = s.boot := rfl
@[simp] theorem State.cpPush_bootFail (l : List CpWork) : (s.cpPush l).bootFail = s.bootFail := rfl
@[simp] theorem State.cpPush_bootDies (l : List CpWork) : (s.cpPush l).bootDies = s.bootDies := rfl
@[simp] theorem State.cpPush_therm (l : List CpWork) : (s.cpPush l).therm = s.therm := rfl
@[simp] theorem State.cpPush_coolantLost (l : List CpWork) : (s.cpPush l).coolantLost = s.coolantLost := rfl
@[simp] theorem State.cpPush_poweredDown (l : List CpWork) : (s.cpPush l).poweredDown = s.poweredDown := rfl
@[simp] theorem State.cpPush_corrected (l : List CpWork) : (s.cpPush l).corrected = s.corrected := rfl
@[simp] theorem State.cpPush_measure3 (l : List CpWork) : (s.cpPush l).measure3 = s.measure3 := rfl
@[simp] theorem State.cpPush_measure4 (l : List CpWork) : (s.cpPush l).measure4 = s.measure4 := rfl
@[simp] theorem State.cpPush_config (l : List CpWork) : (s.cpPush l).config = s.config := rfl
@[simp] theorem State.cpPush_sensorRead (l : List CpWork) : (s.cpPush l).sensorRead = s.sensorRead := rfl

/-! ### `State.setPhaser` -/

@[simp] theorem State.setPhaser_cur (n : Nat) (p : Phaser) : (s.setPhaser n p).cur = s.cur := rfl
@[simp] theorem State.setPhaser_curWord (n : Nat) (p : Phaser) : (s.setPhaser n p).curWord = s.curWord := rfl
@[simp] theorem State.setPhaser_agenda (n : Nat) (p : Phaser) : (s.setPhaser n p).agenda = s.agenda := rfl
@[simp] theorem State.setPhaser_turns (n : Nat) (p : Phaser) : (s.setPhaser n p).turns = s.turns := rfl
@[simp] theorem State.setPhaser_fresh (n : Nat) (p : Phaser) : (s.setPhaser n p).fresh = s.fresh := rfl
@[simp] theorem State.setPhaser_uid (n : Nat) (p : Phaser) : (s.setPhaser n p).uid = s.uid := rfl
@[simp] theorem State.setPhaser_noWalks (n : Nat) (p : Phaser) : (s.setPhaser n p).noWalks = s.noWalks := rfl
@[simp] theorem State.setPhaser_mem (n : Nat) (p : Phaser) : (s.setPhaser n p).mem = s.mem := rfl
@[simp] theorem State.setPhaser_hostMem (n : Nat) (p : Phaser) : (s.setPhaser n p).hostMem = s.hostMem := rfl
@[simp] theorem State.setPhaser_cluster (n : Nat) (p : Phaser) : (s.setPhaser n p).cluster = s.cluster := rfl
@[simp] theorem State.setPhaser_stripes (n : Nat) (p : Phaser) : (s.setPhaser n p).stripes = s.stripes := rfl
@[simp] theorem State.setPhaser_poison (n : Nat) (p : Phaser) : (s.setPhaser n p).poison = s.poison := rfl
@[simp] theorem State.setPhaser_l1 (n : Nat) (p : Phaser) : (s.setPhaser n p).l1 = s.l1 := rfl
@[simp] theorem State.setPhaser_coreTlb (n : Nat) (p : Phaser) : (s.setPhaser n p).coreTlb = s.coreTlb := rfl
@[simp] theorem State.setPhaser_dieTlb (n : Nat) (p : Phaser) : (s.setPhaser n p).dieTlb = s.dieTlb := rfl
@[simp] theorem State.setPhaser_tasks (n : Nat) (p : Phaser) : (s.setPhaser n p).tasks = s.tasks := rfl
@[simp] theorem State.setPhaser_nextTask (n : Nat) (p : Phaser) : (s.setPhaser n p).nextTask = s.nextTask := rfl
@[simp] theorem State.setPhaser_images (n : Nat) (p : Phaser) : (s.setPhaser n p).images = s.images := rfl
@[simp] theorem State.setPhaser_cores (n : Nat) (p : Phaser) : (s.setPhaser n p).cores = s.cores := rfl
@[simp] theorem State.setPhaser_lotq (n : Nat) (p : Phaser) : (s.setPhaser n p).lotq = s.lotq := rfl
@[simp] theorem State.setPhaser_dies (n : Nat) (p : Phaser) : (s.setPhaser n p).dies = s.dies := rfl
@[simp] theorem State.setPhaser_recs (n : Nat) (p : Phaser) : (s.setPhaser n p).recs = s.recs := rfl
@[simp] theorem State.setPhaser_counters (n : Nat) (p : Phaser) : (s.setPhaser n p).counters = s.counters := rfl
@[simp] theorem State.setPhaser_readyCtr (n : Nat) (p : Phaser) : (s.setPhaser n p).readyCtr = s.readyCtr := rfl
@[simp] theorem State.setPhaser_cpq (n : Nat) (p : Phaser) : (s.setPhaser n p).cpq = s.cpq := rfl
@[simp] theorem State.setPhaser_retirements (n : Nat) (p : Phaser) : (s.setPhaser n p).retirements = s.retirements := rfl
@[simp] theorem State.setPhaser_ctxs (n : Nat) (p : Phaser) : (s.setPhaser n p).ctxs = s.ctxs := rfl
@[simp] theorem State.setPhaser_queues (n : Nat) (p : Phaser) : (s.setPhaser n p).queues = s.queues := rfl
@[simp] theorem State.setPhaser_barriers (n : Nat) (p : Phaser) : (s.setPhaser n p).barriers = s.barriers := rfl
@[simp] theorem State.setPhaser_auctions (n : Nat) (p : Phaser) : (s.setPhaser n p).auctions = s.auctions := rfl
@[simp] theorem State.setPhaser_lanes (n : Nat) (p : Phaser) : (s.setPhaser n p).lanes = s.lanes := rfl
@[simp] theorem State.setPhaser_heartbeatDue (n : Nat) (p : Phaser) : (s.setPhaser n p).heartbeatDue = s.heartbeatDue := rfl
@[simp] theorem State.setPhaser_epoch (n : Nat) (p : Phaser) : (s.setPhaser n p).epoch = s.epoch := rfl
@[simp] theorem State.setPhaser_psrs (n : Nat) (p : Phaser) : (s.setPhaser n p).psrs = s.psrs := rfl
@[simp] theorem State.setPhaser_evidence (n : Nat) (p : Phaser) : (s.setPhaser n p).evidence = s.evidence := rfl
@[simp] theorem State.setPhaser_roleHist (n : Nat) (p : Phaser) : (s.setPhaser n p).roleHist = s.roleHist := rfl
@[simp] theorem State.setPhaser_classes (n : Nat) (p : Phaser) : (s.setPhaser n p).classes = s.classes := rfl
@[simp] theorem State.setPhaser_evaluation (n : Nat) (p : Phaser) : (s.setPhaser n p).evaluation = s.evaluation := rfl
@[simp] theorem State.setPhaser_elections (n : Nat) (p : Phaser) : (s.setPhaser n p).elections = s.elections := rfl
@[simp] theorem State.setPhaser_xfers (n : Nat) (p : Phaser) : (s.setPhaser n p).xfers = s.xfers := rfl
@[simp] theorem State.setPhaser_nextXfer (n : Nat) (p : Phaser) : (s.setPhaser n p).nextXfer = s.nextXfer := rfl
@[simp] theorem State.setPhaser_parts (n : Nat) (p : Phaser) : (s.setPhaser n p).parts = s.parts := rfl
@[simp] theorem State.setPhaser_egress (n : Nat) (p : Phaser) : (s.setPhaser n p).egress = s.egress := rfl
@[simp] theorem State.setPhaser_delivered (n : Nat) (p : Phaser) : (s.setPhaser n p).delivered = s.delivered := rfl
@[simp] theorem State.setPhaser_domain (n : Nat) (p : Phaser) : (s.setPhaser n p).domain = s.domain := rfl
@[simp] theorem State.setPhaser_pkgIndex (n : Nat) (p : Phaser) : (s.setPhaser n p).pkgIndex = s.pkgIndex := rfl
@[simp] theorem State.setPhaser_switches (n : Nat) (p : Phaser) : (s.setPhaser n p).switches = s.switches := rfl
@[simp] theorem State.setPhaser_jobPkgs (n : Nat) (p : Phaser) : (s.setPhaser n p).jobPkgs = s.jobPkgs := rfl
@[simp] theorem State.setPhaser_ports (n : Nat) (p : Phaser) : (s.setPhaser n p).ports = s.ports := rfl
@[simp] theorem State.setPhaser_dropped (n : Nat) (p : Phaser) : (s.setPhaser n p).dropped = s.dropped := rfl
@[simp] theorem State.setPhaser_flows (n : Nat) (p : Phaser) : (s.setPhaser n p).flows = s.flows := rfl
@[simp] theorem State.setPhaser_classifier (n : Nat) (p : Phaser) : (s.setPhaser n p).classifier = s.classifier := rfl
@[simp] theorem State.setPhaser_pitches (n : Nat) (p : Phaser) : (s.setPhaser n p).pitches = s.pitches := rfl
@[simp] theorem State.setPhaser_rings (n : Nat) (p : Phaser) : (s.setPhaser n p).rings = s.rings := rfl
@[simp] theorem State.setPhaser_boot (n : Nat) (p : Phaser) : (s.setPhaser n p).boot = s.boot := rfl
@[simp] theorem State.setPhaser_bootFail (n : Nat) (p : Phaser) : (s.setPhaser n p).bootFail = s.bootFail := rfl
@[simp] theorem State.setPhaser_bootDies (n : Nat) (p : Phaser) : (s.setPhaser n p).bootDies = s.bootDies := rfl
@[simp] theorem State.setPhaser_therm (n : Nat) (p : Phaser) : (s.setPhaser n p).therm = s.therm := rfl
@[simp] theorem State.setPhaser_coolantLost (n : Nat) (p : Phaser) : (s.setPhaser n p).coolantLost = s.coolantLost := rfl
@[simp] theorem State.setPhaser_poweredDown (n : Nat) (p : Phaser) : (s.setPhaser n p).poweredDown = s.poweredDown := rfl
@[simp] theorem State.setPhaser_corrected (n : Nat) (p : Phaser) : (s.setPhaser n p).corrected = s.corrected := rfl
@[simp] theorem State.setPhaser_measure3 (n : Nat) (p : Phaser) : (s.setPhaser n p).measure3 = s.measure3 := rfl
@[simp] theorem State.setPhaser_measure4 (n : Nat) (p : Phaser) : (s.setPhaser n p).measure4 = s.measure4 := rfl
@[simp] theorem State.setPhaser_config (n : Nat) (p : Phaser) : (s.setPhaser n p).config = s.config := rfl
@[simp] theorem State.setPhaser_sensorRead (n : Nat) (p : Phaser) : (s.setPhaser n p).sensorRead = s.sensorRead := rfl

/-! ### `State.setBarrier` -/

@[simp] theorem State.setBarrier_cur (n : Nat) (b : Superstep) : (s.setBarrier n b).cur = s.cur := rfl
@[simp] theorem State.setBarrier_curWord (n : Nat) (b : Superstep) : (s.setBarrier n b).curWord = s.curWord := rfl
@[simp] theorem State.setBarrier_agenda (n : Nat) (b : Superstep) : (s.setBarrier n b).agenda = s.agenda := rfl
@[simp] theorem State.setBarrier_turns (n : Nat) (b : Superstep) : (s.setBarrier n b).turns = s.turns := rfl
@[simp] theorem State.setBarrier_fresh (n : Nat) (b : Superstep) : (s.setBarrier n b).fresh = s.fresh := rfl
@[simp] theorem State.setBarrier_uid (n : Nat) (b : Superstep) : (s.setBarrier n b).uid = s.uid := rfl
@[simp] theorem State.setBarrier_noWalks (n : Nat) (b : Superstep) : (s.setBarrier n b).noWalks = s.noWalks := rfl
@[simp] theorem State.setBarrier_mem (n : Nat) (b : Superstep) : (s.setBarrier n b).mem = s.mem := rfl
@[simp] theorem State.setBarrier_hostMem (n : Nat) (b : Superstep) : (s.setBarrier n b).hostMem = s.hostMem := rfl
@[simp] theorem State.setBarrier_cluster (n : Nat) (b : Superstep) : (s.setBarrier n b).cluster = s.cluster := rfl
@[simp] theorem State.setBarrier_stripes (n : Nat) (b : Superstep) : (s.setBarrier n b).stripes = s.stripes := rfl
@[simp] theorem State.setBarrier_poison (n : Nat) (b : Superstep) : (s.setBarrier n b).poison = s.poison := rfl
@[simp] theorem State.setBarrier_l1 (n : Nat) (b : Superstep) : (s.setBarrier n b).l1 = s.l1 := rfl
@[simp] theorem State.setBarrier_coreTlb (n : Nat) (b : Superstep) : (s.setBarrier n b).coreTlb = s.coreTlb := rfl
@[simp] theorem State.setBarrier_dieTlb (n : Nat) (b : Superstep) : (s.setBarrier n b).dieTlb = s.dieTlb := rfl
@[simp] theorem State.setBarrier_tasks (n : Nat) (b : Superstep) : (s.setBarrier n b).tasks = s.tasks := rfl
@[simp] theorem State.setBarrier_nextTask (n : Nat) (b : Superstep) : (s.setBarrier n b).nextTask = s.nextTask := rfl
@[simp] theorem State.setBarrier_images (n : Nat) (b : Superstep) : (s.setBarrier n b).images = s.images := rfl
@[simp] theorem State.setBarrier_cores (n : Nat) (b : Superstep) : (s.setBarrier n b).cores = s.cores := rfl
@[simp] theorem State.setBarrier_lotq (n : Nat) (b : Superstep) : (s.setBarrier n b).lotq = s.lotq := rfl
@[simp] theorem State.setBarrier_dies (n : Nat) (b : Superstep) : (s.setBarrier n b).dies = s.dies := rfl
@[simp] theorem State.setBarrier_recs (n : Nat) (b : Superstep) : (s.setBarrier n b).recs = s.recs := rfl
@[simp] theorem State.setBarrier_counters (n : Nat) (b : Superstep) : (s.setBarrier n b).counters = s.counters := rfl
@[simp] theorem State.setBarrier_readyCtr (n : Nat) (b : Superstep) : (s.setBarrier n b).readyCtr = s.readyCtr := rfl
@[simp] theorem State.setBarrier_cpq (n : Nat) (b : Superstep) : (s.setBarrier n b).cpq = s.cpq := rfl
@[simp] theorem State.setBarrier_retirements (n : Nat) (b : Superstep) : (s.setBarrier n b).retirements = s.retirements := rfl
@[simp] theorem State.setBarrier_ctxs (n : Nat) (b : Superstep) : (s.setBarrier n b).ctxs = s.ctxs := rfl
@[simp] theorem State.setBarrier_queues (n : Nat) (b : Superstep) : (s.setBarrier n b).queues = s.queues := rfl
@[simp] theorem State.setBarrier_phasers (n : Nat) (b : Superstep) : (s.setBarrier n b).phasers = s.phasers := rfl
@[simp] theorem State.setBarrier_auctions (n : Nat) (b : Superstep) : (s.setBarrier n b).auctions = s.auctions := rfl
@[simp] theorem State.setBarrier_lanes (n : Nat) (b : Superstep) : (s.setBarrier n b).lanes = s.lanes := rfl
@[simp] theorem State.setBarrier_heartbeatDue (n : Nat) (b : Superstep) : (s.setBarrier n b).heartbeatDue = s.heartbeatDue := rfl
@[simp] theorem State.setBarrier_epoch (n : Nat) (b : Superstep) : (s.setBarrier n b).epoch = s.epoch := rfl
@[simp] theorem State.setBarrier_psrs (n : Nat) (b : Superstep) : (s.setBarrier n b).psrs = s.psrs := rfl
@[simp] theorem State.setBarrier_evidence (n : Nat) (b : Superstep) : (s.setBarrier n b).evidence = s.evidence := rfl
@[simp] theorem State.setBarrier_roleHist (n : Nat) (b : Superstep) : (s.setBarrier n b).roleHist = s.roleHist := rfl
@[simp] theorem State.setBarrier_classes (n : Nat) (b : Superstep) : (s.setBarrier n b).classes = s.classes := rfl
@[simp] theorem State.setBarrier_evaluation (n : Nat) (b : Superstep) : (s.setBarrier n b).evaluation = s.evaluation := rfl
@[simp] theorem State.setBarrier_elections (n : Nat) (b : Superstep) : (s.setBarrier n b).elections = s.elections := rfl
@[simp] theorem State.setBarrier_xfers (n : Nat) (b : Superstep) : (s.setBarrier n b).xfers = s.xfers := rfl
@[simp] theorem State.setBarrier_nextXfer (n : Nat) (b : Superstep) : (s.setBarrier n b).nextXfer = s.nextXfer := rfl
@[simp] theorem State.setBarrier_parts (n : Nat) (b : Superstep) : (s.setBarrier n b).parts = s.parts := rfl
@[simp] theorem State.setBarrier_egress (n : Nat) (b : Superstep) : (s.setBarrier n b).egress = s.egress := rfl
@[simp] theorem State.setBarrier_delivered (n : Nat) (b : Superstep) : (s.setBarrier n b).delivered = s.delivered := rfl
@[simp] theorem State.setBarrier_domain (n : Nat) (b : Superstep) : (s.setBarrier n b).domain = s.domain := rfl
@[simp] theorem State.setBarrier_pkgIndex (n : Nat) (b : Superstep) : (s.setBarrier n b).pkgIndex = s.pkgIndex := rfl
@[simp] theorem State.setBarrier_switches (n : Nat) (b : Superstep) : (s.setBarrier n b).switches = s.switches := rfl
@[simp] theorem State.setBarrier_jobPkgs (n : Nat) (b : Superstep) : (s.setBarrier n b).jobPkgs = s.jobPkgs := rfl
@[simp] theorem State.setBarrier_ports (n : Nat) (b : Superstep) : (s.setBarrier n b).ports = s.ports := rfl
@[simp] theorem State.setBarrier_dropped (n : Nat) (b : Superstep) : (s.setBarrier n b).dropped = s.dropped := rfl
@[simp] theorem State.setBarrier_flows (n : Nat) (b : Superstep) : (s.setBarrier n b).flows = s.flows := rfl
@[simp] theorem State.setBarrier_classifier (n : Nat) (b : Superstep) : (s.setBarrier n b).classifier = s.classifier := rfl
@[simp] theorem State.setBarrier_pitches (n : Nat) (b : Superstep) : (s.setBarrier n b).pitches = s.pitches := rfl
@[simp] theorem State.setBarrier_rings (n : Nat) (b : Superstep) : (s.setBarrier n b).rings = s.rings := rfl
@[simp] theorem State.setBarrier_boot (n : Nat) (b : Superstep) : (s.setBarrier n b).boot = s.boot := rfl
@[simp] theorem State.setBarrier_bootFail (n : Nat) (b : Superstep) : (s.setBarrier n b).bootFail = s.bootFail := rfl
@[simp] theorem State.setBarrier_bootDies (n : Nat) (b : Superstep) : (s.setBarrier n b).bootDies = s.bootDies := rfl
@[simp] theorem State.setBarrier_therm (n : Nat) (b : Superstep) : (s.setBarrier n b).therm = s.therm := rfl
@[simp] theorem State.setBarrier_coolantLost (n : Nat) (b : Superstep) : (s.setBarrier n b).coolantLost = s.coolantLost := rfl
@[simp] theorem State.setBarrier_poweredDown (n : Nat) (b : Superstep) : (s.setBarrier n b).poweredDown = s.poweredDown := rfl
@[simp] theorem State.setBarrier_corrected (n : Nat) (b : Superstep) : (s.setBarrier n b).corrected = s.corrected := rfl
@[simp] theorem State.setBarrier_measure3 (n : Nat) (b : Superstep) : (s.setBarrier n b).measure3 = s.measure3 := rfl
@[simp] theorem State.setBarrier_measure4 (n : Nat) (b : Superstep) : (s.setBarrier n b).measure4 = s.measure4 := rfl
@[simp] theorem State.setBarrier_config (n : Nat) (b : Superstep) : (s.setBarrier n b).config = s.config := rfl
@[simp] theorem State.setBarrier_sensorRead (n : Nat) (b : Superstep) : (s.setBarrier n b).sensorRead = s.sensorRead := rfl

/-! ### `State.setLotQueue` -/

@[simp] theorem State.setLotQueue_cur (n m : Nat) (l : List LotReq) : (s.setLotQueue n m l).cur = s.cur := rfl
@[simp] theorem State.setLotQueue_curWord (n m : Nat) (l : List LotReq) : (s.setLotQueue n m l).curWord = s.curWord := rfl
@[simp] theorem State.setLotQueue_agenda (n m : Nat) (l : List LotReq) : (s.setLotQueue n m l).agenda = s.agenda := rfl
@[simp] theorem State.setLotQueue_turns (n m : Nat) (l : List LotReq) : (s.setLotQueue n m l).turns = s.turns := rfl
@[simp] theorem State.setLotQueue_fresh (n m : Nat) (l : List LotReq) : (s.setLotQueue n m l).fresh = s.fresh := rfl
@[simp] theorem State.setLotQueue_uid (n m : Nat) (l : List LotReq) : (s.setLotQueue n m l).uid = s.uid := rfl
@[simp] theorem State.setLotQueue_noWalks (n m : Nat) (l : List LotReq) : (s.setLotQueue n m l).noWalks = s.noWalks := rfl
@[simp] theorem State.setLotQueue_mem (n m : Nat) (l : List LotReq) : (s.setLotQueue n m l).mem = s.mem := rfl
@[simp] theorem State.setLotQueue_hostMem (n m : Nat) (l : List LotReq) : (s.setLotQueue n m l).hostMem = s.hostMem := rfl
@[simp] theorem State.setLotQueue_cluster (n m : Nat) (l : List LotReq) : (s.setLotQueue n m l).cluster = s.cluster := rfl
@[simp] theorem State.setLotQueue_stripes (n m : Nat) (l : List LotReq) : (s.setLotQueue n m l).stripes = s.stripes := rfl
@[simp] theorem State.setLotQueue_poison (n m : Nat) (l : List LotReq) : (s.setLotQueue n m l).poison = s.poison := rfl
@[simp] theorem State.setLotQueue_l1 (n m : Nat) (l : List LotReq) : (s.setLotQueue n m l).l1 = s.l1 := rfl
@[simp] theorem State.setLotQueue_coreTlb (n m : Nat) (l : List LotReq) : (s.setLotQueue n m l).coreTlb = s.coreTlb := rfl
@[simp] theorem State.setLotQueue_dieTlb (n m : Nat) (l : List LotReq) : (s.setLotQueue n m l).dieTlb = s.dieTlb := rfl
@[simp] theorem State.setLotQueue_tasks (n m : Nat) (l : List LotReq) : (s.setLotQueue n m l).tasks = s.tasks := rfl
@[simp] theorem State.setLotQueue_nextTask (n m : Nat) (l : List LotReq) : (s.setLotQueue n m l).nextTask = s.nextTask := rfl
@[simp] theorem State.setLotQueue_images (n m : Nat) (l : List LotReq) : (s.setLotQueue n m l).images = s.images := rfl
@[simp] theorem State.setLotQueue_cores (n m : Nat) (l : List LotReq) : (s.setLotQueue n m l).cores = s.cores := rfl
@[simp] theorem State.setLotQueue_dies (n m : Nat) (l : List LotReq) : (s.setLotQueue n m l).dies = s.dies := rfl
@[simp] theorem State.setLotQueue_recs (n m : Nat) (l : List LotReq) : (s.setLotQueue n m l).recs = s.recs := rfl
@[simp] theorem State.setLotQueue_counters (n m : Nat) (l : List LotReq) : (s.setLotQueue n m l).counters = s.counters := rfl
@[simp] theorem State.setLotQueue_readyCtr (n m : Nat) (l : List LotReq) : (s.setLotQueue n m l).readyCtr = s.readyCtr := rfl
@[simp] theorem State.setLotQueue_cpq (n m : Nat) (l : List LotReq) : (s.setLotQueue n m l).cpq = s.cpq := rfl
@[simp] theorem State.setLotQueue_retirements (n m : Nat) (l : List LotReq) : (s.setLotQueue n m l).retirements = s.retirements := rfl
@[simp] theorem State.setLotQueue_ctxs (n m : Nat) (l : List LotReq) : (s.setLotQueue n m l).ctxs = s.ctxs := rfl
@[simp] theorem State.setLotQueue_queues (n m : Nat) (l : List LotReq) : (s.setLotQueue n m l).queues = s.queues := rfl
@[simp] theorem State.setLotQueue_phasers (n m : Nat) (l : List LotReq) : (s.setLotQueue n m l).phasers = s.phasers := rfl
@[simp] theorem State.setLotQueue_barriers (n m : Nat) (l : List LotReq) : (s.setLotQueue n m l).barriers = s.barriers := rfl
@[simp] theorem State.setLotQueue_auctions (n m : Nat) (l : List LotReq) : (s.setLotQueue n m l).auctions = s.auctions := rfl
@[simp] theorem State.setLotQueue_lanes (n m : Nat) (l : List LotReq) : (s.setLotQueue n m l).lanes = s.lanes := rfl
@[simp] theorem State.setLotQueue_heartbeatDue (n m : Nat) (l : List LotReq) : (s.setLotQueue n m l).heartbeatDue = s.heartbeatDue := rfl
@[simp] theorem State.setLotQueue_epoch (n m : Nat) (l : List LotReq) : (s.setLotQueue n m l).epoch = s.epoch := rfl
@[simp] theorem State.setLotQueue_psrs (n m : Nat) (l : List LotReq) : (s.setLotQueue n m l).psrs = s.psrs := rfl
@[simp] theorem State.setLotQueue_evidence (n m : Nat) (l : List LotReq) : (s.setLotQueue n m l).evidence = s.evidence := rfl
@[simp] theorem State.setLotQueue_roleHist (n m : Nat) (l : List LotReq) : (s.setLotQueue n m l).roleHist = s.roleHist := rfl
@[simp] theorem State.setLotQueue_classes (n m : Nat) (l : List LotReq) : (s.setLotQueue n m l).classes = s.classes := rfl
@[simp] theorem State.setLotQueue_evaluation (n m : Nat) (l : List LotReq) : (s.setLotQueue n m l).evaluation = s.evaluation := rfl
@[simp] theorem State.setLotQueue_elections (n m : Nat) (l : List LotReq) : (s.setLotQueue n m l).elections = s.elections := rfl
@[simp] theorem State.setLotQueue_xfers (n m : Nat) (l : List LotReq) : (s.setLotQueue n m l).xfers = s.xfers := rfl
@[simp] theorem State.setLotQueue_nextXfer (n m : Nat) (l : List LotReq) : (s.setLotQueue n m l).nextXfer = s.nextXfer := rfl
@[simp] theorem State.setLotQueue_parts (n m : Nat) (l : List LotReq) : (s.setLotQueue n m l).parts = s.parts := rfl
@[simp] theorem State.setLotQueue_egress (n m : Nat) (l : List LotReq) : (s.setLotQueue n m l).egress = s.egress := rfl
@[simp] theorem State.setLotQueue_delivered (n m : Nat) (l : List LotReq) : (s.setLotQueue n m l).delivered = s.delivered := rfl
@[simp] theorem State.setLotQueue_domain (n m : Nat) (l : List LotReq) : (s.setLotQueue n m l).domain = s.domain := rfl
@[simp] theorem State.setLotQueue_pkgIndex (n m : Nat) (l : List LotReq) : (s.setLotQueue n m l).pkgIndex = s.pkgIndex := rfl
@[simp] theorem State.setLotQueue_switches (n m : Nat) (l : List LotReq) : (s.setLotQueue n m l).switches = s.switches := rfl
@[simp] theorem State.setLotQueue_jobPkgs (n m : Nat) (l : List LotReq) : (s.setLotQueue n m l).jobPkgs = s.jobPkgs := rfl
@[simp] theorem State.setLotQueue_ports (n m : Nat) (l : List LotReq) : (s.setLotQueue n m l).ports = s.ports := rfl
@[simp] theorem State.setLotQueue_dropped (n m : Nat) (l : List LotReq) : (s.setLotQueue n m l).dropped = s.dropped := rfl
@[simp] theorem State.setLotQueue_flows (n m : Nat) (l : List LotReq) : (s.setLotQueue n m l).flows = s.flows := rfl
@[simp] theorem State.setLotQueue_classifier (n m : Nat) (l : List LotReq) : (s.setLotQueue n m l).classifier = s.classifier := rfl
@[simp] theorem State.setLotQueue_pitches (n m : Nat) (l : List LotReq) : (s.setLotQueue n m l).pitches = s.pitches := rfl
@[simp] theorem State.setLotQueue_rings (n m : Nat) (l : List LotReq) : (s.setLotQueue n m l).rings = s.rings := rfl
@[simp] theorem State.setLotQueue_boot (n m : Nat) (l : List LotReq) : (s.setLotQueue n m l).boot = s.boot := rfl
@[simp] theorem State.setLotQueue_bootFail (n m : Nat) (l : List LotReq) : (s.setLotQueue n m l).bootFail = s.bootFail := rfl
@[simp] theorem State.setLotQueue_bootDies (n m : Nat) (l : List LotReq) : (s.setLotQueue n m l).bootDies = s.bootDies := rfl
@[simp] theorem State.setLotQueue_therm (n m : Nat) (l : List LotReq) : (s.setLotQueue n m l).therm = s.therm := rfl
@[simp] theorem State.setLotQueue_coolantLost (n m : Nat) (l : List LotReq) : (s.setLotQueue n m l).coolantLost = s.coolantLost := rfl
@[simp] theorem State.setLotQueue_poweredDown (n m : Nat) (l : List LotReq) : (s.setLotQueue n m l).poweredDown = s.poweredDown := rfl
@[simp] theorem State.setLotQueue_corrected (n m : Nat) (l : List LotReq) : (s.setLotQueue n m l).corrected = s.corrected := rfl
@[simp] theorem State.setLotQueue_measure3 (n m : Nat) (l : List LotReq) : (s.setLotQueue n m l).measure3 = s.measure3 := rfl
@[simp] theorem State.setLotQueue_measure4 (n m : Nat) (l : List LotReq) : (s.setLotQueue n m l).measure4 = s.measure4 := rfl
@[simp] theorem State.setLotQueue_config (n m : Nat) (l : List LotReq) : (s.setLotQueue n m l).config = s.config := rfl
@[simp] theorem State.setLotQueue_sensorRead (n m : Nat) (l : List LotReq) : (s.setLotQueue n m l).sensorRead = s.sensorRead := rfl

/-! ### `State.setCore` -/

@[simp] theorem State.setCore_cur (n m : Nat) (c : CoreState) : (s.setCore n m c).cur = s.cur := rfl
@[simp] theorem State.setCore_curWord (n m : Nat) (c : CoreState) : (s.setCore n m c).curWord = s.curWord := rfl
@[simp] theorem State.setCore_agenda (n m : Nat) (c : CoreState) : (s.setCore n m c).agenda = s.agenda := rfl
@[simp] theorem State.setCore_turns (n m : Nat) (c : CoreState) : (s.setCore n m c).turns = s.turns := rfl
@[simp] theorem State.setCore_fresh (n m : Nat) (c : CoreState) : (s.setCore n m c).fresh = s.fresh := rfl
@[simp] theorem State.setCore_uid (n m : Nat) (c : CoreState) : (s.setCore n m c).uid = s.uid := rfl
@[simp] theorem State.setCore_noWalks (n m : Nat) (c : CoreState) : (s.setCore n m c).noWalks = s.noWalks := rfl
@[simp] theorem State.setCore_mem (n m : Nat) (c : CoreState) : (s.setCore n m c).mem = s.mem := rfl
@[simp] theorem State.setCore_hostMem (n m : Nat) (c : CoreState) : (s.setCore n m c).hostMem = s.hostMem := rfl
@[simp] theorem State.setCore_cluster (n m : Nat) (c : CoreState) : (s.setCore n m c).cluster = s.cluster := rfl
@[simp] theorem State.setCore_stripes (n m : Nat) (c : CoreState) : (s.setCore n m c).stripes = s.stripes := rfl
@[simp] theorem State.setCore_poison (n m : Nat) (c : CoreState) : (s.setCore n m c).poison = s.poison := rfl
@[simp] theorem State.setCore_l1 (n m : Nat) (c : CoreState) : (s.setCore n m c).l1 = s.l1 := rfl
@[simp] theorem State.setCore_coreTlb (n m : Nat) (c : CoreState) : (s.setCore n m c).coreTlb = s.coreTlb := rfl
@[simp] theorem State.setCore_dieTlb (n m : Nat) (c : CoreState) : (s.setCore n m c).dieTlb = s.dieTlb := rfl
@[simp] theorem State.setCore_tasks (n m : Nat) (c : CoreState) : (s.setCore n m c).tasks = s.tasks := rfl
@[simp] theorem State.setCore_nextTask (n m : Nat) (c : CoreState) : (s.setCore n m c).nextTask = s.nextTask := rfl
@[simp] theorem State.setCore_images (n m : Nat) (c : CoreState) : (s.setCore n m c).images = s.images := rfl
@[simp] theorem State.setCore_lotq (n m : Nat) (c : CoreState) : (s.setCore n m c).lotq = s.lotq := rfl
@[simp] theorem State.setCore_dies (n m : Nat) (c : CoreState) : (s.setCore n m c).dies = s.dies := rfl
@[simp] theorem State.setCore_recs (n m : Nat) (c : CoreState) : (s.setCore n m c).recs = s.recs := rfl
@[simp] theorem State.setCore_counters (n m : Nat) (c : CoreState) : (s.setCore n m c).counters = s.counters := rfl
@[simp] theorem State.setCore_readyCtr (n m : Nat) (c : CoreState) : (s.setCore n m c).readyCtr = s.readyCtr := rfl
@[simp] theorem State.setCore_cpq (n m : Nat) (c : CoreState) : (s.setCore n m c).cpq = s.cpq := rfl
@[simp] theorem State.setCore_retirements (n m : Nat) (c : CoreState) : (s.setCore n m c).retirements = s.retirements := rfl
@[simp] theorem State.setCore_ctxs (n m : Nat) (c : CoreState) : (s.setCore n m c).ctxs = s.ctxs := rfl
@[simp] theorem State.setCore_queues (n m : Nat) (c : CoreState) : (s.setCore n m c).queues = s.queues := rfl
@[simp] theorem State.setCore_phasers (n m : Nat) (c : CoreState) : (s.setCore n m c).phasers = s.phasers := rfl
@[simp] theorem State.setCore_barriers (n m : Nat) (c : CoreState) : (s.setCore n m c).barriers = s.barriers := rfl
@[simp] theorem State.setCore_auctions (n m : Nat) (c : CoreState) : (s.setCore n m c).auctions = s.auctions := rfl
@[simp] theorem State.setCore_lanes (n m : Nat) (c : CoreState) : (s.setCore n m c).lanes = s.lanes := rfl
@[simp] theorem State.setCore_heartbeatDue (n m : Nat) (c : CoreState) : (s.setCore n m c).heartbeatDue = s.heartbeatDue := rfl
@[simp] theorem State.setCore_epoch (n m : Nat) (c : CoreState) : (s.setCore n m c).epoch = s.epoch := rfl
@[simp] theorem State.setCore_psrs (n m : Nat) (c : CoreState) : (s.setCore n m c).psrs = s.psrs := rfl
@[simp] theorem State.setCore_evidence (n m : Nat) (c : CoreState) : (s.setCore n m c).evidence = s.evidence := rfl
@[simp] theorem State.setCore_roleHist (n m : Nat) (c : CoreState) : (s.setCore n m c).roleHist = s.roleHist := rfl
@[simp] theorem State.setCore_classes (n m : Nat) (c : CoreState) : (s.setCore n m c).classes = s.classes := rfl
@[simp] theorem State.setCore_evaluation (n m : Nat) (c : CoreState) : (s.setCore n m c).evaluation = s.evaluation := rfl
@[simp] theorem State.setCore_elections (n m : Nat) (c : CoreState) : (s.setCore n m c).elections = s.elections := rfl
@[simp] theorem State.setCore_xfers (n m : Nat) (c : CoreState) : (s.setCore n m c).xfers = s.xfers := rfl
@[simp] theorem State.setCore_nextXfer (n m : Nat) (c : CoreState) : (s.setCore n m c).nextXfer = s.nextXfer := rfl
@[simp] theorem State.setCore_parts (n m : Nat) (c : CoreState) : (s.setCore n m c).parts = s.parts := rfl
@[simp] theorem State.setCore_egress (n m : Nat) (c : CoreState) : (s.setCore n m c).egress = s.egress := rfl
@[simp] theorem State.setCore_delivered (n m : Nat) (c : CoreState) : (s.setCore n m c).delivered = s.delivered := rfl
@[simp] theorem State.setCore_domain (n m : Nat) (c : CoreState) : (s.setCore n m c).domain = s.domain := rfl
@[simp] theorem State.setCore_pkgIndex (n m : Nat) (c : CoreState) : (s.setCore n m c).pkgIndex = s.pkgIndex := rfl
@[simp] theorem State.setCore_switches (n m : Nat) (c : CoreState) : (s.setCore n m c).switches = s.switches := rfl
@[simp] theorem State.setCore_jobPkgs (n m : Nat) (c : CoreState) : (s.setCore n m c).jobPkgs = s.jobPkgs := rfl
@[simp] theorem State.setCore_ports (n m : Nat) (c : CoreState) : (s.setCore n m c).ports = s.ports := rfl
@[simp] theorem State.setCore_dropped (n m : Nat) (c : CoreState) : (s.setCore n m c).dropped = s.dropped := rfl
@[simp] theorem State.setCore_flows (n m : Nat) (c : CoreState) : (s.setCore n m c).flows = s.flows := rfl
@[simp] theorem State.setCore_classifier (n m : Nat) (c : CoreState) : (s.setCore n m c).classifier = s.classifier := rfl
@[simp] theorem State.setCore_pitches (n m : Nat) (c : CoreState) : (s.setCore n m c).pitches = s.pitches := rfl
@[simp] theorem State.setCore_rings (n m : Nat) (c : CoreState) : (s.setCore n m c).rings = s.rings := rfl
@[simp] theorem State.setCore_boot (n m : Nat) (c : CoreState) : (s.setCore n m c).boot = s.boot := rfl
@[simp] theorem State.setCore_bootFail (n m : Nat) (c : CoreState) : (s.setCore n m c).bootFail = s.bootFail := rfl
@[simp] theorem State.setCore_bootDies (n m : Nat) (c : CoreState) : (s.setCore n m c).bootDies = s.bootDies := rfl
@[simp] theorem State.setCore_therm (n m : Nat) (c : CoreState) : (s.setCore n m c).therm = s.therm := rfl
@[simp] theorem State.setCore_coolantLost (n m : Nat) (c : CoreState) : (s.setCore n m c).coolantLost = s.coolantLost := rfl
@[simp] theorem State.setCore_poweredDown (n m : Nat) (c : CoreState) : (s.setCore n m c).poweredDown = s.poweredDown := rfl
@[simp] theorem State.setCore_corrected (n m : Nat) (c : CoreState) : (s.setCore n m c).corrected = s.corrected := rfl
@[simp] theorem State.setCore_measure3 (n m : Nat) (c : CoreState) : (s.setCore n m c).measure3 = s.measure3 := rfl
@[simp] theorem State.setCore_measure4 (n m : Nat) (c : CoreState) : (s.setCore n m c).measure4 = s.measure4 := rfl
@[simp] theorem State.setCore_config (n m : Nat) (c : CoreState) : (s.setCore n m c).config = s.config := rfl
@[simp] theorem State.setCore_sensorRead (n m : Nat) (c : CoreState) : (s.setCore n m c).sensorRead = s.sensorRead := rfl

/-! ### `State.setFlow` -/

@[simp] theorem State.setFlow_cur (n m : Nat) (x : Flow) : (s.setFlow n m x).cur = s.cur := rfl
@[simp] theorem State.setFlow_curWord (n m : Nat) (x : Flow) : (s.setFlow n m x).curWord = s.curWord := rfl
@[simp] theorem State.setFlow_agenda (n m : Nat) (x : Flow) : (s.setFlow n m x).agenda = s.agenda := rfl
@[simp] theorem State.setFlow_turns (n m : Nat) (x : Flow) : (s.setFlow n m x).turns = s.turns := rfl
@[simp] theorem State.setFlow_fresh (n m : Nat) (x : Flow) : (s.setFlow n m x).fresh = s.fresh := rfl
@[simp] theorem State.setFlow_uid (n m : Nat) (x : Flow) : (s.setFlow n m x).uid = s.uid := rfl
@[simp] theorem State.setFlow_noWalks (n m : Nat) (x : Flow) : (s.setFlow n m x).noWalks = s.noWalks := rfl
@[simp] theorem State.setFlow_mem (n m : Nat) (x : Flow) : (s.setFlow n m x).mem = s.mem := rfl
@[simp] theorem State.setFlow_hostMem (n m : Nat) (x : Flow) : (s.setFlow n m x).hostMem = s.hostMem := rfl
@[simp] theorem State.setFlow_cluster (n m : Nat) (x : Flow) : (s.setFlow n m x).cluster = s.cluster := rfl
@[simp] theorem State.setFlow_stripes (n m : Nat) (x : Flow) : (s.setFlow n m x).stripes = s.stripes := rfl
@[simp] theorem State.setFlow_poison (n m : Nat) (x : Flow) : (s.setFlow n m x).poison = s.poison := rfl
@[simp] theorem State.setFlow_l1 (n m : Nat) (x : Flow) : (s.setFlow n m x).l1 = s.l1 := rfl
@[simp] theorem State.setFlow_coreTlb (n m : Nat) (x : Flow) : (s.setFlow n m x).coreTlb = s.coreTlb := rfl
@[simp] theorem State.setFlow_dieTlb (n m : Nat) (x : Flow) : (s.setFlow n m x).dieTlb = s.dieTlb := rfl
@[simp] theorem State.setFlow_tasks (n m : Nat) (x : Flow) : (s.setFlow n m x).tasks = s.tasks := rfl
@[simp] theorem State.setFlow_nextTask (n m : Nat) (x : Flow) : (s.setFlow n m x).nextTask = s.nextTask := rfl
@[simp] theorem State.setFlow_images (n m : Nat) (x : Flow) : (s.setFlow n m x).images = s.images := rfl
@[simp] theorem State.setFlow_cores (n m : Nat) (x : Flow) : (s.setFlow n m x).cores = s.cores := rfl
@[simp] theorem State.setFlow_lotq (n m : Nat) (x : Flow) : (s.setFlow n m x).lotq = s.lotq := rfl
@[simp] theorem State.setFlow_dies (n m : Nat) (x : Flow) : (s.setFlow n m x).dies = s.dies := rfl
@[simp] theorem State.setFlow_recs (n m : Nat) (x : Flow) : (s.setFlow n m x).recs = s.recs := rfl
@[simp] theorem State.setFlow_counters (n m : Nat) (x : Flow) : (s.setFlow n m x).counters = s.counters := rfl
@[simp] theorem State.setFlow_readyCtr (n m : Nat) (x : Flow) : (s.setFlow n m x).readyCtr = s.readyCtr := rfl
@[simp] theorem State.setFlow_cpq (n m : Nat) (x : Flow) : (s.setFlow n m x).cpq = s.cpq := rfl
@[simp] theorem State.setFlow_retirements (n m : Nat) (x : Flow) : (s.setFlow n m x).retirements = s.retirements := rfl
@[simp] theorem State.setFlow_ctxs (n m : Nat) (x : Flow) : (s.setFlow n m x).ctxs = s.ctxs := rfl
@[simp] theorem State.setFlow_queues (n m : Nat) (x : Flow) : (s.setFlow n m x).queues = s.queues := rfl
@[simp] theorem State.setFlow_phasers (n m : Nat) (x : Flow) : (s.setFlow n m x).phasers = s.phasers := rfl
@[simp] theorem State.setFlow_barriers (n m : Nat) (x : Flow) : (s.setFlow n m x).barriers = s.barriers := rfl
@[simp] theorem State.setFlow_auctions (n m : Nat) (x : Flow) : (s.setFlow n m x).auctions = s.auctions := rfl
@[simp] theorem State.setFlow_lanes (n m : Nat) (x : Flow) : (s.setFlow n m x).lanes = s.lanes := rfl
@[simp] theorem State.setFlow_heartbeatDue (n m : Nat) (x : Flow) : (s.setFlow n m x).heartbeatDue = s.heartbeatDue := rfl
@[simp] theorem State.setFlow_epoch (n m : Nat) (x : Flow) : (s.setFlow n m x).epoch = s.epoch := rfl
@[simp] theorem State.setFlow_psrs (n m : Nat) (x : Flow) : (s.setFlow n m x).psrs = s.psrs := rfl
@[simp] theorem State.setFlow_evidence (n m : Nat) (x : Flow) : (s.setFlow n m x).evidence = s.evidence := rfl
@[simp] theorem State.setFlow_roleHist (n m : Nat) (x : Flow) : (s.setFlow n m x).roleHist = s.roleHist := rfl
@[simp] theorem State.setFlow_classes (n m : Nat) (x : Flow) : (s.setFlow n m x).classes = s.classes := rfl
@[simp] theorem State.setFlow_evaluation (n m : Nat) (x : Flow) : (s.setFlow n m x).evaluation = s.evaluation := rfl
@[simp] theorem State.setFlow_elections (n m : Nat) (x : Flow) : (s.setFlow n m x).elections = s.elections := rfl
@[simp] theorem State.setFlow_xfers (n m : Nat) (x : Flow) : (s.setFlow n m x).xfers = s.xfers := rfl
@[simp] theorem State.setFlow_nextXfer (n m : Nat) (x : Flow) : (s.setFlow n m x).nextXfer = s.nextXfer := rfl
@[simp] theorem State.setFlow_parts (n m : Nat) (x : Flow) : (s.setFlow n m x).parts = s.parts := rfl
@[simp] theorem State.setFlow_egress (n m : Nat) (x : Flow) : (s.setFlow n m x).egress = s.egress := rfl
@[simp] theorem State.setFlow_delivered (n m : Nat) (x : Flow) : (s.setFlow n m x).delivered = s.delivered := rfl
@[simp] theorem State.setFlow_domain (n m : Nat) (x : Flow) : (s.setFlow n m x).domain = s.domain := rfl
@[simp] theorem State.setFlow_pkgIndex (n m : Nat) (x : Flow) : (s.setFlow n m x).pkgIndex = s.pkgIndex := rfl
@[simp] theorem State.setFlow_switches (n m : Nat) (x : Flow) : (s.setFlow n m x).switches = s.switches := rfl
@[simp] theorem State.setFlow_jobPkgs (n m : Nat) (x : Flow) : (s.setFlow n m x).jobPkgs = s.jobPkgs := rfl
@[simp] theorem State.setFlow_ports (n m : Nat) (x : Flow) : (s.setFlow n m x).ports = s.ports := rfl
@[simp] theorem State.setFlow_dropped (n m : Nat) (x : Flow) : (s.setFlow n m x).dropped = s.dropped := rfl
@[simp] theorem State.setFlow_classifier (n m : Nat) (x : Flow) : (s.setFlow n m x).classifier = s.classifier := rfl
@[simp] theorem State.setFlow_pitches (n m : Nat) (x : Flow) : (s.setFlow n m x).pitches = s.pitches := rfl
@[simp] theorem State.setFlow_rings (n m : Nat) (x : Flow) : (s.setFlow n m x).rings = s.rings := rfl
@[simp] theorem State.setFlow_boot (n m : Nat) (x : Flow) : (s.setFlow n m x).boot = s.boot := rfl
@[simp] theorem State.setFlow_bootFail (n m : Nat) (x : Flow) : (s.setFlow n m x).bootFail = s.bootFail := rfl
@[simp] theorem State.setFlow_bootDies (n m : Nat) (x : Flow) : (s.setFlow n m x).bootDies = s.bootDies := rfl
@[simp] theorem State.setFlow_therm (n m : Nat) (x : Flow) : (s.setFlow n m x).therm = s.therm := rfl
@[simp] theorem State.setFlow_coolantLost (n m : Nat) (x : Flow) : (s.setFlow n m x).coolantLost = s.coolantLost := rfl
@[simp] theorem State.setFlow_poweredDown (n m : Nat) (x : Flow) : (s.setFlow n m x).poweredDown = s.poweredDown := rfl
@[simp] theorem State.setFlow_corrected (n m : Nat) (x : Flow) : (s.setFlow n m x).corrected = s.corrected := rfl
@[simp] theorem State.setFlow_measure3 (n m : Nat) (x : Flow) : (s.setFlow n m x).measure3 = s.measure3 := rfl
@[simp] theorem State.setFlow_measure4 (n m : Nat) (x : Flow) : (s.setFlow n m x).measure4 = s.measure4 := rfl
@[simp] theorem State.setFlow_config (n m : Nat) (x : Flow) : (s.setFlow n m x).config = s.config := rfl
@[simp] theorem State.setFlow_sensorRead (n m : Nat) (x : Flow) : (s.setFlow n m x).sensorRead = s.sensorRead := rfl

/-! ### `State.setPitch` -/

@[simp] theorem State.setPitch_cur (n : Nat) (x : Pitch) : (s.setPitch n x).cur = s.cur := rfl
@[simp] theorem State.setPitch_curWord (n : Nat) (x : Pitch) : (s.setPitch n x).curWord = s.curWord := rfl
@[simp] theorem State.setPitch_agenda (n : Nat) (x : Pitch) : (s.setPitch n x).agenda = s.agenda := rfl
@[simp] theorem State.setPitch_turns (n : Nat) (x : Pitch) : (s.setPitch n x).turns = s.turns := rfl
@[simp] theorem State.setPitch_fresh (n : Nat) (x : Pitch) : (s.setPitch n x).fresh = s.fresh := rfl
@[simp] theorem State.setPitch_uid (n : Nat) (x : Pitch) : (s.setPitch n x).uid = s.uid := rfl
@[simp] theorem State.setPitch_noWalks (n : Nat) (x : Pitch) : (s.setPitch n x).noWalks = s.noWalks := rfl
@[simp] theorem State.setPitch_mem (n : Nat) (x : Pitch) : (s.setPitch n x).mem = s.mem := rfl
@[simp] theorem State.setPitch_hostMem (n : Nat) (x : Pitch) : (s.setPitch n x).hostMem = s.hostMem := rfl
@[simp] theorem State.setPitch_cluster (n : Nat) (x : Pitch) : (s.setPitch n x).cluster = s.cluster := rfl
@[simp] theorem State.setPitch_stripes (n : Nat) (x : Pitch) : (s.setPitch n x).stripes = s.stripes := rfl
@[simp] theorem State.setPitch_poison (n : Nat) (x : Pitch) : (s.setPitch n x).poison = s.poison := rfl
@[simp] theorem State.setPitch_l1 (n : Nat) (x : Pitch) : (s.setPitch n x).l1 = s.l1 := rfl
@[simp] theorem State.setPitch_coreTlb (n : Nat) (x : Pitch) : (s.setPitch n x).coreTlb = s.coreTlb := rfl
@[simp] theorem State.setPitch_dieTlb (n : Nat) (x : Pitch) : (s.setPitch n x).dieTlb = s.dieTlb := rfl
@[simp] theorem State.setPitch_tasks (n : Nat) (x : Pitch) : (s.setPitch n x).tasks = s.tasks := rfl
@[simp] theorem State.setPitch_nextTask (n : Nat) (x : Pitch) : (s.setPitch n x).nextTask = s.nextTask := rfl
@[simp] theorem State.setPitch_images (n : Nat) (x : Pitch) : (s.setPitch n x).images = s.images := rfl
@[simp] theorem State.setPitch_cores (n : Nat) (x : Pitch) : (s.setPitch n x).cores = s.cores := rfl
@[simp] theorem State.setPitch_lotq (n : Nat) (x : Pitch) : (s.setPitch n x).lotq = s.lotq := rfl
@[simp] theorem State.setPitch_dies (n : Nat) (x : Pitch) : (s.setPitch n x).dies = s.dies := rfl
@[simp] theorem State.setPitch_recs (n : Nat) (x : Pitch) : (s.setPitch n x).recs = s.recs := rfl
@[simp] theorem State.setPitch_counters (n : Nat) (x : Pitch) : (s.setPitch n x).counters = s.counters := rfl
@[simp] theorem State.setPitch_readyCtr (n : Nat) (x : Pitch) : (s.setPitch n x).readyCtr = s.readyCtr := rfl
@[simp] theorem State.setPitch_cpq (n : Nat) (x : Pitch) : (s.setPitch n x).cpq = s.cpq := rfl
@[simp] theorem State.setPitch_retirements (n : Nat) (x : Pitch) : (s.setPitch n x).retirements = s.retirements := rfl
@[simp] theorem State.setPitch_ctxs (n : Nat) (x : Pitch) : (s.setPitch n x).ctxs = s.ctxs := rfl
@[simp] theorem State.setPitch_queues (n : Nat) (x : Pitch) : (s.setPitch n x).queues = s.queues := rfl
@[simp] theorem State.setPitch_phasers (n : Nat) (x : Pitch) : (s.setPitch n x).phasers = s.phasers := rfl
@[simp] theorem State.setPitch_barriers (n : Nat) (x : Pitch) : (s.setPitch n x).barriers = s.barriers := rfl
@[simp] theorem State.setPitch_auctions (n : Nat) (x : Pitch) : (s.setPitch n x).auctions = s.auctions := rfl
@[simp] theorem State.setPitch_lanes (n : Nat) (x : Pitch) : (s.setPitch n x).lanes = s.lanes := rfl
@[simp] theorem State.setPitch_heartbeatDue (n : Nat) (x : Pitch) : (s.setPitch n x).heartbeatDue = s.heartbeatDue := rfl
@[simp] theorem State.setPitch_epoch (n : Nat) (x : Pitch) : (s.setPitch n x).epoch = s.epoch := rfl
@[simp] theorem State.setPitch_psrs (n : Nat) (x : Pitch) : (s.setPitch n x).psrs = s.psrs := rfl
@[simp] theorem State.setPitch_evidence (n : Nat) (x : Pitch) : (s.setPitch n x).evidence = s.evidence := rfl
@[simp] theorem State.setPitch_roleHist (n : Nat) (x : Pitch) : (s.setPitch n x).roleHist = s.roleHist := rfl
@[simp] theorem State.setPitch_classes (n : Nat) (x : Pitch) : (s.setPitch n x).classes = s.classes := rfl
@[simp] theorem State.setPitch_evaluation (n : Nat) (x : Pitch) : (s.setPitch n x).evaluation = s.evaluation := rfl
@[simp] theorem State.setPitch_elections (n : Nat) (x : Pitch) : (s.setPitch n x).elections = s.elections := rfl
@[simp] theorem State.setPitch_xfers (n : Nat) (x : Pitch) : (s.setPitch n x).xfers = s.xfers := rfl
@[simp] theorem State.setPitch_nextXfer (n : Nat) (x : Pitch) : (s.setPitch n x).nextXfer = s.nextXfer := rfl
@[simp] theorem State.setPitch_parts (n : Nat) (x : Pitch) : (s.setPitch n x).parts = s.parts := rfl
@[simp] theorem State.setPitch_egress (n : Nat) (x : Pitch) : (s.setPitch n x).egress = s.egress := rfl
@[simp] theorem State.setPitch_delivered (n : Nat) (x : Pitch) : (s.setPitch n x).delivered = s.delivered := rfl
@[simp] theorem State.setPitch_domain (n : Nat) (x : Pitch) : (s.setPitch n x).domain = s.domain := rfl
@[simp] theorem State.setPitch_pkgIndex (n : Nat) (x : Pitch) : (s.setPitch n x).pkgIndex = s.pkgIndex := rfl
@[simp] theorem State.setPitch_switches (n : Nat) (x : Pitch) : (s.setPitch n x).switches = s.switches := rfl
@[simp] theorem State.setPitch_jobPkgs (n : Nat) (x : Pitch) : (s.setPitch n x).jobPkgs = s.jobPkgs := rfl
@[simp] theorem State.setPitch_ports (n : Nat) (x : Pitch) : (s.setPitch n x).ports = s.ports := rfl
@[simp] theorem State.setPitch_dropped (n : Nat) (x : Pitch) : (s.setPitch n x).dropped = s.dropped := rfl
@[simp] theorem State.setPitch_flows (n : Nat) (x : Pitch) : (s.setPitch n x).flows = s.flows := rfl
@[simp] theorem State.setPitch_classifier (n : Nat) (x : Pitch) : (s.setPitch n x).classifier = s.classifier := rfl
@[simp] theorem State.setPitch_rings (n : Nat) (x : Pitch) : (s.setPitch n x).rings = s.rings := rfl
@[simp] theorem State.setPitch_boot (n : Nat) (x : Pitch) : (s.setPitch n x).boot = s.boot := rfl
@[simp] theorem State.setPitch_bootFail (n : Nat) (x : Pitch) : (s.setPitch n x).bootFail = s.bootFail := rfl
@[simp] theorem State.setPitch_bootDies (n : Nat) (x : Pitch) : (s.setPitch n x).bootDies = s.bootDies := rfl
@[simp] theorem State.setPitch_therm (n : Nat) (x : Pitch) : (s.setPitch n x).therm = s.therm := rfl
@[simp] theorem State.setPitch_coolantLost (n : Nat) (x : Pitch) : (s.setPitch n x).coolantLost = s.coolantLost := rfl
@[simp] theorem State.setPitch_poweredDown (n : Nat) (x : Pitch) : (s.setPitch n x).poweredDown = s.poweredDown := rfl
@[simp] theorem State.setPitch_corrected (n : Nat) (x : Pitch) : (s.setPitch n x).corrected = s.corrected := rfl
@[simp] theorem State.setPitch_measure3 (n : Nat) (x : Pitch) : (s.setPitch n x).measure3 = s.measure3 := rfl
@[simp] theorem State.setPitch_measure4 (n : Nat) (x : Pitch) : (s.setPitch n x).measure4 = s.measure4 := rfl
@[simp] theorem State.setPitch_config (n : Nat) (x : Pitch) : (s.setPitch n x).config = s.config := rfl
@[simp] theorem State.setPitch_sensorRead (n : Nat) (x : Pitch) : (s.setPitch n x).sensorRead = s.sensorRead := rfl

/-! ### `Task.setSq` -/

@[simp] theorem Task.setSq_lr (q : Seq) : (t.setSq q x).lr = t.lr := by cases q <;> rfl
@[simp] theorem Task.setSq_arming (q : Seq) : (t.setSq q x).arming = t.arming := by cases q <;> rfl
@[simp] theorem Task.setSq_wid (q : Seq) : (t.setSq q x).wid = t.wid := by cases q <;> rfl
@[simp] theorem Task.setSq_ctx (q : Seq) : (t.setSq q x).ctx = t.ctx := by cases q <;> rfl
@[simp] theorem Task.setSq_vdie (q : Seq) : (t.setSq q x).vdie = t.vdie := by cases q <;> rfl
@[simp] theorem Task.setSq_die (q : Seq) : (t.setSq q x).die = t.die := by cases q <;> rfl
@[simp] theorem Task.setSq_core (q : Seq) : (t.setSq q x).core = t.core := by cases q <;> rfl
@[simp] theorem Task.setSq_slot (q : Seq) : (t.setSq q x).slot = t.slot := by cases q <;> rfl
@[simp] theorem Task.setSq_prio (q : Seq) : (t.setSq q x).prio = t.prio := by cases q <;> rfl
@[simp] theorem Task.setSq_life (q : Seq) : (t.setSq q x).life = t.life := by cases q <;> rfl
@[simp] theorem Task.setSq_tt (q : Seq) : (t.setSq q x).tt = t.tt := by cases q <;> rfl
@[simp] theorem Task.setSq_v (q : Seq) : (t.setSq q x).v = t.v := by cases q <;> rfl
@[simp] theorem Task.setSq_p (q : Seq) : (t.setSq q x).p = t.p := by cases q <;> rfl
@[simp] theorem Task.setSq_rofs (q : Seq) : (t.setSq q x).rofs = t.rofs := by cases q <;> rfl
@[simp] theorem Task.setSq_sdepth (q : Seq) : (t.setSq q x).sdepth = t.sdepth := by cases q <;> rfl
@[simp] theorem Task.setSq_tokens (q : Seq) : (t.setSq q x).tokens = t.tokens := by cases q <;> rfl
@[simp] theorem Task.setSq_loadPorts (q : Seq) : (t.setSq q x).loadPorts = t.loadPorts := by cases q <;> rfl
@[simp] theorem Task.setSq_storePorts (q : Seq) : (t.setSq q x).storePorts = t.storePorts := by cases q <;> rfl
@[simp] theorem Task.setSq_gens (q : Seq) : (t.setSq q x).gens = t.gens := by cases q <;> rfl
@[simp] theorem Task.setSq_spad (q : Seq) : (t.setSq q x).spad = t.spad := by cases q <;> rfl
@[simp] theorem Task.setSq_md (q : Seq) : (t.setSq q x).md = t.md := by cases q <;> rfl
@[simp] theorem Task.setSq_tiles (q : Seq) : (t.setSq q x).tiles = t.tiles := by cases q <;> rfl
@[simp] theorem Task.setSq_tileReady (q : Seq) : (t.setSq q x).tileReady = t.tileReady := by cases q <;> rfl
@[simp] theorem Task.setSq_selectors (q : Seq) : (t.setSq q x).selectors = t.selectors := by cases q <;> rfl
@[simp] theorem Task.setSq_selReady (q : Seq) : (t.setSq q x).selReady = t.selReady := by cases q <;> rfl
@[simp] theorem Task.setSq_shape (q : Seq) : (t.setSq q x).shape = t.shape := by cases q <;> rfl
@[simp] theorem Task.setSq_lots (q : Seq) : (t.setSq q x).lots = t.lots := by cases q <;> rfl
@[simp] theorem Task.setSq_demand (q : Seq) : (t.setSq q x).demand = t.demand := by cases q <;> rfl
@[simp] theorem Task.setSq_leaving (q : Seq) : (t.setSq q x).leaving = t.leaving := by cases q <;> rfl
@[simp] theorem Task.setSq_openBatch (q : Seq) : (t.setSq q x).openBatch = t.openBatch := by cases q <;> rfl
@[simp] theorem Task.setSq_batches (q : Seq) : (t.setSq q x).batches = t.batches := by cases q <;> rfl
@[simp] theorem Task.setSq_batchCtr (q : Seq) : (t.setSq q x).batchCtr = t.batchCtr := by cases q <;> rfl
@[simp] theorem Task.setSq_batchJoined (q : Seq) : (t.setSq q x).batchJoined = t.batchJoined := by cases q <;> rfl
@[simp] theorem Task.setSq_sync (q : Seq) : (t.setSq q x).sync = t.sync := by cases q <;> rfl
@[simp] theorem Task.setSq_gemvCtr (q : Seq) : (t.setSq q x).gemvCtr = t.gemvCtr := by cases q <;> rfl
@[simp] theorem Task.setSq_gemvJoined (q : Seq) : (t.setSq q x).gemvJoined = t.gemvJoined := by cases q <;> rfl
@[simp] theorem Task.setSq_walkCtr (q : Seq) : (t.setSq q x).walkCtr = t.walkCtr := by cases q <;> rfl
@[simp] theorem Task.setSq_eng (q : Seq) : (t.setSq q x).eng = t.eng := by cases q <;> rfl
@[simp] theorem Task.setSq_faults (q : Seq) : (t.setSq q x).faults = t.faults := by cases q <;> rfl
@[simp] theorem Task.setSq_recs (q : Seq) : (t.setSq q x).recs = t.recs := by cases q <;> rfl
@[simp] theorem Task.setSq_hist (q : Seq) : (t.setSq q x).hist = t.hist := by cases q <;> rfl
@[simp] theorem Task.setSq_rcv (q : Seq) : (t.setSq q x).rcv = t.rcv := by cases q <;> rfl
@[simp] theorem Task.setSq_members (q : Seq) : (t.setSq q x).members = t.members := by cases q <;> rfl
@[simp] theorem Task.setSq_left (q : Seq) : (t.setSq q x).left = t.left := by cases q <;> rfl
@[simp] theorem Task.setSq_ssArrived (q : Seq) : (t.setSq q x).ssArrived = t.ssArrived := by cases q <;> rfl
@[simp] theorem Task.setSq_bids (q : Seq) : (t.setSq q x).bids = t.bids := by cases q <;> rfl
@[simp] theorem Task.setSq_mon (q : Seq) : (t.setSq q x).mon = t.mon := by cases q <;> rfl
@[simp] theorem Task.setSq_srnd (q : Seq) : (t.setSq q x).srnd = t.srnd := by cases q <;> rfl
@[simp] theorem Task.setSq_holdcnt (q : Seq) : (t.setSq q x).holdcnt = t.holdcnt := by cases q <;> rfl
@[simp] theorem Task.setSq_holding (q : Seq) : (t.setSq q x).holding = t.holding := by cases q <;> rfl
@[simp] theorem Task.setSq_evt (q : Seq) : (t.setSq q x).evt = t.evt := by cases q <;> rfl
@[simp] theorem Task.setSq_sto (q : Seq) : (t.setSq q x).sto = t.sto := by cases q <;> rfl
@[simp] theorem Task.setSq_opr (q : Seq) : (t.setSq q x).opr = t.opr := by cases q <;> rfl
@[simp] theorem Task.setSq_imgseq (q : Seq) : (t.setSq q x).imgseq = t.imgseq := by cases q <;> rfl
@[simp] theorem Task.setSq_trec (q : Seq) : (t.setSq q x).trec = t.trec := by cases q <;> rfl
@[simp] theorem Task.setSq_tpck (q : Seq) : (t.setSq q x).tpck = t.tpck := by cases q <;> rfl
@[simp] theorem Task.setSq_tpcl (q : Seq) : (t.setSq q x).tpcl = t.tpcl := by cases q <;> rfl
@[simp] theorem Task.setSq_tpcw (q : Seq) : (t.setSq q x).tpcw = t.tpcw := by cases q <;> rfl
@[simp] theorem Task.setSq_tpcc (q : Seq) : (t.setSq q x).tpcc = t.tpcc := by cases q <;> rfl
@[simp] theorem Task.setSq_taddr (q : Seq) : (t.setSq q x).taddr = t.taddr := by cases q <;> rfl
@[simp] theorem Task.setSq_tinfo (q : Seq) : (t.setSq q x).tinfo = t.tinfo := by cases q <;> rfl
@[simp] theorem Task.setSq_tword (q : Seq) : (t.setSq q x).tword = t.tword := by cases q <;> rfl
@[simp] theorem Task.setSq_handler (q : Seq) : (t.setSq q x).handler = t.handler := by cases q <;> rfl
@[simp] theorem Task.setSq_checks (q : Seq) : (t.setSq q x).checks = t.checks := by cases q <;> rfl
@[simp] theorem Task.setSq_gvDone (q : Seq) : (t.setSq q x).gvDone = t.gvDone := by cases q <;> rfl
@[simp] theorem Task.setSq_hubq (q : Seq) : (t.setSq q x).hubq = t.hubq := by cases q <;> rfl
@[simp] theorem Task.setSq_ending (q : Seq) : (t.setSq q x).ending = t.ending := by cases q <;> rfl
@[simp] theorem Task.setSq_popped (q : Seq) : (t.setSq q x).popped = t.popped := by cases q <;> rfl
@[simp] theorem Task.setSq_fixedPop (q : Seq) : (t.setSq q x).fixedPop = t.fixedPop := by cases q <;> rfl

/-! ### `Task.setGen` -/

@[simp] theorem Task.setGen_lr (g : Nat) (y : Gen) : (t.setGen g y).lr = t.lr := rfl
@[simp] theorem Task.setGen_arming (g : Nat) (y : Gen) : (t.setGen g y).arming = t.arming := rfl
@[simp] theorem Task.setGen_wid (g : Nat) (y : Gen) : (t.setGen g y).wid = t.wid := rfl
@[simp] theorem Task.setGen_ctx (g : Nat) (y : Gen) : (t.setGen g y).ctx = t.ctx := rfl
@[simp] theorem Task.setGen_vdie (g : Nat) (y : Gen) : (t.setGen g y).vdie = t.vdie := rfl
@[simp] theorem Task.setGen_die (g : Nat) (y : Gen) : (t.setGen g y).die = t.die := rfl
@[simp] theorem Task.setGen_core (g : Nat) (y : Gen) : (t.setGen g y).core = t.core := rfl
@[simp] theorem Task.setGen_slot (g : Nat) (y : Gen) : (t.setGen g y).slot = t.slot := rfl
@[simp] theorem Task.setGen_prio (g : Nat) (y : Gen) : (t.setGen g y).prio = t.prio := rfl
@[simp] theorem Task.setGen_life (g : Nat) (y : Gen) : (t.setGen g y).life = t.life := rfl
@[simp] theorem Task.setGen_tt (g : Nat) (y : Gen) : (t.setGen g y).tt = t.tt := rfl
@[simp] theorem Task.setGen_kq (g : Nat) (y : Gen) : (t.setGen g y).kq = t.kq := rfl
@[simp] theorem Task.setGen_lq (g : Nat) (y : Gen) : (t.setGen g y).lq = t.lq := rfl
@[simp] theorem Task.setGen_wq (g : Nat) (y : Gen) : (t.setGen g y).wq = t.wq := rfl
@[simp] theorem Task.setGen_cq (g : Nat) (y : Gen) : (t.setGen g y).cq = t.cq := rfl
@[simp] theorem Task.setGen_v (g : Nat) (y : Gen) : (t.setGen g y).v = t.v := rfl
@[simp] theorem Task.setGen_p (g : Nat) (y : Gen) : (t.setGen g y).p = t.p := rfl
@[simp] theorem Task.setGen_rofs (g : Nat) (y : Gen) : (t.setGen g y).rofs = t.rofs := rfl
@[simp] theorem Task.setGen_sdepth (g : Nat) (y : Gen) : (t.setGen g y).sdepth = t.sdepth := rfl
@[simp] theorem Task.setGen_tokens (g : Nat) (y : Gen) : (t.setGen g y).tokens = t.tokens := rfl
@[simp] theorem Task.setGen_loadPorts (g : Nat) (y : Gen) : (t.setGen g y).loadPorts = t.loadPorts := rfl
@[simp] theorem Task.setGen_storePorts (g : Nat) (y : Gen) : (t.setGen g y).storePorts = t.storePorts := rfl
@[simp] theorem Task.setGen_spad (g : Nat) (y : Gen) : (t.setGen g y).spad = t.spad := rfl
@[simp] theorem Task.setGen_md (g : Nat) (y : Gen) : (t.setGen g y).md = t.md := rfl
@[simp] theorem Task.setGen_tiles (g : Nat) (y : Gen) : (t.setGen g y).tiles = t.tiles := rfl
@[simp] theorem Task.setGen_tileReady (g : Nat) (y : Gen) : (t.setGen g y).tileReady = t.tileReady := rfl
@[simp] theorem Task.setGen_selectors (g : Nat) (y : Gen) : (t.setGen g y).selectors = t.selectors := rfl
@[simp] theorem Task.setGen_selReady (g : Nat) (y : Gen) : (t.setGen g y).selReady = t.selReady := rfl
@[simp] theorem Task.setGen_shape (g : Nat) (y : Gen) : (t.setGen g y).shape = t.shape := rfl
@[simp] theorem Task.setGen_lots (g : Nat) (y : Gen) : (t.setGen g y).lots = t.lots := rfl
@[simp] theorem Task.setGen_demand (g : Nat) (y : Gen) : (t.setGen g y).demand = t.demand := rfl
@[simp] theorem Task.setGen_leaving (g : Nat) (y : Gen) : (t.setGen g y).leaving = t.leaving := rfl
@[simp] theorem Task.setGen_openBatch (g : Nat) (y : Gen) : (t.setGen g y).openBatch = t.openBatch := rfl
@[simp] theorem Task.setGen_batches (g : Nat) (y : Gen) : (t.setGen g y).batches = t.batches := rfl
@[simp] theorem Task.setGen_batchCtr (g : Nat) (y : Gen) : (t.setGen g y).batchCtr = t.batchCtr := rfl
@[simp] theorem Task.setGen_batchJoined (g : Nat) (y : Gen) : (t.setGen g y).batchJoined = t.batchJoined := rfl
@[simp] theorem Task.setGen_sync (g : Nat) (y : Gen) : (t.setGen g y).sync = t.sync := rfl
@[simp] theorem Task.setGen_gemvCtr (g : Nat) (y : Gen) : (t.setGen g y).gemvCtr = t.gemvCtr := rfl
@[simp] theorem Task.setGen_gemvJoined (g : Nat) (y : Gen) : (t.setGen g y).gemvJoined = t.gemvJoined := rfl
@[simp] theorem Task.setGen_walkCtr (g : Nat) (y : Gen) : (t.setGen g y).walkCtr = t.walkCtr := rfl
@[simp] theorem Task.setGen_eng (g : Nat) (y : Gen) : (t.setGen g y).eng = t.eng := rfl
@[simp] theorem Task.setGen_faults (g : Nat) (y : Gen) : (t.setGen g y).faults = t.faults := rfl
@[simp] theorem Task.setGen_recs (g : Nat) (y : Gen) : (t.setGen g y).recs = t.recs := rfl
@[simp] theorem Task.setGen_hist (g : Nat) (y : Gen) : (t.setGen g y).hist = t.hist := rfl
@[simp] theorem Task.setGen_rcv (g : Nat) (y : Gen) : (t.setGen g y).rcv = t.rcv := rfl
@[simp] theorem Task.setGen_members (g : Nat) (y : Gen) : (t.setGen g y).members = t.members := rfl
@[simp] theorem Task.setGen_left (g : Nat) (y : Gen) : (t.setGen g y).left = t.left := rfl
@[simp] theorem Task.setGen_ssArrived (g : Nat) (y : Gen) : (t.setGen g y).ssArrived = t.ssArrived := rfl
@[simp] theorem Task.setGen_bids (g : Nat) (y : Gen) : (t.setGen g y).bids = t.bids := rfl
@[simp] theorem Task.setGen_mon (g : Nat) (y : Gen) : (t.setGen g y).mon = t.mon := rfl
@[simp] theorem Task.setGen_srnd (g : Nat) (y : Gen) : (t.setGen g y).srnd = t.srnd := rfl
@[simp] theorem Task.setGen_holdcnt (g : Nat) (y : Gen) : (t.setGen g y).holdcnt = t.holdcnt := rfl
@[simp] theorem Task.setGen_holding (g : Nat) (y : Gen) : (t.setGen g y).holding = t.holding := rfl
@[simp] theorem Task.setGen_evt (g : Nat) (y : Gen) : (t.setGen g y).evt = t.evt := rfl
@[simp] theorem Task.setGen_sto (g : Nat) (y : Gen) : (t.setGen g y).sto = t.sto := rfl
@[simp] theorem Task.setGen_opr (g : Nat) (y : Gen) : (t.setGen g y).opr = t.opr := rfl
@[simp] theorem Task.setGen_imgseq (g : Nat) (y : Gen) : (t.setGen g y).imgseq = t.imgseq := rfl
@[simp] theorem Task.setGen_trec (g : Nat) (y : Gen) : (t.setGen g y).trec = t.trec := rfl
@[simp] theorem Task.setGen_tpck (g : Nat) (y : Gen) : (t.setGen g y).tpck = t.tpck := rfl
@[simp] theorem Task.setGen_tpcl (g : Nat) (y : Gen) : (t.setGen g y).tpcl = t.tpcl := rfl
@[simp] theorem Task.setGen_tpcw (g : Nat) (y : Gen) : (t.setGen g y).tpcw = t.tpcw := rfl
@[simp] theorem Task.setGen_tpcc (g : Nat) (y : Gen) : (t.setGen g y).tpcc = t.tpcc := rfl
@[simp] theorem Task.setGen_taddr (g : Nat) (y : Gen) : (t.setGen g y).taddr = t.taddr := rfl
@[simp] theorem Task.setGen_tinfo (g : Nat) (y : Gen) : (t.setGen g y).tinfo = t.tinfo := rfl
@[simp] theorem Task.setGen_tword (g : Nat) (y : Gen) : (t.setGen g y).tword = t.tword := rfl
@[simp] theorem Task.setGen_handler (g : Nat) (y : Gen) : (t.setGen g y).handler = t.handler := rfl
@[simp] theorem Task.setGen_checks (g : Nat) (y : Gen) : (t.setGen g y).checks = t.checks := rfl
@[simp] theorem Task.setGen_gvDone (g : Nat) (y : Gen) : (t.setGen g y).gvDone = t.gvDone := rfl
@[simp] theorem Task.setGen_hubq (g : Nat) (y : Gen) : (t.setGen g y).hubq = t.hubq := rfl
@[simp] theorem Task.setGen_ending (g : Nat) (y : Gen) : (t.setGen g y).ending = t.ending := rfl
@[simp] theorem Task.setGen_popped (g : Nat) (y : Gen) : (t.setGen g y).popped = t.popped := rfl
@[simp] theorem Task.setGen_fixedPop (g : Nat) (y : Gen) : (t.setGen g y).fixedPop = t.fixedPop := rfl

/-! ### `Task.setTile` -/

@[simp] theorem Task.setTile_lr (n : Nat) (y : Tile) : (t.setTile n y).lr = t.lr := rfl
@[simp] theorem Task.setTile_arming (n : Nat) (y : Tile) : (t.setTile n y).arming = t.arming := rfl
@[simp] theorem Task.setTile_wid (n : Nat) (y : Tile) : (t.setTile n y).wid = t.wid := rfl
@[simp] theorem Task.setTile_ctx (n : Nat) (y : Tile) : (t.setTile n y).ctx = t.ctx := rfl
@[simp] theorem Task.setTile_vdie (n : Nat) (y : Tile) : (t.setTile n y).vdie = t.vdie := rfl
@[simp] theorem Task.setTile_die (n : Nat) (y : Tile) : (t.setTile n y).die = t.die := rfl
@[simp] theorem Task.setTile_core (n : Nat) (y : Tile) : (t.setTile n y).core = t.core := rfl
@[simp] theorem Task.setTile_slot (n : Nat) (y : Tile) : (t.setTile n y).slot = t.slot := rfl
@[simp] theorem Task.setTile_prio (n : Nat) (y : Tile) : (t.setTile n y).prio = t.prio := rfl
@[simp] theorem Task.setTile_life (n : Nat) (y : Tile) : (t.setTile n y).life = t.life := rfl
@[simp] theorem Task.setTile_tt (n : Nat) (y : Tile) : (t.setTile n y).tt = t.tt := rfl
@[simp] theorem Task.setTile_kq (n : Nat) (y : Tile) : (t.setTile n y).kq = t.kq := rfl
@[simp] theorem Task.setTile_lq (n : Nat) (y : Tile) : (t.setTile n y).lq = t.lq := rfl
@[simp] theorem Task.setTile_wq (n : Nat) (y : Tile) : (t.setTile n y).wq = t.wq := rfl
@[simp] theorem Task.setTile_cq (n : Nat) (y : Tile) : (t.setTile n y).cq = t.cq := rfl
@[simp] theorem Task.setTile_v (n : Nat) (y : Tile) : (t.setTile n y).v = t.v := rfl
@[simp] theorem Task.setTile_p (n : Nat) (y : Tile) : (t.setTile n y).p = t.p := rfl
@[simp] theorem Task.setTile_rofs (n : Nat) (y : Tile) : (t.setTile n y).rofs = t.rofs := rfl
@[simp] theorem Task.setTile_sdepth (n : Nat) (y : Tile) : (t.setTile n y).sdepth = t.sdepth := rfl
@[simp] theorem Task.setTile_tokens (n : Nat) (y : Tile) : (t.setTile n y).tokens = t.tokens := rfl
@[simp] theorem Task.setTile_loadPorts (n : Nat) (y : Tile) : (t.setTile n y).loadPorts = t.loadPorts := rfl
@[simp] theorem Task.setTile_storePorts (n : Nat) (y : Tile) : (t.setTile n y).storePorts = t.storePorts := rfl
@[simp] theorem Task.setTile_gens (n : Nat) (y : Tile) : (t.setTile n y).gens = t.gens := rfl
@[simp] theorem Task.setTile_spad (n : Nat) (y : Tile) : (t.setTile n y).spad = t.spad := rfl
@[simp] theorem Task.setTile_md (n : Nat) (y : Tile) : (t.setTile n y).md = t.md := rfl
@[simp] theorem Task.setTile_tileReady (n : Nat) (y : Tile) : (t.setTile n y).tileReady = t.tileReady := rfl
@[simp] theorem Task.setTile_selectors (n : Nat) (y : Tile) : (t.setTile n y).selectors = t.selectors := rfl
@[simp] theorem Task.setTile_selReady (n : Nat) (y : Tile) : (t.setTile n y).selReady = t.selReady := rfl
@[simp] theorem Task.setTile_shape (n : Nat) (y : Tile) : (t.setTile n y).shape = t.shape := rfl
@[simp] theorem Task.setTile_lots (n : Nat) (y : Tile) : (t.setTile n y).lots = t.lots := rfl
@[simp] theorem Task.setTile_demand (n : Nat) (y : Tile) : (t.setTile n y).demand = t.demand := rfl
@[simp] theorem Task.setTile_leaving (n : Nat) (y : Tile) : (t.setTile n y).leaving = t.leaving := rfl
@[simp] theorem Task.setTile_openBatch (n : Nat) (y : Tile) : (t.setTile n y).openBatch = t.openBatch := rfl
@[simp] theorem Task.setTile_batches (n : Nat) (y : Tile) : (t.setTile n y).batches = t.batches := rfl
@[simp] theorem Task.setTile_batchCtr (n : Nat) (y : Tile) : (t.setTile n y).batchCtr = t.batchCtr := rfl
@[simp] theorem Task.setTile_batchJoined (n : Nat) (y : Tile) : (t.setTile n y).batchJoined = t.batchJoined := rfl
@[simp] theorem Task.setTile_sync (n : Nat) (y : Tile) : (t.setTile n y).sync = t.sync := rfl
@[simp] theorem Task.setTile_gemvCtr (n : Nat) (y : Tile) : (t.setTile n y).gemvCtr = t.gemvCtr := rfl
@[simp] theorem Task.setTile_gemvJoined (n : Nat) (y : Tile) : (t.setTile n y).gemvJoined = t.gemvJoined := rfl
@[simp] theorem Task.setTile_walkCtr (n : Nat) (y : Tile) : (t.setTile n y).walkCtr = t.walkCtr := rfl
@[simp] theorem Task.setTile_eng (n : Nat) (y : Tile) : (t.setTile n y).eng = t.eng := rfl
@[simp] theorem Task.setTile_faults (n : Nat) (y : Tile) : (t.setTile n y).faults = t.faults := rfl
@[simp] theorem Task.setTile_recs (n : Nat) (y : Tile) : (t.setTile n y).recs = t.recs := rfl
@[simp] theorem Task.setTile_hist (n : Nat) (y : Tile) : (t.setTile n y).hist = t.hist := rfl
@[simp] theorem Task.setTile_rcv (n : Nat) (y : Tile) : (t.setTile n y).rcv = t.rcv := rfl
@[simp] theorem Task.setTile_members (n : Nat) (y : Tile) : (t.setTile n y).members = t.members := rfl
@[simp] theorem Task.setTile_left (n : Nat) (y : Tile) : (t.setTile n y).left = t.left := rfl
@[simp] theorem Task.setTile_ssArrived (n : Nat) (y : Tile) : (t.setTile n y).ssArrived = t.ssArrived := rfl
@[simp] theorem Task.setTile_bids (n : Nat) (y : Tile) : (t.setTile n y).bids = t.bids := rfl
@[simp] theorem Task.setTile_mon (n : Nat) (y : Tile) : (t.setTile n y).mon = t.mon := rfl
@[simp] theorem Task.setTile_srnd (n : Nat) (y : Tile) : (t.setTile n y).srnd = t.srnd := rfl
@[simp] theorem Task.setTile_holdcnt (n : Nat) (y : Tile) : (t.setTile n y).holdcnt = t.holdcnt := rfl
@[simp] theorem Task.setTile_holding (n : Nat) (y : Tile) : (t.setTile n y).holding = t.holding := rfl
@[simp] theorem Task.setTile_evt (n : Nat) (y : Tile) : (t.setTile n y).evt = t.evt := rfl
@[simp] theorem Task.setTile_sto (n : Nat) (y : Tile) : (t.setTile n y).sto = t.sto := rfl
@[simp] theorem Task.setTile_opr (n : Nat) (y : Tile) : (t.setTile n y).opr = t.opr := rfl
@[simp] theorem Task.setTile_imgseq (n : Nat) (y : Tile) : (t.setTile n y).imgseq = t.imgseq := rfl
@[simp] theorem Task.setTile_trec (n : Nat) (y : Tile) : (t.setTile n y).trec = t.trec := rfl
@[simp] theorem Task.setTile_tpck (n : Nat) (y : Tile) : (t.setTile n y).tpck = t.tpck := rfl
@[simp] theorem Task.setTile_tpcl (n : Nat) (y : Tile) : (t.setTile n y).tpcl = t.tpcl := rfl
@[simp] theorem Task.setTile_tpcw (n : Nat) (y : Tile) : (t.setTile n y).tpcw = t.tpcw := rfl
@[simp] theorem Task.setTile_tpcc (n : Nat) (y : Tile) : (t.setTile n y).tpcc = t.tpcc := rfl
@[simp] theorem Task.setTile_taddr (n : Nat) (y : Tile) : (t.setTile n y).taddr = t.taddr := rfl
@[simp] theorem Task.setTile_tinfo (n : Nat) (y : Tile) : (t.setTile n y).tinfo = t.tinfo := rfl
@[simp] theorem Task.setTile_tword (n : Nat) (y : Tile) : (t.setTile n y).tword = t.tword := rfl
@[simp] theorem Task.setTile_handler (n : Nat) (y : Tile) : (t.setTile n y).handler = t.handler := rfl
@[simp] theorem Task.setTile_checks (n : Nat) (y : Tile) : (t.setTile n y).checks = t.checks := rfl
@[simp] theorem Task.setTile_gvDone (n : Nat) (y : Tile) : (t.setTile n y).gvDone = t.gvDone := rfl
@[simp] theorem Task.setTile_hubq (n : Nat) (y : Tile) : (t.setTile n y).hubq = t.hubq := rfl
@[simp] theorem Task.setTile_ending (n : Nat) (y : Tile) : (t.setTile n y).ending = t.ending := rfl
@[simp] theorem Task.setTile_popped (n : Nat) (y : Tile) : (t.setTile n y).popped = t.popped := rfl
@[simp] theorem Task.setTile_fixedPop (n : Nat) (y : Tile) : (t.setTile n y).fixedPop = t.fixedPop := rfl

/-! ### `Task.setTokens` -/

@[simp] theorem Task.setTokens_lr (k : Nat) (l : List (List Nat)) : (t.setTokens k l).lr = t.lr := rfl
@[simp] theorem Task.setTokens_arming (k : Nat) (l : List (List Nat)) : (t.setTokens k l).arming = t.arming := rfl
@[simp] theorem Task.setTokens_wid (k : Nat) (l : List (List Nat)) : (t.setTokens k l).wid = t.wid := rfl
@[simp] theorem Task.setTokens_ctx (k : Nat) (l : List (List Nat)) : (t.setTokens k l).ctx = t.ctx := rfl
@[simp] theorem Task.setTokens_vdie (k : Nat) (l : List (List Nat)) : (t.setTokens k l).vdie = t.vdie := rfl
@[simp] theorem Task.setTokens_die (k : Nat) (l : List (List Nat)) : (t.setTokens k l).die = t.die := rfl
@[simp] theorem Task.setTokens_core (k : Nat) (l : List (List Nat)) : (t.setTokens k l).core = t.core := rfl
@[simp] theorem Task.setTokens_slot (k : Nat) (l : List (List Nat)) : (t.setTokens k l).slot = t.slot := rfl
@[simp] theorem Task.setTokens_prio (k : Nat) (l : List (List Nat)) : (t.setTokens k l).prio = t.prio := rfl
@[simp] theorem Task.setTokens_life (k : Nat) (l : List (List Nat)) : (t.setTokens k l).life = t.life := rfl
@[simp] theorem Task.setTokens_tt (k : Nat) (l : List (List Nat)) : (t.setTokens k l).tt = t.tt := rfl
@[simp] theorem Task.setTokens_kq (k : Nat) (l : List (List Nat)) : (t.setTokens k l).kq = t.kq := rfl
@[simp] theorem Task.setTokens_lq (k : Nat) (l : List (List Nat)) : (t.setTokens k l).lq = t.lq := rfl
@[simp] theorem Task.setTokens_wq (k : Nat) (l : List (List Nat)) : (t.setTokens k l).wq = t.wq := rfl
@[simp] theorem Task.setTokens_cq (k : Nat) (l : List (List Nat)) : (t.setTokens k l).cq = t.cq := rfl
@[simp] theorem Task.setTokens_v (k : Nat) (l : List (List Nat)) : (t.setTokens k l).v = t.v := rfl
@[simp] theorem Task.setTokens_p (k : Nat) (l : List (List Nat)) : (t.setTokens k l).p = t.p := rfl
@[simp] theorem Task.setTokens_rofs (k : Nat) (l : List (List Nat)) : (t.setTokens k l).rofs = t.rofs := rfl
@[simp] theorem Task.setTokens_sdepth (k : Nat) (l : List (List Nat)) : (t.setTokens k l).sdepth = t.sdepth := rfl
@[simp] theorem Task.setTokens_loadPorts (k : Nat) (l : List (List Nat)) : (t.setTokens k l).loadPorts = t.loadPorts := rfl
@[simp] theorem Task.setTokens_storePorts (k : Nat) (l : List (List Nat)) : (t.setTokens k l).storePorts = t.storePorts := rfl
@[simp] theorem Task.setTokens_gens (k : Nat) (l : List (List Nat)) : (t.setTokens k l).gens = t.gens := rfl
@[simp] theorem Task.setTokens_spad (k : Nat) (l : List (List Nat)) : (t.setTokens k l).spad = t.spad := rfl
@[simp] theorem Task.setTokens_md (k : Nat) (l : List (List Nat)) : (t.setTokens k l).md = t.md := rfl
@[simp] theorem Task.setTokens_tiles (k : Nat) (l : List (List Nat)) : (t.setTokens k l).tiles = t.tiles := rfl
@[simp] theorem Task.setTokens_tileReady (k : Nat) (l : List (List Nat)) : (t.setTokens k l).tileReady = t.tileReady := rfl
@[simp] theorem Task.setTokens_selectors (k : Nat) (l : List (List Nat)) : (t.setTokens k l).selectors = t.selectors := rfl
@[simp] theorem Task.setTokens_selReady (k : Nat) (l : List (List Nat)) : (t.setTokens k l).selReady = t.selReady := rfl
@[simp] theorem Task.setTokens_shape (k : Nat) (l : List (List Nat)) : (t.setTokens k l).shape = t.shape := rfl
@[simp] theorem Task.setTokens_lots (k : Nat) (l : List (List Nat)) : (t.setTokens k l).lots = t.lots := rfl
@[simp] theorem Task.setTokens_demand (k : Nat) (l : List (List Nat)) : (t.setTokens k l).demand = t.demand := rfl
@[simp] theorem Task.setTokens_leaving (k : Nat) (l : List (List Nat)) : (t.setTokens k l).leaving = t.leaving := rfl
@[simp] theorem Task.setTokens_openBatch (k : Nat) (l : List (List Nat)) : (t.setTokens k l).openBatch = t.openBatch := rfl
@[simp] theorem Task.setTokens_batches (k : Nat) (l : List (List Nat)) : (t.setTokens k l).batches = t.batches := rfl
@[simp] theorem Task.setTokens_batchCtr (k : Nat) (l : List (List Nat)) : (t.setTokens k l).batchCtr = t.batchCtr := rfl
@[simp] theorem Task.setTokens_batchJoined (k : Nat) (l : List (List Nat)) : (t.setTokens k l).batchJoined = t.batchJoined := rfl
@[simp] theorem Task.setTokens_sync (k : Nat) (l : List (List Nat)) : (t.setTokens k l).sync = t.sync := rfl
@[simp] theorem Task.setTokens_gemvCtr (k : Nat) (l : List (List Nat)) : (t.setTokens k l).gemvCtr = t.gemvCtr := rfl
@[simp] theorem Task.setTokens_gemvJoined (k : Nat) (l : List (List Nat)) : (t.setTokens k l).gemvJoined = t.gemvJoined := rfl
@[simp] theorem Task.setTokens_walkCtr (k : Nat) (l : List (List Nat)) : (t.setTokens k l).walkCtr = t.walkCtr := rfl
@[simp] theorem Task.setTokens_eng (k : Nat) (l : List (List Nat)) : (t.setTokens k l).eng = t.eng := rfl
@[simp] theorem Task.setTokens_faults (k : Nat) (l : List (List Nat)) : (t.setTokens k l).faults = t.faults := rfl
@[simp] theorem Task.setTokens_recs (k : Nat) (l : List (List Nat)) : (t.setTokens k l).recs = t.recs := rfl
@[simp] theorem Task.setTokens_hist (k : Nat) (l : List (List Nat)) : (t.setTokens k l).hist = t.hist := rfl
@[simp] theorem Task.setTokens_rcv (k : Nat) (l : List (List Nat)) : (t.setTokens k l).rcv = t.rcv := rfl
@[simp] theorem Task.setTokens_members (k : Nat) (l : List (List Nat)) : (t.setTokens k l).members = t.members := rfl
@[simp] theorem Task.setTokens_left (k : Nat) (l : List (List Nat)) : (t.setTokens k l).left = t.left := rfl
@[simp] theorem Task.setTokens_ssArrived (k : Nat) (l : List (List Nat)) : (t.setTokens k l).ssArrived = t.ssArrived := rfl
@[simp] theorem Task.setTokens_bids (k : Nat) (l : List (List Nat)) : (t.setTokens k l).bids = t.bids := rfl
@[simp] theorem Task.setTokens_mon (k : Nat) (l : List (List Nat)) : (t.setTokens k l).mon = t.mon := rfl
@[simp] theorem Task.setTokens_srnd (k : Nat) (l : List (List Nat)) : (t.setTokens k l).srnd = t.srnd := rfl
@[simp] theorem Task.setTokens_holdcnt (k : Nat) (l : List (List Nat)) : (t.setTokens k l).holdcnt = t.holdcnt := rfl
@[simp] theorem Task.setTokens_holding (k : Nat) (l : List (List Nat)) : (t.setTokens k l).holding = t.holding := rfl
@[simp] theorem Task.setTokens_evt (k : Nat) (l : List (List Nat)) : (t.setTokens k l).evt = t.evt := rfl
@[simp] theorem Task.setTokens_sto (k : Nat) (l : List (List Nat)) : (t.setTokens k l).sto = t.sto := rfl
@[simp] theorem Task.setTokens_opr (k : Nat) (l : List (List Nat)) : (t.setTokens k l).opr = t.opr := rfl
@[simp] theorem Task.setTokens_imgseq (k : Nat) (l : List (List Nat)) : (t.setTokens k l).imgseq = t.imgseq := rfl
@[simp] theorem Task.setTokens_trec (k : Nat) (l : List (List Nat)) : (t.setTokens k l).trec = t.trec := rfl
@[simp] theorem Task.setTokens_tpck (k : Nat) (l : List (List Nat)) : (t.setTokens k l).tpck = t.tpck := rfl
@[simp] theorem Task.setTokens_tpcl (k : Nat) (l : List (List Nat)) : (t.setTokens k l).tpcl = t.tpcl := rfl
@[simp] theorem Task.setTokens_tpcw (k : Nat) (l : List (List Nat)) : (t.setTokens k l).tpcw = t.tpcw := rfl
@[simp] theorem Task.setTokens_tpcc (k : Nat) (l : List (List Nat)) : (t.setTokens k l).tpcc = t.tpcc := rfl
@[simp] theorem Task.setTokens_taddr (k : Nat) (l : List (List Nat)) : (t.setTokens k l).taddr = t.taddr := rfl
@[simp] theorem Task.setTokens_tinfo (k : Nat) (l : List (List Nat)) : (t.setTokens k l).tinfo = t.tinfo := rfl
@[simp] theorem Task.setTokens_tword (k : Nat) (l : List (List Nat)) : (t.setTokens k l).tword = t.tword := rfl
@[simp] theorem Task.setTokens_handler (k : Nat) (l : List (List Nat)) : (t.setTokens k l).handler = t.handler := rfl
@[simp] theorem Task.setTokens_checks (k : Nat) (l : List (List Nat)) : (t.setTokens k l).checks = t.checks := rfl
@[simp] theorem Task.setTokens_gvDone (k : Nat) (l : List (List Nat)) : (t.setTokens k l).gvDone = t.gvDone := rfl
@[simp] theorem Task.setTokens_hubq (k : Nat) (l : List (List Nat)) : (t.setTokens k l).hubq = t.hubq := rfl
@[simp] theorem Task.setTokens_ending (k : Nat) (l : List (List Nat)) : (t.setTokens k l).ending = t.ending := rfl
@[simp] theorem Task.setTokens_popped (k : Nat) (l : List (List Nat)) : (t.setTokens k l).popped = t.popped := rfl
@[simp] theorem Task.setTokens_fixedPop (k : Nat) (l : List (List Nat)) : (t.setTokens k l).fixedPop = t.fixedPop := rfl

/-! ### `SeqState.pend` -/

@[simp] theorem SeqState.pend_pc (n : Nat) (w : Late) : (x.pend n w).pc = x.pc := rfl
@[simp] theorem SeqState.pend_clk (n : Nat) (w : Late) : (x.pend n w).clk = x.clk := rfl
@[simp] theorem SeqState.pend_stall (n : Nat) (w : Late) : (x.pend n w).stall = x.stall := rfl
@[simp] theorem SeqState.pend_regs (n : Nat) (w : Late) : (x.pend n w).regs = x.regs := rfl
@[simp] theorem SeqState.pend_ilk (n : Nat) (w : Late) : (x.pend n w).ilk = x.ilk := rfl
@[simp] theorem SeqState.pend_wait (n : Nat) (w : Late) : (x.pend n w).wait = x.wait := rfl
@[simp] theorem SeqState.pend_waited (n : Nat) (w : Late) : (x.pend n w).waited = x.waited := rfl
@[simp] theorem SeqState.pend_hung (n : Nat) (w : Late) : (x.pend n w).hung = x.hung := rfl
@[simp] theorem SeqState.pend_atIssue (n : Nat) (w : Late) : (x.pend n w).atIssue = x.atIssue := rfl
@[simp] theorem SeqState.pend_words (n : Nat) (w : Late) : (x.pend n w).words = x.words := rfl
@[simp] theorem SeqState.pend_forks (n : Nat) (w : Late) : (x.pend n w).forks = x.forks := rfl
@[simp] theorem SeqState.pend_held (n : Nat) (w : Late) : (x.pend n w).held = x.held := rfl
@[simp] theorem SeqState.pend_peers (n : Nat) (w : Late) : (x.pend n w).peers = x.peers := rfl
@[simp] theorem SeqState.pend_barriers (n : Nat) (w : Late) : (x.pend n w).barriers = x.barriers := rfl
@[simp] theorem SeqState.pend_marks (n : Nat) (w : Late) : (x.pend n w).marks = x.marks := rfl
@[simp] theorem SeqState.pend_markWaits (n : Nat) (w : Late) : (x.pend n w).markWaits = x.markWaits := rfl
@[simp] theorem SeqState.pend_markHung (n : Nat) (w : Late) : (x.pend n w).markHung = x.markHung := rfl
@[simp] theorem SeqState.pend_zero (n : Nat) (w : Late) : (x.pend n w).zero = x.zero := rfl

end Sys2Proof.Machine
end

