-- ==== Sys2Proof/Laws/Issue.lean ====
section
/-! SUPPORT. What issuing an instruction can come to, said once: every per-instruction claim cites it. -/

namespace Sys2Proof.Machine

open Sys2Proof.Safety

/-- Readiness for some names is readiness for fewer. -/
theorem Ready.mono {s : State} {tid : Nat} {q : Seq} {t : Task} {ns ms : List RegName} (h : Ready s tid q t ns)
    (hm : ∀ n ∈ ms, n ∈ ns) : Ready s tid q t ms :=
  ⟨h.1, h.2.1, fun n hn => h.2.2.1 n (hm n hn), fun hc n hn => h.2.2.2 hc n (hm n hn)⟩

theorem SeqState.nextPc_eq (t : Task) (q : Seq) : (t.sq q).nextPc q = following t q := by
  cases q <;> rfl

/-- An instruction that is ready comes to what its effect comes to. -/
theorem State.issue_ready {s : State} {tid : Nat} {q : Seq} {t : Task} {ns : List RegName} (h : Ready s tid q t ns)
    {names : Task → List RegName} (hn : names t = ns) (w : Stall) (f : State → Nat → Seq → Task → Eff) :
    s.issue w names f = .next ((f (s.setTask tid t) tid q t).settle tid q w (following t q)) := by
  obtain ⟨hc, hf, hi, hs⟩ := h
  cases h0 : Assoc.find s.tasks tid with
  | none => simp [h0] at hf
  | some t0 =>
    simp only [h0, Option.map_some, Option.some.injEq] at hf
    have h1 : (names t).any (t.sq q).interlocked = false := by
      rw [hn]; simpa [List.any_eq_false] using hi
    have h2 (e : Eff) : t.shadowTrap q (names t) e = false := by
      have : (t.tt.chk && (names t).any (t.sq q).shadowed) = false := by
        rw [hn]
        cases hchk : t.tt.chk with
        | false => simp
        | true => simpa [List.any_eq_false] using hs hchk
      unfold Task.shadowTrap
      rcases Bool.and_eq_false_iff.mp this with h | h <;> simp [h]
    simp [State.issue, hc, h0, hf, h1, h2, SeqState.nextPc_eq]

/-- The scalar form of `issue_ready`. -/
theorem State.issue_scalars {s : State} {tid : Nat} {q : Seq} {t : Task} {rs : List SReg} (w : Stall)
    (f : State → Nat → Seq → Task → Eff) (h : Ready s tid q t (rs.map fun r => .s r.code)) :
    s.issue w (scalars rs) f = .next ((f (s.setTask tid t) tid q t).settle tid q w (following t q)) :=
  State.issue_ready h rfl w f

/-- Everything issuing can come to: no issuer, an interlock's wait (R150), the checking trap (R153), or the effect. -/
theorem State.issue_cases (s : State) (w : Stall) (names : Task → List RegName) (f : State → Nat → Seq → Task → Eff) :
    s.issue w names f = .fault .noIssuer ∨
    ∃ tid q t0, s.cur = .seq tid q ∧ Assoc.find s.tasks tid = some t0 ∧
      (s.issue w names f = waits (s.setTask tid (t0.land q)) tid q .interlock false ∨
       s.issue w names f = traps (s.setTask tid (t0.land q)) tid q (Trap.ofClass 8) ∨
       s.issue w names f = .next ((f (s.setTask tid (t0.land q)) tid q (t0.land q)).settle tid q w
         (((t0.land q).sq q).nextPc q))) := by
  unfold State.issue
  split
  · rename_i tid q hc
    split
    · exact .inl rfl
    · rename_i t0 h0
      refine .inr ⟨tid, q, t0, by assumption, h0, ?_⟩
      simp only [waits, traps]
      split
      · exact .inl rfl
      · split
        · exact .inr (.inl rfl)
        · exact .inr (.inr rfl)
  · exact .inl rfl

/-- A sequencer that moves and whose task is listed never stops: what it issues comes to a next state. -/
theorem State.issue_goes_on {s : State} {tid : Nat} {q : Seq} {t0 : Task} (hc : s.cur = .seq tid q)
    (h0 : Assoc.find s.tasks tid = some t0) (w : Stall) (names : Task → List RegName)
    (f : State → Nat → Seq → Task → Eff) : ∃ s', s.issue w names f = .next s' := by
  simp only [State.issue, hc, h0]
  split
  · exact ⟨_, rfl⟩
  · split <;> exact ⟨_, rfl⟩

/-! ### What an effect settles to -/

theorem Eff.settle_done (tid : Nat) (q : Seq) (w : Stall) (n : Word) (s : State) :
    (Eff.done s).settle tid q w n = s.complete tid q w n := rfl

theorem Eff.settle_jump (tid : Nat) (q : Seq) (w : Stall) (n pc : Word) (s : State) :
    (Eff.jump s pc).settle tid q w n = s.complete tid q w pc := rfl

theorem Eff.settle_trap (tid : Nat) (q : Seq) (w : Stall) (n : Word) (s : State) (e : Trap) :
    (Eff.trap s e).settle tid q w n = s.takeTrap tid q e := rfl

theorem Eff.settle_wait (tid : Nat) (q : Seq) (w : Stall) (n : Word) (s : State) (y : Wait) :
    (Eff.wait s y).settle tid q w n = s.waitCycle tid q y true := rfl

theorem Eff.settle_hold (tid : Nat) (q : Seq) (w : Stall) (n : Word) (s : State) (y : Wait) :
    (Eff.hold s y).settle tid q w n = s.waitCycle tid q y false := rfl

theorem Eff.settle_over (tid : Nat) (q : Seq) (w : Stall) (n : Word) (s : State) :
    (Eff.over s).settle tid q w n = s := rfl

theorem Eff.settle_held (tid : Nat) (q : Seq) (w : Stall) (n : Word) (s : State) :
    (Eff.held s).settle tid q w n = s := rfl

theorem Eff.settle_fate (tid : Nat) (q : Seq) (w : Stall) (n : Word) (s : State) (e : Trap) :
    (Eff.fate s e).settle tid q w n = s.takeTrap tid q e := rfl

/-! ### The arithmetic shapes -/

theorem State.binary_ready {s : State} {tid : Nat} {q : Seq} {t : Task} {d a b : SReg} (w : Stall) (lat : Nat)
    (f : Word → Word → Word) (h : Ready s tid q t [.s d.code, .s a.code, .s b.code]) :
    s.binary w lat d a b f =
      ends ((seen s tid t).result tid q lat d (f ((t.sq q).rd a) ((t.sq q).rd b))) tid q t w :=
  State.issue_scalars (rs := [d, a, b]) w _ h

theorem State.unary_ready {s : State} {tid : Nat} {q : Seq} {t : Task} {d a : SReg} (w : Stall) (lat : Nat)
    (f : Word → Word) (h : Ready s tid q t [.s d.code, .s a.code]) :
    s.unary w lat d a f = ends ((seen s tid t).result tid q lat d (f ((t.sq q).rd a))) tid q t w :=
  State.issue_scalars (rs := [d, a]) w _ h

theorem State.nullary_ready {s : State} {tid : Nat} {q : Seq} {t : Task} {d : SReg} (w : Stall) (v : Word)
    (h : Ready s tid q t [.s d.code]) :
    s.nullary w d v = ends ((seen s tid t).result tid q 1 d v) tid q t w :=
  State.issue_scalars (rs := [d]) w _ h

/-! ### Completing and waiting, on the task that moves -/

theorem State.find_modTask {s : State} {tid : Nat} {t : Task} (h : Assoc.find s.tasks tid = some t) (f : Task → Task) :
    Assoc.find (s.modTask tid f).tasks tid = some (f t) := by
  simp [State.modTask, Assoc.modify, h, Assoc.find_put_self]

theorem State.find_modTask_ne (s : State) (tid k : Nat) (f : Task → Task) (h : k ≠ tid) :
    Assoc.find (s.modTask tid f).tasks k = Assoc.find s.tasks k := by
  unfold State.modTask Assoc.modify
  split
  · exact Assoc.find_put_ne _ _ _ _ h
  · rfl

theorem State.find_setTask_self (s : State) (tid : Nat) (t : Task) : Assoc.find (s.setTask tid t).tasks tid = some t :=
  Assoc.find_put_self _ _ _

theorem State.find_setTask_ne (s : State) (tid k : Nat) (t : Task) (h : k ≠ tid) :
    Assoc.find (s.setTask tid t).tasks k = Assoc.find s.tasks k := Assoc.find_put_ne _ _ _ _ h

/-- A scalar result pends on its sequencer, and on nothing else. -/
theorem State.find_result {s : State} {tid : Nat} {t : Task} (h : Assoc.find s.tasks tid = some t) (q : Seq) (lat : Nat)
    (d : SReg) (v : Word) :
    Assoc.find (s.result tid q lat d v).tasks tid =
      some (if d.code = 0 then t else t.modSq q (·.pend lat (.sreg d.code v))) := by
  unfold State.result
  split
  · simpa using h
  · exact State.find_modTask h _

end Sys2Proof.Machine
end

