-- ==== Sys2Proof/Laws/Effects.lean ====
section
/-! SUPPORT. What completing, waiting, trapping and the shared issue forms of the vector and matrix groups come to. -/

namespace Sys2Proof.Machine

open Sys2Proof.Safety

/-- Changing a task concerns only that task. -/
theorem State.modTask_only (s : State) (tid : Nat) (f : Task → Task) : OnlyTask tid s (s.modTask tid f) :=
  ⟨rfl, fun _ hk => State.find_modTask_ne s tid _ f hk⟩

theorem State.setTask_only (s : State) (tid : Nat) (t : Task) : OnlyTask tid s (s.setTask tid t) :=
  ⟨rfl, fun _ hk => State.find_setTask_ne s tid _ t hk⟩

/-- Two changes of one task concern only it. -/
theorem OnlyTask.trans {tid : Nat} {a b c : State} (h : OnlyTask tid a b) (g : OnlyTask tid b c) : OnlyTask tid a c := by
  refine ⟨?_, fun k hk => (g.2 k hk).trans (h.2 k hk)⟩
  have e : ({ c with tasks := b.tasks } : State) = b := g.1
  have : ({ c with tasks := a.tasks } : State) = { b with tasks := a.tasks } := by rw [← e]
  exact this.trans h.1

theorem State.complete_only (s : State) (tid : Nat) (q : Seq) (w : Stall) (pc : Word) :
    OnlyTask tid s (s.complete tid q w pc) := State.modTask_only s tid _

theorem State.waitCycle_only (s : State) (tid : Nat) (q : Seq) (why : Wait) (b : Bool) :
    OnlyTask tid s (s.waitCycle tid q why b) := State.modTask_only s tid _

/-- The task after its instruction has completed (R148). -/
theorem State.find_complete {s : State} {tid : Nat} {t : Task} (h : Assoc.find s.tasks tid = some t) (q : Seq) (w : Stall)
    (pc : Word) : Assoc.find (s.complete tid q w pc).tasks tid = some ((t.modSq q fun x =>
      { x with pc := pc, clk := x.clk + 1, stall := w.val, wait := none, waited := 0, hung := false, atIssue := none,
               words := none, zero := none }).land q) := State.find_modTask h _

/-- The task after a cycle of a wait (R147). -/
theorem State.find_waitCycle {s : State} {tid : Nat} {t : Task} (h : Assoc.find s.tasks tid = some t) (q : Seq) (why : Wait)
    (b : Bool) : Assoc.find (s.waitCycle tid q why b).tasks tid = some ((t.modSq q fun x =>
      { x with clk := x.clk + 1, wait := some why, waited := x.waited + 1,
               atIssue := if b then some (x.atIssue.getD x.regs) else none,
               words := if b then some s.curWord else none }).land q) := State.find_modTask h _

/-- A scalar result concerns only its task. -/
theorem State.result_only (s : State) (tid : Nat) (q : Seq) (lat : Nat) (d : SReg) (v : Word) :
    OnlyTask tid s (s.result tid q lat d v) := by
  unfold State.result
  split
  · exact ⟨rfl, fun _ _ => rfl⟩
  · exact State.modTask_only s tid _

/-- A trap outside handler mode enters the handler (R368); a machine check is the K-seq's (R375). -/
theorem State.takeTrap_enters {s : State} {tid : Nat} {t : Task} (h : Assoc.find s.tasks tid = some t)
    (hh : t.handler = none) (q : Seq) (e : Trap) :
    let s1 := s.bump t.lr t.arming fun r => { r with traps := r.traps + 1 }
    s.takeTrap tid q e = (s1.withdraw tid).modTask tid fun t =>
      t.stopSeqs.enterHandler (if e.async then .k else q) e s1.curWord := by
  simp [State.takeTrap, h, hh]

/-- A trap of class 1 to 14 in handler mode is a double trap (R370). -/
theorem State.takeTrap_double {s : State} {tid : Nat} {t : Task} (h : Assoc.find s.tasks tid = some t)
    (hh : t.handler.isSome = true) (q : Seq) (e : Trap) (he : e.cls ≠ 15) :
    s.takeTrap tid q e = s.doubleTrap tid e := by
  simp [State.takeTrap, h, hh, he]

/-- A machine check in handler mode is held for the first boundary after `rft` (R370). -/
theorem State.takeTrap_held {s : State} {tid : Nat} {t : Task} (h : Assoc.find s.tasks tid = some t)
    (hh : t.handler.isSome = true) (q : Seq) (e : Trap) (he : e.cls = 15) :
    s.takeTrap tid q e = (s.withdraw tid).modTask tid (·.holdCheck e) := by
  simp [State.takeTrap, h, hh, he]

/-! ### The shared issue forms -/

/-- A vector instruction whose ports are ready and that the unit takes: it reads and pops its sources and has its effect. -/
theorem State.vecIssue_runs {s : State} {tid : Nat} {t : Task} (w : Stall) (f : VForm)
    (k : State → Nat → Task → Mask → List VReg → State) (h : Ready s tid .c t (f.names t))
    (hm : t.active f.pfx ≠ 0) (hp : t.popsReady f.srcs = true) (hd : f.dsts.all t.pushReady = true)
    (hv : (s.setTask tid t).vecHeld tid t = false) :
    s.vecIssue w f k = ends ((k (((s.setTask tid t).vecTake tid t).setTask tid (t.readSrcs f.srcs).1) tid t (t.active f.pfx)
      (t.readSrcs f.srcs).2).countRnd tid f.rnd) tid .c t w := by
  have hm' : ¬t.active f.pfx = 0#1024 := hm
  unfold State.vecIssue
  rw [State.issue_ready h rfl]
  simp [hm', hp, hd, hv, ends, Eff.settle_done]

/-- A vector instruction with no active lane completes and does nothing else (R173). -/
theorem State.vecIssue_idle {s : State} {tid : Nat} {t : Task} (w : Stall) (f : VForm)
    (k : State → Nat → Task → Mask → List VReg → State) (h : Ready s tid .c t (f.names t))
    (hm : t.active f.pfx = 0) (he : f.every = false) (hv : (s.setTask tid t).vecHeld tid t = false) :
    s.vecIssue w f k = ends (((s.setTask tid t).vecTake tid t).countRnd tid f.rnd) tid .c t w := by
  unfold State.vecIssue
  rw [State.issue_ready h rfl]
  simp [hm, he, hv, ends, Eff.settle_done]

/-- A matrix-group instruction whose tiles and selectors are not pending comes to its own effect, through the port. -/
theorem State.accIssue_runs {s : State} {tid : Nat} {t : Task} (w : Stall) {names : Task → List RegName}
    {ns : List RegName} (hn : names t = ns) (codes tiles sels : List Nat) (f : State → Nat → Seq → Task → Eff)
    (h : Ready s tid .c t ns) (hc : (codes.any fun n => decide (t.tt.accd ≤ n)) = false)
    (ht : tiles.any t.tilePending = false) (hs : sels.any t.selPending = false) :
    s.accIssue w names codes tiles sels f =
      .next (((s.setTask tid t).throughPort tid t (t.sq .c).atIssue.isNone (f (s.setTask tid t) tid .c t)).settle tid .c w
        (following t .c)) := by
  unfold State.accIssue
  rw [State.issue_ready h hn]
  simp [hc, ht, hs]

/-- A tile code at or above the task's ACCD is an illegal register, before anything that holds its issue (R131, R214). -/
theorem State.accIssue_illegal {s : State} {tid : Nat} {t : Task} (w : Stall) {names : Task → List RegName}
    {ns : List RegName} (hn : names t = ns) (codes tiles sels : List Nat) (f : State → Nat → Seq → Task → Eff)
    (h : Ready s tid .c t ns) (hc : (codes.any fun n => decide (t.tt.accd ≤ n)) = true) :
    s.accIssue w names codes tiles sels f = traps (s.setTask tid t) tid .c (Trap.ofClass 4) := by
  unfold State.accIssue
  rw [State.issue_ready h hn]
  simp [hc, Eff.settle, traps]

/-- The port accepts an instruction that completes, once, when it is free for it. -/
theorem State.throughPort_done {s : State} {tid : Nat} {t : Task} (first : Bool) (u : State)
    (ha : s.accHeld tid t = false) : s.throughPort tid t first (.done u) = .done (u.tookPort first tid t) := by
  cases first <;> simp [State.throughPort, ha]

/-- The port accepts an instruction that issues and blocks. -/
theorem State.throughPort_wait {s : State} {tid : Nat} {t : Task} (first : Bool) (u : State) (why : Wait)
    (ha : s.accHeld tid t = false) : s.throughPort tid t first (.wait u why) = .wait (u.tookPort first tid t) why := by
  cases first <;> simp [State.throughPort, ha]

/-- A trap goes past the port. -/
theorem State.throughPort_trap {s : State} {tid : Nat} {t : Task} (first : Bool) (u : State) (e : Trap)
    (ha : s.accHeld tid t = false) : s.throughPort tid t first (.trap u e) = .trap u e := by
  cases first <;> simp [State.throughPort, ha]

end Sys2Proof.Machine
end

