-- ==== Sys2Proof/Laws/Memory.lean ====
section
/-! SUPPORT. What every operation on the bytes of a memory does: it keeps the canonical form, a byte written reads as written,
and every other byte reads as before. -/

namespace Sys2Proof.Machine

open Sys2Proof

/-- Whatever is stored, a memory stays in canonical form. -/
theorem Memory.wf_writeBytes (m : Memory) (a : Nat) (bs : List Byte) (h : Memory.wf m = true) :
    Memory.wf (writeBytes m a bs) = true :=
  Assoc.wf_splice unlistedByte m a bs h

/-- A byte written reads as written. -/
theorem get_writeBytes_in (m : Memory) (a i : Nat) (bs : List Byte) (h : Memory.wf m = true) (hi : i < bs.length) :
    Assoc.get unlistedByte (writeBytes m a bs) (a + i) = bs[i] :=
  Assoc.get_splice_in unlistedByte m a bs i h hi

/-- A byte outside a store reads as before. -/
theorem get_writeBytes_out (m : Memory) (a k : Nat) (bs : List Byte) (h : Memory.wf m = true)
    (hk : k < a ∨ a + bs.length ≤ k) : Assoc.get unlistedByte (writeBytes m a bs) k = Assoc.get unlistedByte m k :=
  Assoc.get_splice_out unlistedByte m a bs k h hk

theorem length_readBytes (m : Memory) (a n : Nat) : (readBytes m a n).length = n := Assoc.length_dense _ m a n

/-- What is read of a run of bytes is each byte of it. -/
theorem readBytes_getElem? (m : Memory) (a n i : Nat) (h : Memory.wf m = true) (hi : i < n) :
    (readBytes m a n)[i]? = some (Assoc.get unlistedByte m (a + i)) :=
  Assoc.dense_getElem? unlistedByte m a n i h hi

/-- Reading back a run that was stored gives it. -/
theorem readBytes_writeBytes (m : Memory) (a : Nat) (bs : List Byte) (h : Memory.wf m = true) :
    readBytes (writeBytes m a bs) a bs.length = bs := by
  apply List.ext_getElem?
  intro i
  by_cases hi : i < bs.length
  · rw [readBytes_getElem? _ _ _ _ (Memory.wf_writeBytes m a bs h) hi, get_writeBytes_in m a i bs h hi]
    simp [hi]
  · have h1 := length_readBytes (writeBytes m a bs) a bs.length
    rw [List.getElem?_eq_none (by omega), List.getElem?_eq_none (by omega)]

theorem length_toBytes (n v : Nat) : (toBytes n v).length = n := by
  induction n generalizing v with
  | zero => rfl
  | succ n ih => simp [toBytes, ih]

/-- Little-endian bytes of a value give it back (R2). -/
theorem leNat_toBytes (n v : Nat) : leNat (toBytes n v) = v % 256 ^ n := by
  induction n generalizing v with
  | zero => simp [toBytes, leNat, Nat.mod_one]
  | succ n ih =>
    have h := ih (v / 256)
    simp only [leNat] at h
    rw [toBytes, leNat, List.foldr_cons, h, BitVec.toNat_ofNat]
    rw [Nat.pow_succ 256, Nat.mul_comm (256 ^ n), Nat.mod_mul]

/-! ### Physical and host memory -/

/-- A store of physical memory keeps both memories in canonical form. -/
theorem State.physWrite_wf (s : State) (pa : Nat) (bs : List Byte) (h : Memory.wf s.mem = true)
    (hh : Memory.wf s.hostMem = true) :
    Memory.wf (s.physWrite pa bs).mem = true ∧ Memory.wf (s.physWrite pa bs).hostMem = true := by
  unfold State.physWrite
  split
  · exact ⟨h, Memory.wf_writeBytes _ _ _ hh⟩
  · exact ⟨Memory.wf_writeBytes _ _ _ h, hh⟩

/-- A store of physical memory changes nothing but the two memories. -/
theorem State.physWrite_frame (s : State) (pa : Nat) (bs : List Byte) :
    { s.physWrite pa bs with mem := s.mem, hostMem := s.hostMem } = s := by
  unfold State.physWrite
  split <;> rfl

/-- A store below bit 51 is to HBM5, and host memory stays. -/
theorem State.physWrite_hbm (s : State) (pa : Nat) (bs : List Byte) (h : isHostPa pa = false) :
    s.physWrite pa bs = { s with mem := writeBytes s.mem pa bs } := by
  simp [State.physWrite, h]

/-- A write of the host keeps the canonical form. -/
theorem State.hostWrite_wf (s : State) (a : Nat) (bs : List Byte) (h : Memory.wf s.hostMem = true) :
    Memory.wf (s.hostWrite a bs).hostMem = true :=
  Memory.wf_writeBytes _ _ _ h

theorem State.hostWrite_hbm (s : State) (a : Nat) (bs : List Byte) : (s.hostWrite a bs).mem = s.mem := rfl

/-- Both memories are in canonical form after reset. -/
theorem State.reset_wf : Memory.wf State.reset.mem = true ∧ Memory.wf State.reset.hostMem = true := ⟨rfl, rfl⟩

/-- A record written to an event queue keeps the canonical form. -/
theorem State.evqWrite_wf (s : State) (cid : Nat) (c : Ctx) (addr k : Nat) (bytes : List Byte) (kind : Nat)
    (h : Memory.wf s.hostMem = true) : Memory.wf (s.evqWrite cid c addr k bytes kind).hostMem = true :=
  Memory.wf_writeBytes _ _ _ (Memory.wf_writeBytes _ _ _ h)

end Sys2Proof.Machine
end

