-- ==== Sys2Proof/Tests/Slice0.lean ====
section
/-! SUPPORT. Tests: ill-formed terms that the check refuses, words written out from the spec's encodings, states that meet the
hypotheses of the statements, and single steps with results worked out from the rules. -/

namespace Sys2Proof.Tests

open Sys2Proof Sys2Proof.Machine Sys2Proof.Safety

set_option Elab.async false

/-! ### Ill-formed terms are refused (R119 to R128, R131, R134) -/

/-- A branch of a kernel goes forward, and a repeat has a body (R356). -/
theorem smoke_kernel :
    (Instr.pbany 3 0).wf .k = false ∧ (Instr.pj 0).wf .k = false ∧ (Instr.prepn 4 0).wf .k = false := by decide

/-- A register that is not on the sequencer, and an instruction that is not (R123, R128, R131). -/
theorem smoke_sequencers :
    (Instr.add 0 (.x 3) (.x 1) (.x 2)).wf .l = false ∧ (Instr.add 0 (.a 1) (.x 0) (.a 2)).wf .k = false ∧
    (Instr.add 0 (.x 0) (.x 0) (.x 0)).wf .c = false ∧ (Instr.beq 0 (.lc 1) (.x 0) 4).wf .k = false ∧
    (Instr.rft 0).wf .w = false ∧ (Instr.j 0 4).wf .l = false ∧ (Instr.hist 0 (.a 1) (.a 2)).wf .k = false ∧
    (Instr.accget 0 (.a 1) (.a 2)).wf .l = false ∧ (Instr.vadam 0 ⟨0, false⟩).wf .k = false ∧ (Instr.ldq 0 0 (.a 1) 0).wf .w = false ∧
    (Instr.stq 0 0 (.a 1) 0).wf .l = false ∧ (Instr.rcfence 0).wf .c = false := by decide

/-- A generator of the other sequencer, a token or a mark to oneself (R167, R260, R293). -/
theorem smoke_partners :
    (Instr.aggo 0 4).wf .l = false ∧ (Instr.aggo 0 3).wf .w = false ∧ (Instr.tgive 0 .k).wf .k = false ∧ (Instr.ttake 0 .c).wf .c = false ∧
    (Instr.tcnt 0 (.x 1) true .k).wf .k = false ∧ (Instr.mark 0 .w).wf .w = false := by decide

/-- PN without P, and a type outside the row's set (R122, R176). -/
theorem smoke_predicates_and_types :
    (Instr.vnot 0 ⟨0, true⟩ (.v 1) (.v 2)).wf .c = false ∧ (Instr.vadd 0 ⟨0, false⟩ .e4m3 .rne false (.v 1) (.v 2) (.v 3)).wf .c = false ∧
    (Instr.vmul 0 ⟨0, false⟩ .fxa .rne false (.v 1) (.v 2) (.v 3)).wf .c = false ∧
    (Instr.vfma 0 ⟨0, false⟩ .i32 .rne false (.v 1) (.v 2) (.v 3) (.v 4)).wf .c = false ∧
    (Instr.vabs 0 ⟨0, false⟩ .n16 .rne false (.v 1) (.v 2)).wf .c = false ∧ (Instr.vpopc 0 ⟨0, false⟩ .i32 (.v 1) (.v 2)).wf .c = false ∧
    (Instr.vmovi 0 ⟨0, false⟩ .n32 (.v 1) 5).wf .c = false ∧ (Instr.vpack 0 ⟨0, false⟩ .i8 (.v 1) (.v 2) 0).wf .c = false ∧
    (Instr.vmaxr 0 ⟨0, false⟩ .f16 (.v 1) (.v 2)).wf .c = false ∧ (Instr.vdqn 0 ⟨0, false⟩ .f16 .rne false (.v 1) (.v 2) (.v 3)).wf .c = false := by
  decide

/-- p0 as a destination, a scale over its elements, and a conversion whose fxa source or pair is wrong (R122, R186, R187, R232). -/
theorem smoke_destinations :
    (Instr.vcmpeq 0 ⟨0, false⟩ .f32 0 (.v 1) (.v 2)).wf .c = false ∧ (Instr.pand 0 ⟨0, false⟩ 0 1 2).wf .c = false ∧
    (Instr.mpoll 0 0 1).wf .c = false ∧ (Instr.vqnt 0 ⟨0, false⟩ .e4m3 .rne true (.v 3) (.v 1) 3 .b32).wf .c = false ∧
    (Instr.vcvt 0 ⟨0, false⟩ .fxa .rne false (.v 1) (.v 2) (some (.v 3)) .f16).wf .c = false ∧
    (Instr.vcvt 0 ⟨0, false⟩ .fxa .rne false (.v 1) (.v 2) none .f32).wf .c = false ∧
    (Instr.vcvt 0 ⟨0, false⟩ .f16 .rne false (.v 1) (.v 2) (some (.v 3)) .f32).wf .c = false := by decide

/-- An element, an amount, a count or a range out of bounds (R180, R182, R189, R195, R196, R224, R228). -/
theorem smoke_ranges :
    (Instr.vextr 0 ⟨0, false⟩ .n16 (.v 1) (.v 2) 2).wf .c = false ∧ (Instr.vunpk 0 ⟨0, false⟩ .i8 (.v 1) (.v 2) 4).wf .c = false ∧
    (Instr.vpack 0 ⟨0, false⟩ .n8 (.v 1) (.v 2) 4).wf .c = false ∧ (Instr.vshl 0 ⟨0, false⟩ .n8 (.v 1) (.v 2) (.imm 8)).wf .c = false ∧
    (Instr.pset 0 ⟨0, false⟩ 1 17 0).wf .c = false ∧ (Instr.pset 0 ⟨0, false⟩ 1 0 65).wf .c = false ∧ (Instr.cstage 0 0).wf .c = false ∧
    (Instr.mshape 0 1 1 0).wf .c = false ∧ (Instr.lotreq 0 0).wf .c = false ∧ (Instr.lotrel 0 0).wf .c = false := by decide

/-! ### Words written out from the encodings -/

/-- OP 0x00 (R119 to R128): `nop`, `trap`, `rft`, `brk`, `tend`, `srd`, `swr`, `imgcut`. -/
theorem test_decode_op00 :
    decode .k 0x30000000 0x00000000 = .ok (.nop 3) ∧
    decode .k 0x800002D1 0x00000000 = .ok (.trap 8 45) ∧
    decode .k 0xD0000002 0x00000000 = .ok (.rft 13) ∧
    decode .k 0x20000003 0x00000000 = .ok (.brk 2) ∧
    decode .k 0x70000004 0x00000000 = .ok (.tend 7) ∧
    decode .k 0xC01A00C5 0x00000000 = .ok (.srd 12 (.x 26) .imgseq) ∧
    decode .k 0x10003136 0x00000000 = .ok (.swr 1 (.x 12) .tpcw) ∧
    decode .k 0x60130007 0x00000000 = .ok (.imgcut 6 (.x 19)) := by
  exact ⟨rfl, rfl, rfl, rfl, rfl, rfl, rfl, rfl⟩

/-- OP 0x01 (R119 to R128): `add`, `sub`, `and`, `or`, `xor`, `shl`, `shr`, `sra`, `min`, `max`, `minn`, `maxn`,
`slt`, `sltn`, `seq`, `sne`. -/
theorem test_decode_op01 :
    decode .k 0xB05A18D0 0x00000000 = .ok (.add 11 (.x 26) (.x 6) (.x 13)) ∧
    decode .k 0x004C4DA1 0x00000000 = .ok (.sub 0 (.x 12) (.x 19) (.x 26)) ∧
    decode .k 0x50536862 0x00000000 = .ok (.and 5 (.x 19) (.x 26) (.x 6)) ∧
    decode .k 0xA05A18D3 0x00000000 = .ok (.or 10 (.x 26) (.x 6) (.x 13)) ∧
    decode .k 0xF04C4DA4 0x00000000 = .ok (.xor 15 (.x 12) (.x 19) (.x 26)) ∧
    decode .k 0x40536865 0x00000000 = .ok (.shl 4 (.x 19) (.x 26) (.x 6)) ∧
    decode .k 0x905A18D6 0x00000000 = .ok (.shr 9 (.x 26) (.x 6) (.x 13)) ∧
    decode .k 0xE04C4DA7 0x00000000 = .ok (.sra 14 (.x 12) (.x 19) (.x 26)) ∧
    decode .k 0x30536868 0x00000000 = .ok (.min 3 (.x 19) (.x 26) (.x 6)) ∧
    decode .k 0x805A18D9 0x00000000 = .ok (.max 8 (.x 26) (.x 6) (.x 13)) ∧
    decode .k 0xD04C4DAA 0x00000000 = .ok (.minn 13 (.x 12) (.x 19) (.x 26)) ∧
    decode .k 0x2053686B 0x00000000 = .ok (.maxn 2 (.x 19) (.x 26) (.x 6)) ∧
    decode .k 0x705A18DC 0x00000000 = .ok (.slt 7 (.x 26) (.x 6) (.x 13)) ∧
    decode .k 0xC04C4DAD 0x00000000 = .ok (.sltn 12 (.x 12) (.x 19) (.x 26)) ∧
    decode .k 0x1053686E 0x00000000 = .ok (.seq 1 (.x 19) (.x 26) (.x 6)) ∧
    decode .k 0x605A18DF 0x00000000 = .ok (.sne 6 (.x 26) (.x 6) (.x 13)) := by
  exact ⟨rfl, rfl, rfl, rfl, rfl, rfl, rfl, rfl, rfl, rfl, rfl, rfl, rfl, rfl, rfl, rfl⟩

/-- OP 0x02 (R119 to R128): `mul`, `mulh`, `mulhn`, `div`, `divn`, `rem`, `remn`, `clz`, `ctz`, `popc`, `brev`,
`lea2`, `lea4`, `lea8`. -/
theorem test_decode_op02 :
    decode .k 0xB08C4DA0 0x00000000 = .ok (.mul 11 (.x 12) (.x 19) (.x 26)) ∧
    decode .k 0x00936861 0x00000000 = .ok (.mulh 0 (.x 19) (.x 26) (.x 6)) ∧
    decode .k 0x509A18D2 0x00000000 = .ok (.mulhn 5 (.x 26) (.x 6) (.x 13)) ∧
    decode .k 0xA08C4DA3 0x00000000 = .ok (.div 10 (.x 12) (.x 19) (.x 26)) ∧
    decode .k 0xF0936864 0x00000000 = .ok (.divn 15 (.x 19) (.x 26) (.x 6)) ∧
    decode .k 0x409A18D5 0x00000000 = .ok (.rem 4 (.x 26) (.x 6) (.x 13)) ∧
    decode .k 0x908C4DA6 0x00000000 = .ok (.remn 9 (.x 12) (.x 19) (.x 26)) ∧
    decode .k 0xE0936807 0x00000000 = .ok (.clz 14 (.x 19) (.x 26)) ∧
    decode .k 0x309A1808 0x00000000 = .ok (.ctz 3 (.x 26) (.x 6)) ∧
    decode .k 0x808C4C09 0x00000000 = .ok (.popc 8 (.x 12) (.x 19)) ∧
    decode .k 0xD093680A 0x00000000 = .ok (.brev 13 (.x 19) (.x 26)) ∧
    decode .k 0x209A18DB 0x00000000 = .ok (.lea2 2 (.x 26) (.x 6) (.x 13)) ∧
    decode .k 0x708C4DAC 0x00000000 = .ok (.lea4 7 (.x 12) (.x 19) (.x 26)) ∧
    decode .k 0xC093686D 0x00000000 = .ok (.lea8 12 (.x 19) (.x 26) (.x 6)) := by
  exact ⟨rfl, rfl, rfl, rfl, rfl, rfl, rfl, rfl, rfl, rfl, rfl, rfl, rfl, rfl⟩

/-- OP 0x03 (R119 to R128): `addi`. -/
theorem test_decode_op03 :
    decode .k 0x10DA1AA5 0x00000000 = .ok (.addi 1 (.x 26) (.x 6) 677) := by
  rfl

/-- OP 0x04 (R119 to R128): `andi`. -/
theorem test_decode_op04 :
    decode .k 0x610C4EA5 0x00000000 = .ok (.andi 6 (.x 12) (.x 19) 677) := by
  rfl

/-- OP 0x05 (R119 to R128): `ori`. -/
theorem test_decode_op05 :
    decode .k 0xB1536AA5 0x00000000 = .ok (.ori 11 (.x 19) (.x 26) 677) := by
  rfl

/-- OP 0x06 (R119 to R128): `xori`. -/
theorem test_decode_op06 :
    decode .k 0x019A1AA5 0x00000000 = .ok (.xori 0 (.x 26) (.x 6) 677) := by
  rfl

/-- OP 0x07 (R119 to R128): `shli`, `shri`, `srai`. -/
theorem test_decode_op07 :
    decode .k 0x51CC4C2B 0x00000000 = .ok (.shli 5 (.x 12) (.x 19) 43) ∧
    decode .k 0xA1D3692B 0x00000000 = .ok (.shri 10 (.x 19) (.x 26) 43) ∧
    decode .k 0xF1DA1A2B 0x00000000 = .ok (.srai 15 (.x 26) (.x 6) 43) := by
  exact ⟨rfl, rfl, rfl⟩

/-- OP 0x08 (R119 to R128): `slti`. -/
theorem test_decode_op08 :
    decode .k 0x420C4EA5 0x00000000 = .ok (.slti 4 (.x 12) (.x 19) 677) := by
  rfl

/-- OP 0x09 (R119 to R128): `sltni`. -/
theorem test_decode_op09 :
    decode .k 0x92536AA5 0x00000000 = .ok (.sltni 9 (.x 19) (.x 26) 677) := by
  rfl

/-- OP 0x0A (R119 to R128): `lui`. -/
theorem test_decode_op0A :
    decode .k 0xE29A8A35 0x00000000 = .ok (.lui 14 (.x 26) 0x8a35) := by
  rfl

/-- OP 0x0B (R119 to R128): `lsh`. -/
theorem test_decode_op0B :
    decode .k 0x32CC8A35 0x00000000 = .ok (.lsh 3 (.x 12) 0x8a35) := by
  rfl

/-- OP 0x0C (R119 to R128): `beq`, `bne`, `blt`, `bge`, `bltn`, `bgen`. -/
theorem test_decode_op0C :
    decode .k 0x830367A5 0x00000000 = .ok (.beq 8 (.x 13) (.x 19) 0x1a5) ∧
    decode .k 0xD30CF3A5 0x00000000 = .ok (.bne 13 (.x 19) (.x 25) 0x1a5) ∧
    decode .k 0x2311DBA5 0x00000000 = .ok (.blt 2 (.x 7) (.x 13) 0x1a5) ∧
    decode .k 0x731B67A5 0x00000000 = .ok (.bge 7 (.x 13) (.x 19) 0x1a5) ∧
    decode .k 0xC324F3A5 0x00000000 = .ok (.bltn 12 (.x 19) (.x 25) 0x1a5) ∧
    decode .k 0x1329DBA5 0x00000000 = .ok (.bgen 1 (.x 7) (.x 13) 0x1a5) := by
  exact ⟨rfl, rfl, rfl, rfl, rfl, rfl⟩

/-- OP 0x0D (R119 to R128): `j`. -/
theorem test_decode_op0D :
    decode .k 0x636A5F31 0x00000000 = .ok (.j 6 0x2a5f31) := by
  rfl

/-- OP 0x0E (R119 to R128): `jal`. -/
theorem test_decode_op0E :
    decode .k 0xB39A8A35 0x00000000 = .ok (.jal 11 (.x 26) 0x8a35) := by
  rfl

/-- OP 0x0F (R119 to R128): `jr`, `jalr`. -/
theorem test_decode_op0F :
    decode .k 0x03C03000 0x00000000 = .ok (.jr 0 (.x 12)) ∧
    decode .k 0x53D36801 0x00000000 = .ok (.jalr 5 (.x 19) (.x 26)) := by
  exact ⟨rfl, rfl⟩

/-- OP 0x10 (R119 to R128): `loop`. -/
theorem test_decode_op10 :
    decode .k 0xA42A5F31 0x00000000 = .ok (.loop 10 2 0xa5f31) := by
  rfl

/-- OP 0x11 (R119 to R128): `lcset`. -/
theorem test_decode_op11 :
    decode .k 0xF4738A35 0x00000000 = .ok (.lcset 15 3 0x8a35) := by
  rfl

/-- OP 0x12 (R119 to R128): `lds`. -/
theorem test_decode_op12 :
    decode .k 0x44936AA7 0x00000000 = .ok (.lds 4 (.x 19) (.x 26) 2 0xa7) := by
  rfl

/-- OP 0x13 (R119 to R128): `sts`. -/
theorem test_decode_op13 :
    decode .k 0x94DA1AA7 0x00000000 = .ok (.sts 9 (.x 26) (.x 6) 2 0xa7) := by
  rfl

/-- OP 0x14 (R119 to R128): `tgive`, `ttake`, `tcnt`. -/
theorem test_decode_op14 :
    decode .k 0xE5000020 0x00000000 = .ok (.tgive 14 .w) ∧
    decode .k 0x35000021 0x00000000 = .ok (.ttake 3 .w) ∧
    decode .k 0x851A0422 0x00000000 = .ok (.tcnt 8 (.x 26) true .w) := by
  exact ⟨rfl, rfl, rfl⟩

/-- OP 0x15 (R119 to R128): `lpatch`, `larm`, `lstat`, `wqpush`, `wqpop`, `wqlen`, `hops`, `vdid`, `widf`, `tile`. -/
theorem test_decode_op15 :
    decode .k 0xD54C4DA0 0x00000000 = .ok (.lpatch 13 (.x 12) (.x 19) (.x 26)) ∧
    decode .k 0x25536801 0x00000000 = .ok (.larm 2 (.x 19) (.x 26)) ∧
    decode .k 0x755A1802 0x00000000 = .ok (.lstat 7 (.x 26) (.x 6)) ∧
    decode .k 0xC54C4DA3 0x00000000 = .ok (.wqpush 12 (.x 12) (.x 19) (.x 26)) ∧
    decode .k 0x15536804 0x00000000 = .ok (.wqpop 1 (.x 19) (.x 26)) ∧
    decode .k 0x655A1805 0x00000000 = .ok (.wqlen 6 (.x 26) (.x 6)) ∧
    decode .k 0xB54C4DA6 0x00000000 = .ok (.hops 11 (.x 12) (.x 19) (.x 26)) ∧
    decode .k 0x05530007 0x00000000 = .ok (.vdid 0 (.x 19)) ∧
    decode .k 0x555A0058 0x00000000 = .ok (.widf 5 (.x 26) 5) ∧
    decode .k 0xA54C0009 0x00000000 = .ok (.tile 10 (.x 12)) := by
  exact ⟨rfl, rfl, rfl, rfl, rfl, rfl, rfl, rfl, rfl, rfl⟩

/-- OP 0x16 (R119 to R128): `agbase`, `aglev`, `agpat`, `aggo`, `agstop`, `agwait`, `agstat`. -/
theorem test_decode_op16 :
    decode .l 0xF580AC30 0x00000000 = .ok (.agbase 15 (.a 11) 3) ∧
    decode .l 0x45AF9AB1 0x00000000 = .ok (.aglev 4 (.a 15) (.a 6) 5 3) ∧
    decode .l 0x95809E32 0x00000000 = .ok (.agpat 9 (.a 7) 4 3) ∧
    decode .l 0xE5800033 0x00000000 = .ok (.aggo 14 3) ∧
    decode .l 0x35800034 0x00000000 = .ok (.agstop 3 3) ∧
    decode .l 0x85800035 0x00000000 = .ok (.agwait 8 3) ∧
    decode .l 0xD5AB0036 0x00000000 = .ok (.agstat 13 (.a 11) 3) := by
  exact ⟨rfl, rfl, rfl, rfl, rfl, rfl, rfl⟩

/-- OP 0x17 (R119 to R128): `ldq`, `ldqb`, `stq`, `stqm`. -/
theorem test_decode_op17 :
    decode .l 0x25E3BCA7 0x00000000 = .ok (.ldq 2 3 (.a 15) 0xa7) ∧
    decode .l 0x75E39DA7 0x00000000 = .ok (.ldqb 7 3 (.a 7) 0xa7) ∧
    decode .w 0xC5E6AEA7 0x00000000 = .ok (.stq 12 2 (.a 11) 0xa7) ∧
    decode .w 0x15E6BFA7 0x00000000 = .ok (.stqm 1 2 (.a 15) 0xa7) := by
  exact ⟨rfl, rfl, rfl, rfl⟩

/-- OP 0x18 (R119 to R128): `pref`, `cwb`, `cinv`, `cwbi`, `czero`. -/
theorem test_decode_op18 :
    decode .w 0x66009EB0 0x00000000 = .ok (.pref 6 (.a 7) (.a 11)) ∧
    decode .w 0xB600AEF1 0x00000000 = .ok (.cwb 11 (.a 11) (.a 15)) ∧
    decode .w 0x0600BE62 0x00000000 = .ok (.cinv 0 (.a 15) (.a 6)) ∧
    decode .w 0x56009EB3 0x00000000 = .ok (.cwbi 5 (.a 7) (.a 11)) ∧
    decode .w 0xA600AEF4 0x00000000 = .ok (.czero 10 (.a 11) (.a 15)) := by
  exact ⟨rfl, rfl, rfl, rfl, rfl⟩

/-- OP 0x19 (R119 to R128): `cego`, `cewait`, `cepoll`, `rcfence`, `tsrld`, `mdld`. -/
theorem test_decode_op19 :
    decode .k 0xF65A1800 0x00000000 = .ok (.cego 15 (.x 26) (.x 6)) ∧
    decode .k 0x46403001 0x00000000 = .ok (.cewait 4 (.x 12)) ∧
    decode .k 0x96536802 0x00000000 = .ok (.cepoll 9 (.x 19) (.x 26)) ∧
    decode .k 0xE6400003 0x00000000 = .ok (.rcfence 14) ∧
    decode .k 0x364C4C64 0x00000000 = .ok (.tsrld 3 (.x 12) (.x 19) 6) ∧
    decode .k 0x86536865 0x00000000 = .ok (.mdld 8 (.x 19) (.x 26) (.x 6)) := by
  exact ⟨rfl, rfl, rfl, rfl, rfl, rfl⟩

/-- OP 0x1A (R119 to R128): `hist`, `histrd`, `gvget`, `gvrep`, `gvstep`. -/
theorem test_decode_op1A :
    decode .l 0xD6AF9800 0x00000000 = .ok (.hist 13 (.a 15) (.a 6)) ∧
    decode .l 0x26A70351 0x00000000 = .ok (.histrd 2 (.a 7) 21 true) ∧
    decode .k 0x76936802 0x00000000 = .ok (.gvget 7 (.x 19) (.x 26)) ∧
    decode .k 0xC69A18D3 0x00000000 = .ok (.gvrep 12 (.x 26) (.x 6) (.x 13)) ∧
    decode .k 0x168C0004 0x00000000 = .ok (.gvstep 1 (.x 12)) := by
  exact ⟨rfl, rfl, rfl, rfl, rfl⟩

/-- OP 0x1B (R119 to R128): `fence`, `mark`. -/
theorem test_decode_op1B :
    decode .k 0x66C95940 0x00000000 = .ok (.fence 6 9 22 true false 4) ∧
    decode .k 0xB6C00021 0x00000000 = .ok (.mark 11 .w) := by
  exact ⟨rfl, rfl⟩

/-- OP 0x1C (R119 to R128): `phjoin`, `phdrop`, `phsig`, `phwait`, `phsw`, `phqry`. -/
theorem test_decode_op1C :
    decode .k 0x070C4C20 0x00000000 = .ok (.phjoin 0 (.x 12) (.x 19) 2) ∧
    decode .k 0x57004C01 0x00000000 = .ok (.phdrop 5 (.x 19)) ∧
    decode .k 0xA7006802 0x00000000 = .ok (.phsig 10 (.x 26)) ∧
    decode .k 0xF70C4C03 0x00000000 = .ok (.phwait 15 (.x 12) (.x 19)) ∧
    decode .k 0x47136804 0x00000000 = .ok (.phsw 4 (.x 19) (.x 26)) ∧
    decode .k 0x971A1805 0x00000000 = .ok (.phqry 9 (.x 26) (.x 6)) := by
  exact ⟨rfl, rfl, rfl, rfl, rfl, rfl⟩

/-- OP 0x1D (R119 to R128): `ssarr`, `sswait`, `ssqry`, `monarm`, `monwait`, `monclr`. -/
theorem test_decode_op1D :
    decode .k 0xE74C4C00 0x00000000 = .ok (.ssarr 14 (.x 12) (.x 19)) ∧
    decode .k 0x37536801 0x00000000 = .ok (.sswait 3 (.x 19) (.x 26)) ∧
    decode .k 0x875A1802 0x00000000 = .ok (.ssqry 8 (.x 26) (.x 6)) ∧
    decode .k 0xD7403003 0x00000000 = .ok (.monarm 13 (.x 12)) ∧
    decode .k 0x27530004 0x00000000 = .ok (.monwait 2 (.x 19)) ∧
    decode .k 0x77400005 0x00000000 = .ok (.monclr 7) := by
  exact ⟨rfl, rfl, rfl, rfl, rfl, rfl⟩

/-- OP 0x1E (R119 to R128): `accadd`, `accaddf`, `accswp`, `accget`, `accset`. -/
theorem test_decode_op1E :
    decode .k 0xC7803130 0x00000000 = .ok (.accadd 12 (.x 12) (.x 19)) ∧
    decode .k 0x17936861 0x00000000 = .ok (.accaddf 1 (.x 19) (.x 26) (.x 6)) ∧
    decode .k 0x679A18D2 0x00000000 = .ok (.accswp 6 (.x 26) (.x 6) (.x 13)) ∧
    decode .k 0xB78C4C03 0x00000000 = .ok (.accget 11 (.x 12) (.x 19)) ∧
    decode .k 0x07804DA4 0x00000000 = .ok (.accset 0 (.x 19) (.x 26)) := by
  exact ⟨rfl, rfl, rfl, rfl, rfl⟩

/-- OP 0x1F (R119 to R128): `bid`, `bidw`, `ares`, `trigarm`, `trigdis`, `rcvcnt`, `cwalk`, `cwait`. -/
theorem test_decode_op1F :
    decode .k 0x57C06860 0x00000000 = .ok (.bid 5 (.x 26) (.x 6)) ∧
    decode .k 0xA7CC4C01 0x00000000 = .ok (.bidw 10 (.x 12) (.x 19)) ∧
    decode .k 0xF7D36802 0x00000000 = .ok (.ares 15 (.x 19) (.x 26)) ∧
    decode .k 0x47DA18D3 0x00000000 = .ok (.trigarm 4 (.x 26) (.x 6) (.x 13)) ∧
    decode .k 0x97CC4C04 0x00000000 = .ok (.trigdis 9 (.x 12) (.x 19)) ∧
    decode .k 0xE7D36865 0x00000000 = .ok (.rcvcnt 14 (.x 19) (.x 26) (.x 6)) ∧
    decode .k 0x37DA1806 0x00000000 = .ok (.cwalk 3 (.x 26) (.x 6)) ∧
    decode .k 0x87C03007 0x00000000 = .ok (.cwait 8 (.x 12)) := by
  exact ⟨rfl, rfl, rfl, rfl, rfl, rfl, rfl, rfl⟩

/-- OP 0x20 (R119 to R128): `vadd`, `vsub`, `vmul`, `vfma`, `vfms`, `vfnma`, `vmin`, `vmax`, `vabs`, `vneg`, `vclmp`,
`vrnd`. -/
theorem test_decode_op20 :
    decode .c 0xD81D4E20 0x02E17000 = .ok (.vadd 13 ⟨11, true⟩ .bf16 .rdn true (.v 29) (.v 19) (.lq 2)) ∧
    decode .c 0x28258931 0x02E17000 = .ok (.vsub 2 ⟨11, true⟩ .bf16 .rdn true (.sq 1) (.lq 2) (.v 19)) ∧
    decode .c 0x781D4E22 0x02E17000 = .ok (.vmul 7 ⟨11, true⟩ .bf16 .rdn true (.v 29) (.v 19) (.lq 2)) ∧
    decode .c 0xC8258933 0x36E17000 = .ok (.vfma 12 ⟨11, true⟩ .bf16 .rdn true (.sq 1) (.lq 2) (.v 19) (.v 13)) ∧
    decode .c 0x181D4E24 0x36E17000 = .ok (.vfms 1 ⟨11, true⟩ .bf16 .rdn true (.v 29) (.v 19) (.lq 2) (.v 13)) ∧
    decode .c 0x68258935 0x36E17000 = .ok (.vfnma 6 ⟨11, true⟩ .bf16 .rdn true (.sq 1) (.lq 2) (.v 19) (.v 13)) ∧
    decode .c 0xB81D4E26 0x02E17000 = .ok (.vmin 11 ⟨11, true⟩ .bf16 .rdn true (.v 29) (.v 19) (.lq 2)) ∧
    decode .c 0x08258937 0x02E17000 = .ok (.vmax 0 ⟨11, true⟩ .bf16 .rdn true (.sq 1) (.lq 2) (.v 19)) ∧
    decode .c 0x581D4C08 0x02E17000 = .ok (.vabs 5 ⟨11, true⟩ .bf16 .rdn true (.v 29) (.v 19)) ∧
    decode .c 0xA8258809 0x02E17000 = .ok (.vneg 10 ⟨11, true⟩ .bf16 .rdn true (.sq 1) (.lq 2)) ∧
    decode .c 0xF81D4E2A 0x36E17000 = .ok (.vclmp 15 ⟨11, true⟩ .bf16 .rdn true (.v 29) (.v 19) (.lq 2) (.v 13)) ∧
    decode .c 0x4825880B 0x02E17000 = .ok (.vrnd 4 ⟨11, true⟩ .bf16 .rdn true (.sq 1) (.lq 2)) := by
  exact ⟨rfl, rfl, rfl, rfl, rfl, rfl, rfl, rfl, rfl, rfl, rfl, rfl⟩

/-- OP 0x21 (R119 to R128): `vrcp`, `vrsq`, `vsqrt`, `vexp2`, `vlog2`, `vtanh`, `vsigm`. -/
theorem test_decode_op21 :
    decode .c 0x985D4C00 0x02E17000 = .ok (.vrcp 9 ⟨11, true⟩ .bf16 .rdn true (.v 29) (.v 19)) ∧
    decode .c 0xE8658801 0x02E17000 = .ok (.vrsq 14 ⟨11, true⟩ .bf16 .rdn true (.sq 1) (.lq 2)) ∧
    decode .c 0x385D4C02 0x02E17000 = .ok (.vsqrt 3 ⟨11, true⟩ .bf16 .rdn true (.v 29) (.v 19)) ∧
    decode .c 0x88658803 0x02E17000 = .ok (.vexp2 8 ⟨11, true⟩ .bf16 .rdn true (.sq 1) (.lq 2)) ∧
    decode .c 0xD85D4C04 0x02E17000 = .ok (.vlog2 13 ⟨11, true⟩ .bf16 .rdn true (.v 29) (.v 19)) ∧
    decode .c 0x28658805 0x02E17000 = .ok (.vtanh 2 ⟨11, true⟩ .bf16 .rdn true (.sq 1) (.lq 2)) ∧
    decode .c 0x785D4C06 0x02E17000 = .ok (.vsigm 7 ⟨11, true⟩ .bf16 .rdn true (.v 29) (.v 19)) := by
  exact ⟨rfl, rfl, rfl, rfl, rfl, rfl, rfl⟩

/-- OP 0x22 (R119 to R128): `vand`, `vor`, `vxor`, `vnot`, `vshl`, `vshr`, `vsra`, `vpopc`, `vclz`. -/
theorem test_decode_op22 :
    decode .c 0xC8A58930 0x02E00000 = .ok (.vand 12 ⟨11, true⟩ (.sq 1) (.lq 2) (.v 19)) ∧
    decode .c 0x189D4E21 0x02E00000 = .ok (.vor 1 ⟨11, true⟩ (.v 29) (.v 19) (.lq 2)) ∧
    decode .c 0x68A58932 0x02E00000 = .ok (.vxor 6 ⟨11, true⟩ (.sq 1) (.lq 2) (.v 19)) ∧
    decode .c 0xB89D4C03 0x02E00000 = .ok (.vnot 11 ⟨11, true⟩ (.v 29) (.v 19)) ∧
    decode .c 0x08A58804 0x02EE080D = .ok (.vshl 0 ⟨11, true⟩ .n16 (.sq 1) (.lq 2) (.imm 13)) ∧
    decode .c 0x589D4C65 0x02EE0000 = .ok (.vshr 5 ⟨11, true⟩ .n16 (.v 29) (.v 19) (.reg (.v 6))) ∧
    decode .c 0xA8A58806 0x02E9080D = .ok (.vsra 10 ⟨11, true⟩ .i16 (.sq 1) (.lq 2) (.imm 13)) ∧
    decode .c 0xF89D4C07 0x02EE0000 = .ok (.vpopc 15 ⟨11, true⟩ .n16 (.v 29) (.v 19)) ∧
    decode .c 0x48A58808 0x02EE0000 = .ok (.vclz 4 ⟨11, true⟩ .n16 (.sq 1) (.lq 2)) := by
  exact ⟨rfl, rfl, rfl, rfl, rfl, rfl, rfl, rfl, rfl⟩

/-- OP 0x23 (R119 to R128): `vcmpeq`, `vcmpne`, `vcmplt`, `vcmple`, `vcmpgt`, `vcmpge`, `vclass`. -/
theorem test_decode_op23 :
    decode .c 0x98C94E20 0x02E80000 = .ok (.vcmpeq 9 ⟨11, true⟩ .i32 9 (.v 19) (.lq 2)) ∧
    decode .c 0xE8C98931 0x02E80000 = .ok (.vcmpne 14 ⟨11, true⟩ .i32 9 (.lq 2) (.v 19)) ∧
    decode .c 0x38C94E22 0x02E80000 = .ok (.vcmplt 3 ⟨11, true⟩ .i32 9 (.v 19) (.lq 2)) ∧
    decode .c 0x88C98933 0x02E80000 = .ok (.vcmple 8 ⟨11, true⟩ .i32 9 (.lq 2) (.v 19)) ∧
    decode .c 0xD8C94E24 0x02E80000 = .ok (.vcmpgt 13 ⟨11, true⟩ .i32 9 (.v 19) (.lq 2)) ∧
    decode .c 0x28C98935 0x02E80000 = .ok (.vcmpge 2 ⟨11, true⟩ .i32 9 (.lq 2) (.v 19)) ∧
    decode .c 0x78C94C06 0x02E00135 = .ok (.vclass 7 ⟨11, true⟩ 9 (.v 19) 0x135) := by
  exact ⟨rfl, rfl, rfl, rfl, rfl, rfl, rfl⟩

/-- OP 0x24 (R119 to R128): `vmov`, `vsel`, `vsplat`, `vmovi`, `vextr`. -/
theorem test_decode_op24 :
    decode .c 0xC9258800 0x02E00000 = .ok (.vmov 12 ⟨11, true⟩ (.sq 1) (.lq 2)) ∧
    decode .c 0x191D4E21 0x02E00000 = .ok (.vsel 1 ⟨11, true⟩ (.v 29) (.v 19) (.lq 2)) ∧
    decode .c 0x69258802 0x02E0036D = .ok (.vsplat 6 ⟨11, true⟩ (.sq 1) (.lq 2) 13 45) ∧
    decode .c 0xB91D0003 0xAAE005F3 = .ok (.vmovi 11 ⟨11, true⟩ .f32 (.v 29) 0x2a5f3) ∧
    decode .c 0x09258804 0x02F00001 = .ok (.vextr 0 ⟨11, true⟩ .n4 (.sq 1) (.lq 2) 1) := by
  exact ⟨rfl, rfl, rfl, rfl, rfl⟩

/-- OP 0x25 (R119 to R128): `vrotr`, `vbcr`, `vsumr`, `vmaxr`, `vminr`, `vscnr`, `vxlr`. -/
theorem test_decode_op25 :
    decode .c 0x595D4C00 0x02E0002D = .ok (.vrotr 5 ⟨11, true⟩ (.v 29) (.v 19) 45) ∧
    decode .c 0xA9658801 0x02E0002D = .ok (.vbcr 10 ⟨11, true⟩ (.sq 1) (.lq 2) 45) ∧
    decode .c 0xF95D4C02 0x02E87000 = .ok (.vsumr 15 ⟨11, true⟩ .i32 .rdn true (.v 29) (.v 19)) ∧
    decode .c 0x49658803 0x02E80000 = .ok (.vmaxr 4 ⟨11, true⟩ .i32 (.sq 1) (.lq 2)) ∧
    decode .c 0x995D4C04 0x02E80000 = .ok (.vminr 9 ⟨11, true⟩ .i32 (.v 29) (.v 19)) ∧
    decode .c 0xE9658805 0x02E87000 = .ok (.vscnr 14 ⟨11, true⟩ .i32 .rdn true (.sq 1) (.lq 2)) ∧
    decode .c 0x395D4E26 0x02E00000 = .ok (.vxlr 3 ⟨11, true⟩ (.v 29) (.v 19) (.lq 2)) := by
  exact ⟨rfl, rfl, rfl, rfl, rfl, rfl, rfl⟩

/-- OP 0x26 (R119 to R128): `vrotc`, `vbcc`, `vsumc`, `vmaxc`, `vminc`, `vscnc`, `vxlc`. -/
theorem test_decode_op26 :
    decode .c 0x89A58800 0x02E0000D = .ok (.vrotc 8 ⟨11, true⟩ (.sq 1) (.lq 2) 13) ∧
    decode .c 0xD99D4C01 0x02E0000D = .ok (.vbcc 13 ⟨11, true⟩ (.v 29) (.v 19) 13) ∧
    decode .c 0x29A58802 0x02E87000 = .ok (.vsumc 2 ⟨11, true⟩ .i32 .rdn true (.sq 1) (.lq 2)) ∧
    decode .c 0x799D4C03 0x02E80000 = .ok (.vmaxc 7 ⟨11, true⟩ .i32 (.v 29) (.v 19)) ∧
    decode .c 0xC9A58804 0x02E80000 = .ok (.vminc 12 ⟨11, true⟩ .i32 (.sq 1) (.lq 2)) ∧
    decode .c 0x199D4C05 0x02E87000 = .ok (.vscnc 1 ⟨11, true⟩ .i32 .rdn true (.v 29) (.v 19)) ∧
    decode .c 0x69A58936 0x02E00000 = .ok (.vxlc 6 ⟨11, true⟩ (.sq 1) (.lq 2) (.v 19)) := by
  exact ⟨rfl, rfl, rfl, rfl, rfl, rfl, rfl⟩

/-- OP 0x27 (R119 to R128): `vcvt`, `vqnt`, `vdqn`, `vpack`, `vunpk`, `vscale`. -/
theorem test_decode_op27 :
    decode .c 0xB9DD4C00 0x02EA7003 = .ok (.vcvt 11 ⟨11, true⟩ .i8 .rdn true (.v 29) (.v 19) none .e4m3) ∧
    decode .c 0x09E58801 0x36E47002 = .ok (.vqnt 0 ⟨11, true⟩ .e5m2 .rdn true (.sq 1) (.lq 2) 13 .b64) ∧
    decode .c 0x59DD4E22 0x02E47000 = .ok (.vdqn 5 ⟨11, true⟩ .e5m2 .rdn true (.v 29) (.v 19) (.lq 2)) ∧
    decode .c 0xA9E58803 0x02EF0001 = .ok (.vpack 10 ⟨11, true⟩ .n8 (.sq 1) (.lq 2) 1) ∧
    decode .c 0xF9DD4C04 0x02F00001 = .ok (.vunpk 15 ⟨11, true⟩ .n4 (.v 29) (.v 19) 1) ∧
    decode .c 0x49E58935 0x02E17000 = .ok (.vscale 4 ⟨11, true⟩ .bf16 .rdn true (.sq 1) (.lq 2) (.v 19)) := by
  exact ⟨rfl, rfl, rfl, rfl, rfl, rfl⟩

/-- OP 0x28 (R119 to R128): `vadam`, `vsgdm`, `vnormsq`. -/
theorem test_decode_op28 :
    decode .c 0x9A000000 0x02E00000 = .ok (.vadam 9 ⟨11, true⟩) ∧
    decode .c 0xEA000001 0x02E00000 = .ok (.vsgdm 14 ⟨11, true⟩) ∧
    decode .c 0x3A1D4C02 0x02E00000 = .ok (.vnormsq 3 ⟨11, true⟩ (.v 29) (.v 19)) := by
  exact ⟨rfl, rfl, rfl⟩

/-- OP 0x29 (R119 to R128): `pand`, `por`, `pxor`, `pnot`, `pset`, `pcnt`. -/
theorem test_decode_op29 :
    decode .c 0x8A493870 0x02E00000 = .ok (.pand 8 ⟨11, true⟩ 9 14 7) ∧
    decode .c 0xDA493871 0x02E00000 = .ok (.por 13 ⟨11, true⟩ 9 14 7) ∧
    decode .c 0x2A493872 0x02E00000 = .ok (.pxor 2 ⟨11, true⟩ 9 14 7) ∧
    decode .c 0x7A493803 0x02E00000 = .ok (.pnot 7 ⟨11, true⟩ 9 14) ∧
    decode .c 0xCA490004 0x02E006AD = .ok (.pset 12 ⟨11, true⟩ 9 13 45) ∧
    decode .c 0x1A5D3805 0x02E00000 = .ok (.pcnt 1 ⟨11, true⟩ (.v 29) 14) := by
  exact ⟨rfl, rfl, rfl, rfl, rfl, rfl⟩

/-- OP 0x2A (R119 to R128): `cloop`, `cbrany`, `cbrall`, `cj`, `clcset`, `cstage`. -/
theorem test_decode_op2A :
    decode .c 0x6AB30000 0x00000B35 = .ok (.cloop 6 3 0xb35) ∧
    decode .c 0xBA803801 0x00000B35 = .ok (.cbrany 11 14 0xb35) ∧
    decode .c 0x0A803802 0x00000B35 = .ok (.cbrall 0 14 0xb35) ∧
    decode .c 0x5A800003 0xA80005F3 = .ok (.cj 5 0x2a5f3) ∧
    decode .c 0xAAB30004 0xA80005F3 = .ok (.clcset 10 3 0x2a5f3) ∧
    decode .c 0xFA800005 0x00000006 = .ok (.cstage 15 6) := by
  exact ⟨rfl, rfl, rfl, rfl, rfl, rfl⟩

/-- OP 0x2B (R119 to R128): `mshape`, `mtile`, `asetx`, `azero`, `lotreq`, `lotrel`. -/
theorem test_decode_op2B :
    decode .c 0x4AF30000 0x000000AD = .ok (.mshape 4 3 2 45) ∧
    decode .c 0x9AC20001 0x00000B35 = .ok (.mtile 9 2 0xb35) ∧
    decode .c 0xEADB0012 0x00000B35 = .ok (.asetx 14 27 true 0xb35) ∧
    decode .c 0x3ADB0003 0x00000025 = .ok (.azero 3 27 37) ∧
    decode .c 0x8AC00004 0x00000013 = .ok (.lotreq 8 19) ∧
    decode .c 0xDAC00005 0x00000013 = .ok (.lotrel 13 19) := by
  exact ⟨rfl, rfl, rfl, rfl, rfl, rfl⟩

/-- OP 0x2C (R119 to R128): `mma`, `mmaa`, `mmas`, `mcommit`, `mwait`, `mpoll`. -/
theorem test_decode_op2C :
    decode .c 0x2B1B0C10 0x00000B35 = .ok (.mma 2 27 3 1 0xb35) ∧
    decode .c 0x7B1B0C11 0x00000B35 = .ok (.mmaa 7 27 3 1 0xb35) ∧
    decode .c 0xCB1B0C12 0x00000B35 = .ok (.mmas 12 27 3 1 0xb35) ∧
    decode .c 0x1B330003 0x00000000 = .ok (.mcommit 1 3) ∧
    decode .c 0x6B00C404 0x00000000 = .ok (.mwait 6 1) ∧
    decode .c 0xBB09C405 0x00000000 = .ok (.mpoll 11 9 1) := by
  exact ⟨rfl, rfl, rfl, rfl, rfl, rfl⟩

/-- OP 0x2D (R119 to R128): `anorm`, `acvt`, `aadd`, `ald`, `ast`, `ahdr`, `amov`. -/
theorem test_decode_op2D :
    decode .c 0x0B5B0000 0x0000002D = .ok (.anorm 0 27 45) ∧
    decode .c 0x5B5D5801 0x02E17000 = .ok (.acvt 5 ⟨11, true⟩ .bf16 .rdn true (.v 29) 22) ∧
    decode .c 0xAB5B5802 0x00000000 = .ok (.aadd 10 27 22) ∧
    decode .c 0xFB5B4E23 0x00000000 = .ok (.ald 15 27 (.v 19) (.lq 2)) ∧
    decode .c 0x4B655804 0x02E00001 = .ok (.ast 4 ⟨11, true⟩ (.sq 1) 22 true) ∧
    decode .c 0x9B5D5805 0x00000000 = .ok (.ahdr 9 (.v 29) 22) ∧
    decode .c 0xEB5B5806 0x00000000 = .ok (.amov 14 27 22) := by
  exact ⟨rfl, rfl, rfl, rfl, rfl, rfl, rfl⟩

/-- OP 0x2E (R119 to R128): `gemvgo`, `gemvwait`. -/
theorem test_decode_op2E :
    decode .c 0x3BB30000 0x00000B35 = .ok (.gemvgo 3 3 0xb35) ∧
    decode .c 0x8B80C401 0x00000000 = .ok (.gemvwait 8 1) := by
  exact ⟨rfl, rfl⟩

/-- Pitch words (R355, R356). -/
theorem test_decode_pitch_memory :
    readPitch 0x00000000 = some (.pnop) ∧
    readPitch 0x06002A35 = some (.pldp 8 2 0xA35) ∧
    readPitch 0x0AC03A35 = some (.pstp 11 3 0xA35) ∧
    readPitch 0x0F801002 = some (.phdr 14 1 2) ∧
    readPitch 0x10402001 = some (.pldf 1 2 true) ∧
    readPitch 0x15003001 = some (.pstf 4 3 true) ∧
    readPitch 0x19F01001 = some (.pldfx 7 12 1 true) ∧
    readPitch 0x1E8C2001 = some (.pstfx 10 3 2 true) := by
  exact ⟨rfl, rfl, rfl, rfl, rfl, rfl, rfl, rfl⟩

/-- Pitch words (R355, R356). -/
theorem test_decode_pitch_arithmetic :
    readPitch 0x43687000 = some (.padd 13 10 1 3) ∧
    readPitch 0x44059000 = some (.psub 0 1 6 1) ∧
    readPitch 0x48E2E000 = some (.pmul 3 8 11 2) ∧
    readPitch 0x4DBC3000 = some (.pvand 6 15 0 3) ∧
    readPitch 0x52595000 = some (.pvor 9 6 5 1) ∧
    readPitch 0x5736A000 = some (.pvxor 12 13 10 2) ∧
    readPitch 0x5BD3F000 = some (.pshl 15 4 15 3) ∧
    readPitch 0x5CAD1000 = some (.pshr 2 11 4 1) ∧
    readPitch 0x614A6000 = some (.psra 5 2 9 2) ∧
    readPitch 0x6627B000 = some (.pmin 8 9 14 3) ∧
    readPitch 0x6AC0D000 = some (.pmax 11 0 3 1) ∧
    readPitch 0x6F9E2000 = some (.pmaxn 14 7 8 2) ∧
    readPitch 0x747B7000 = some (.pfxa 1 14 13 3) ∧
    readPitch 0x79141A35 = some (.paddi 4 5 1 0xA35) ∧
    readPitch 0x7DE8E5C1 = some (.pmovi 7 2 0xA35C1) := by
  exact ⟨rfl, rfl, rfl, rfl, rfl, rfl, rfl, rfl, rfl, rfl, rfl, rfl, rfl, rfl, rfl⟩

/-- Pitch words (R355, R356). -/
theorem test_decode_pitch_control :
    readPitch 0x80CF3000 = some (.pceq 3 3 12 3) ∧
    readPitch 0x84685000 = some (.pclt 1 10 1 1) ∧
    readPitch 0x8885A000 = some (.pcltn 2 1 6 2) ∧
    readPitch 0x8CC2F5A3 = some (.pmask 3 3 0xB5A3) ∧
    readPitch 0x91BC1000 = some (.psel 6 15 0 1) ∧
    readPitch 0x9658200D = some (.pbcl 9 6 2 13) ∧
    readPitch 0xA00C0A35 = some (.pbany 3 0xA35) ∧
    readPitch 0xA4000A35 = some (.pj 0xA35) ∧
    readPitch 0xA8000955 = some (.prepn 37 21) ∧
    readPitch 0xC0000000 = some (.pfwd) ∧
    readPitch 0xC4000000 = some (.pdrop) ∧
    readPitch 0xC800009C = some (.penq 0 0x9C) ∧
    readPitch 0xCC000015 = some (.pemit 21) := by
  exact ⟨rfl, rfl, rfl, rfl, rfl, rfl, rfl, rfl, rfl, rfl, rfl, rfl, rfl⟩

/-- Command descriptors (R90, R404): OP in [15:0], TAG in [31:16], then the operands in order. -/
theorem test_decode_command_records :
    readDescriptor [0xBEEF0001, 4097, 8193, 12289] = .recBind 0xBEEF 4097 8193 12289 ∧
    readDescriptor [0xBEEF0002, 4098, 8194] = .recFree 0xBEEF 4098 8194 ∧
    readDescriptor [0xBEEF0003, 4099, 8195, 12291, 16387] = .recWrite 0xBEEF 4099 8195 12291 16387 ∧
    readDescriptor [0xBEEF0004, 4100] = .recArm 0xBEEF 4100 ∧
    readDescriptor [0xBEEF0005, 4101, 8197] = .graphArm 0xBEEF 4101 8197 ∧
    readDescriptor [0xBEEF0006, 4102] = .recCancel 0xBEEF 4102 ∧
    readDescriptor [0xBEEF0010, 4112, 8208, 12304, 16400] = .wqConfig 0xBEEF 4112 8208 12304 16400 ∧
    readDescriptor [0xBEEF0011, 4113, 8209] = .wqPush 0xBEEF 4113 8209 := by
  exact ⟨rfl, rfl, rfl, rfl, rfl, rfl, rfl, rfl⟩

/-- Command descriptors (R90, R404): OP in [15:0], TAG in [31:16], then the operands in order. -/
theorem test_decode_command_contexts :
    readDescriptor [0xBEEF0020, 4128, 8224, 12320, 16416] = .ctxCreate 0xBEEF 4128 8224 12320 16416 ∧
    readDescriptor [0xBEEF0021, 4129] = .ctxDestroy 0xBEEF 4129 ∧
    readDescriptor [0xBEEF0022, 4130, 8226] = .allow 0xBEEF 4130 8226 ∧
    readDescriptor [0xBEEF0023, 4131, 8227] = .stripe 0xBEEF 4131 8227 ∧
    readDescriptor [0xBEEF0024, 4132, 8228, 12324, 16420, 20516, 24612] = .image 0xBEEF 4132 8228 12324 16420 20516 24612 ∧
    readDescriptor [0xBEEF0025, 4133, 8229, 12325] = .bind 0xBEEF 4133 8229 12325 ∧
    readDescriptor [0xBEEF0026, 4134, 8230] = .tlbInval 0xBEEF 4134 8230 ∧
    readDescriptor [0xBEEF0027, 4135, 8231] = .pageMove 0xBEEF 4135 8231 ∧
    readDescriptor [0xBEEF0028, 4136, 8232, 12328] = .evq 0xBEEF 4136 8232 12328 ∧
    readDescriptor [0xBEEF0029, 4137, 8233, 12329] = .memWrite 0xBEEF 4137 8233 12329 ∧
    readDescriptor [0xBEEF002A, 4138, 8234, 12330] = .memRead 0xBEEF 4138 8234 12330 ∧
    readDescriptor [0xBEEF002B, 4139, 8235, 12331] = .physWrite 0xBEEF 4139 8235 12331 ∧
    readDescriptor [0xBEEF002C, 4140, 8236, 12332] = .physRead 0xBEEF 4140 8236 12332 := by
  exact ⟨rfl, rfl, rfl, rfl, rfl, rfl, rfl, rfl, rfl, rfl, rfl, rfl, rfl⟩

/-- Command descriptors (R90, R404): OP in [15:0], TAG in [31:16], then the operands in order. -/
theorem test_decode_command_package :
    readDescriptor [0xBEEF0030, 4144, 8240, 12336, 16432] = .psrWrite 0xBEEF 4144 8240 12336 16432 ∧
    readDescriptor [0xBEEF0031, 4145, 8241] = .classTarget 0xBEEF 4145 8241 ∧
    readDescriptor [0xBEEF0032, 4146, 8242] = .opPoint 0xBEEF 4146 8242 ∧
    readDescriptor [0xBEEF0040, 4160, 8256, 12352, 16448, 20544] = .flowWrite 0xBEEF 4160 8256 12352 16448 20544 ∧
    readDescriptor [0xBEEF0041, 4161, 8257, 12353, 16449, 20545] = .classify 0xBEEF 4161 8257 12353 16449 20545 ∧
    readDescriptor [0xBEEF0042, 4162, 8258, 12354, 16450, 20546] = .kernelLoad 0xBEEF 4162 8258 12354 16450 20546 ∧
    readDescriptor [0xBEEF0050, 4176, 8272] = .taskResume 0xBEEF 4176 8272 ∧
    readDescriptor [0xBEEF0051, 4177, 8273] = .launchStats 0xBEEF 4177 8273 ∧
    readDescriptor [0xBEEF0060, 4192] = .configRead 0xBEEF 4192 ∧
    readDescriptor [0xBEEF0061, 4193, 8289] = .errRead 0xBEEF 4193 8289 ∧
    readDescriptor [0xBEEF0070, 4208, 8304] = .attest 0xBEEF 4208 8304 ∧
    readDescriptor [0xBEEF0007] = .unsupportedCommand 0xBEEF 7 := by
  exact ⟨rfl, rfl, rfl, rfl, rfl, rfl, rfl, rfl, rfl, rfl, rfl, rfl⟩

/-! ### Small states -/

/-- Task 0 as `placeProgram` puts it on core 0 of die 0. -/
def tk : Task :=
  Task.start 0 { LaunchRec.free with ctx := some 0, state := .running } 0 0 TaskType.placed 0 0 0 0 0 noShape

/-- That task after a change, with its sequencer `q` moving. -/
def st (q : Seq) (f : Task → Task) : State :=
  let s := State.reset.placeProgram q []
  { s with cur := .seq 0 q, agenda := [], tasks := [(0, f tk)] }

/-- A scalar register of a task set. -/
def reg (q : Seq) (r : SReg) (v : Word) (t : Task) : Task :=
  t.modSq q fun x => { x with regs := Assoc.set 0 x.regs r.code v }

/-- The task an outcome leaves under number 0. -/
def after (o : Host.Outcome State Fault Refusal) : Option Task :=
  match o with
  | .next s => Assoc.find s.tasks 0
  | .fault _ => none
  | .refused _ => none

/-- What a sequencer's register holds once an instruction of that sequencer has run and its write has landed. -/
def result (q : Seq) (f : Task → Task) (i : Instr) (r : SReg) : Option Word :=
  (after (exec i (st q f))).map fun t => ((t.modSq q fun x => { x with clk := x.clk + 64 }).land q).sq q |>.regAt r.code

/-! ### What meets the hypotheses of the statements -/

/-- A handler that its task runs. -/
def handling (late : List LateWrite) (t : Task) : Task :=
  { t with handler := some { clk := 9, stall := 2, late := [] }, kq := { t.kq with late := late }, tpck := 0x40 }

/-- A result of 7 pending on x3 to the end of cycle 5. -/
def shadow : LateWrite := { land := 5, what := .sreg 3 7 }

/-- A result of 9 that has returned, of x3. -/
def anIlk (land : Option Nat) : Ilk := { code := 3, val := some 9, uid := 0, handler := false, land := land }

theorem meets_AluResults :
    Ready (st .k id) 0 .k tk [.s (SReg.x 31).code, .s (SReg.x 1).code, .s (SReg.x 0).code] ∧
    Ready (st .w id) 0 .w tk [.s (SReg.a 15).code, .s (SReg.a 0).code, .s (SReg.lc 3).code] := by
  unfold Ready; decide +kernel

theorem meets_MulDivAndImmediateResults :
    Ready (st .l id) 0 .l tk [.s (SReg.a 15).code, .s (SReg.a 1).code, .s (SReg.x 0).code] ∧
    Ready (st .k id) 0 .k tk [.s (SReg.x 0).code, .s (SReg.lc 0).code] := by
  unfold Ready; decide +kernel

theorem meets_BranchAndJumpTargets :
    Ready (st .w id) 0 .w tk [.s (SReg.a 15).code, .s (SReg.x 0).code] ∧ Seq.w ≠ .c ∧
    (∀ v : Fin 5, let f := reg .k (.x 5) (BitVec.ofNat 64 (4 + v.val));
      Ready (st .k f) 0 .k (f tk) [.s (SReg.x 1).code, .s (SReg.x 5).code] ∧
      (((f tk).kq.rd (.x 5)).toNat % 4 = 0 ↔ v.val = 0 ∨ v.val = 4)) := by
  unfold Ready; decide +kernel

theorem meets_LoopCounters : ∀ v : Fin 3, ∀ l : Fin 4,
    let f := reg .l (.lc l) (BitVec.ofNat 64 v.val);
    Ready (st .l f) 0 .l (f tk) [.s (48 + l.val)] ∧ Seq.l ≠ .c ∧ (((f tk).lq.rd (.lc l)) = 0 ↔ v = 0) := by
  unfold Ready; decide +kernel

theorem meets_PendingRegistersHold :
    (let f := fun t : Task => { t with kq := { t.kq with ilk := [{ code := 3, val := none, uid := 0, handler := false, land := none }] } };
      (st .k f).cur = .seq 0 .k ∧ Assoc.find (st .k f).tasks 0 = some (f tk) ∧
      (∀ l ∈ [[SReg.x 3, .x 1, .x 2], [.x 1, .x 3, .x 2], [.x 1, .x 2, .x 3]], SReg.x 3 ∈ l) ∧
      (((f tk).land .k).sq .k).interlocked (.s (SReg.x 3).code) = true) ∧
    (let f := fun t : Task => { t with tt := { t.tt with chk := true }, kq := { t.kq with late := [shadow] } };
      (st .k f).cur = .seq 0 .k ∧ Assoc.find (st .k f).tasks 0 = some (f tk) ∧ (f tk).tt.chk = true ∧
      (((f tk).land .k).sq .k).shadowed (.s (SReg.x 3).code) = true ∧ (((f tk).land .k).sq .k).ilk = [] ∧
      (((f tk).land .k).sq .k).atIssue = none) := by
  decide +kernel

theorem meets_ScalarFrame : ∃ s' t', scalarOnly (.add 0 (.a 3) (.a 1) (.a 2)) = true ∧ Seq.l ≠ .c ∧
    (st .l id).cur = .seq 0 .l ∧ Assoc.find (st .l id).tasks 0 = some tk ∧ ScalarLate (tk.sq .l) ∧ RegsOk (tk.sq .l) ∧
    tk.tt.chk = false ∧ exec (.add 0 (.a 3) (.a 1) (.a 2)) (st .l id) = .next s' ∧ Assoc.find s'.tasks 0 = some t' ∧
    (tk.sq .l).late = [] ∧ ∀ i ∈ (tk.sq .l).ilk, i.land = none :=
  ⟨_, _, rfl, by decide, rfl, rfl, (by intro e he; cases he), rfl, rfl, rfl, rfl, rfl, (by intro i hi; cases hi)⟩

theorem meets_SysRegisterAccess :
    Ready (st .k id) 0 .k tk [.s (SReg.x 31).code, .s (SReg.x 1).code] ∧ tk.handler = none ∧
    (let f := handling [];
      Ready (st .k f) 0 .k (f tk) [.s (SReg.x 31).code, .s (SReg.x 1).code] ∧ (f tk).handler.isSome = true) := by
  unfold Ready; decide +kernel

theorem meets_TrapsAndDoubleTraps :
    (Assoc.find (st .w id).tasks 0 = some tk ∧ tk.handler = none ∧ tk.popped = none ∧ tk.sync = none) ∧
    (let f := handling [];
      Assoc.find (st .k f).tasks 0 = some (f tk) ∧ (f tk).handler.isSome = true ∧ TasksOk (st .k f)) := by
  unfold TasksOk; decide +kernel

theorem meets_ReturnFromTrap :
    (Ready (st .k id) 0 .k tk [] ∧ tk.handler = none) ∧
    (let f := handling [];
      Ready (st .k f) 0 .k (f tk) [] ∧ (f tk).handler = some { clk := 9, stall := 2, late := [] } ∧ (f tk).kq.late = [] ∧
      (f tk).kq.ilk = []) ∧
    (let f := handling [shadow];
      Ready (st .k f) 0 .k (f tk) [] ∧ (f tk).handler = some { clk := 9, stall := 2, late := [] } ∧
      (f tk).kq.late ≠ []) ∧
    (let f := fun t => let t := handling [] t; { t with kq := { t.kq with ilk := [{ anIlk none with handler := true }] } };
      Ready (st .k f) 0 .k (f tk) [] ∧ (f tk).handler.isSome = true ∧ ∃ i ∈ (f tk).kq.ilk, i.handler = true) := by
  unfold Ready; decide +kernel

/-- The task has an operation of the copy engine that has not retired. -/
def forked (e : Engine) (t : Task) : Task :=
  { t with eng := [EngOp.new 7 e .k 1 (some 0) .none []], kq := { t.kq with forks := 1 } }

theorem meets_TendRetires :
    (let f := fun t => { forked .copy t with life := .ending };
      Ready (st .k f) 0 .k (f tk) [] ∧ (f tk).life = .ending ∧ (f tk).busy = true) ∧
    (let f := fun t : Task => { t with life := .ending };
      Ready (st .k f) 0 .k (f tk) [] ∧ (f tk).life = .ending ∧ (f tk).busy = false ∧ (f tk).faults = [] ∧ (f tk).sync = none ∧
      (f tk).members = [] ∧ (st .k f).barriers = [] ∧ TasksOk (st .k f)) ∧
    (Ready (st .k id) 0 .k tk [] ∧ tk.life ≠ .ending ∧ tk.beginEnd.busy = false ∧ tk.openBatch.ops = [] ∧
      tk.faults = [] ∧ tk.sync = none ∧ tk.members = [] ∧ (st .k id).barriers = [] ∧ TasksOk (st .k id)) := by
  unfold Ready TasksOk; decide +kernel

/-- The state with record 0 as it stands and record `n` as `r`. -/
def withRec (s : State) (n : Nat) (r : LaunchRec) : State := { s with recs := Assoc.put s.recs n r }

/-- A record bound to context 0. -/
def rec0 (x : RecState) (word6 : Word) : LaunchRec :=
  { LaunchRec.free with ctx := some 0, state := x, words := Assoc.set 0 [] 6 word6 }

/-- MINDIE and MAXDIE 1, and the record's own counter. -/
def goodWord : Word := 0x100000008800

theorem meets_ScalarStores :
    (∀ v : Fin 4, ∀ o ∈ [(0, Place.spad 0), (0xFFFF8, .spad 0xFFFF8), (0x140000, .md 0), (0x147FF8, .md 0x7FF8)],
      let f := reg .k (.x 1) (BitVec.ofNat 64 (0xFF0 * 2 ^ 48 + o.1));
      Ready (st .k f) 0 .k (f tk) [.s (SReg.x 0).code, .s (SReg.x 1).code] ∧ NothingHeld (f tk) ∧ MemoriesOk (st .k f) (f tk) ∧
      (scalarAccess (f tk) (.x 1) v 0).toNat < 2 ^ 60 ∧ (scalarAccess (f tk) (.x 1) v 0).toNat % 2 ^ v.val = 0 ∧
      (seen (st .k f) 0 (f tk)).resolve (f tk) (scalarAccess (f tk) (.x 1) v 0).toNat .write = .ok o.2 ∧
      byteWindow o.2 = true ∧ (f tk).holdsWrite o.2 (2 ^ v.val) = false) ∧
    (∀ v : Fin 4, let f := reg .k (.x 1) 0x1FFFF8;
      Ready (st .k f) 0 .k (f tk) [.s (SReg.x 2).code, .s (SReg.x 1).code] ∧ NothingHeld (f tk) ∧ MemoriesOk (st .k f) (f tk) ∧
      (scalarAccess (f tk) (.x 1) v 0).toNat < 2 ^ 60 ∧ (scalarAccess (f tk) (.x 1) v 0).toNat % 2 ^ v.val = 0 ∧
      0x1FFFF8 % 2 ^ v.val = 0 ∧
      (seen (st .k f) 0 (f tk)).resolve (f tk) (scalarAccess (f tk) (.x 1) v 0).toNat .write = .ok (.phys 0x1FFFF8 false) ∧
      isHostPa 0x1FFFF8 = false ∧
      ∀ l ∈ (st .k f).lines (32 * (f tk).die + (f tk).core), l.s0.dirty = false ∧ l.s1.dirty = false) := by
  unfold Ready NothingHeld MemoriesOk
  exact ⟨by decide +kernel, by decide +kernel⟩

/-- A fence of the K-seq holds the page walks and the engine starts that follow it. -/
def walled (t : Task) : Task :=
  { t with kq := { t.kq with barriers := [{ id := 5, preds := [9], holds := 12, wb := false, inv := false, scope := 1,
                                            partner := none, k := 0, fork := none }],
                             held := [{ uid := 9, acc := .load 0 3 (.spad 0), after := [4] }] } }

theorem meets_ScalarAccessTraps :
    (let f := reg .k (.x 1) (2 ^ 60);
      Ready (st .k f) 0 .k (f tk) [.s (SReg.x 2).code, .s (SReg.x 1).code] ∧
      2 ^ 60 ≤ (scalarAccess (f tk) (.x 1) 3 0).toNat) ∧
    (let f := reg .k (.x 1) (2 ^ 60 - 1);
      Ready (st .k f) 0 .k (f tk) [.s (SReg.x 2).code, .s (SReg.x 1).code] ∧
      (scalarAccess (f tk) (.x 1) 1 0).toNat < 2 ^ 60 ∧ (scalarAccess (f tk) (.x 1) 1 0).toNat % 2 ≠ 0) ∧
    (let f := reg .k (.x 1) (2 ^ 21);
      Ready (st .k f) 0 .k (f tk) [.s (SReg.x 2).code, .s (SReg.x 1).code] ∧
      (scalarAccess (f tk) (.x 1) 3 0).toNat < 2 ^ 60 ∧ (scalarAccess (f tk) (.x 1) 3 0).toNat % 8 = 0 ∧
      (seen (st .k f) 0 (f tk)).resolve (f tk) (scalarAccess (f tk) (.x 1) 3 0).toNat .read = .error (.translation 1) ∧
      (seen (st .k f) 0 (f tk)).resolve (f tk) (scalarAccess (f tk) (.x 1) 3 0).toNat .write = .error (.translation 1)) ∧
    (∀ e ∈ [(0x200000, Except.error Refuse.address), (0x100000, .ok (.acc 0))],
      let f := reg .k (.x 1) (BitVec.ofNat 64 (0xFF0 * 2 ^ 48 + e.1));
      Ready (st .k f) 0 .k (f tk) [.s (SReg.x 2).code, .s (SReg.x 1).code] ∧
      (scalarAccess (f tk) (.x 1) 2 0).toNat < 2 ^ 60 ∧ (scalarAccess (f tk) (.x 1) 2 0).toNat % 4 = 0 ∧
      ∀ n ∈ [Need.read, .write], (seen (st .k f) 0 (f tk)).resolve (f tk) (scalarAccess (f tk) (.x 1) 2 0).toNat n = e.2) ∧
    (let f := reg .k (.x 1) (2 ^ 21);
      let s := { st .k f with poison := [(.tlb 0 0 0 (2 ^ 21), 5)],
                              coreTlb := [(0, [{ asid := 0, vbase := 2 ^ 21, size := 2 ^ 16, pbase := 0, perm := 7, mtype := 0 }])] };
      Ready s 0 .k (f tk) [.s (SReg.x 2).code, .s (SReg.x 1).code] ∧
      ∀ n ∈ [Need.read, .write],
        (seen s 0 (f tk)).resolve (f tk) (scalarAccess (f tk) (.x 1) 3 0).toNat n = .error (.translation (16 + 5))) ∧
    (∀ b ∈ [false, true], let f := fun t => reg .k (.x 1) (2 ^ 22) (if b then walled t else t);
      Ready (st .k f) 0 .k (f tk) [.s (SReg.x 2).code, .s (SReg.x 1).code] ∧
      (scalarAccess (f tk) (.x 1) 3 0).toNat = 2 ^ 22 ∧ (seen (st .k f) 0 (f tk)).walkHeld (f tk) .k (2 ^ 22) 8 = b) := by
  unfold Ready; and_intros <;> decide +kernel

theorem meets_ScalarLoads :
    (∀ v : Fin 4, let f := reg .k (.x 1) 0x0FF00000000FFFF8;
      Ready (st .k f) 0 .k (f tk) [.s (SReg.x 31).code, .s (SReg.x 1).code] ∧ NothingHeld (f tk) ∧ MemoriesOk (st .k f) (f tk) ∧
      (SReg.x 31).code ≠ 0 ∧ (∀ i ∈ (f tk).kq.ilk, i.land = none ∧ (i.val = none → i.uid ≠ (st .k f).uid)) ∧
      (scalarAccess (f tk) (.x 1) v 0).toNat < 2 ^ 60 ∧ (scalarAccess (f tk) (.x 1) v 0).toNat % 2 ^ v.val = 0 ∧
      (seen (st .k f) 0 (f tk)).resolve (f tk) (scalarAccess (f tk) (.x 1) v 0).toNat .read = .ok (.spad 0xFFFF8) ∧
      byteWindow (.spad 0xFFFF8) = true ∧ (st .k f).poison = []) ∧
    (let f := fun t : Task => { t with kq := { t.kq with ilk := [anIlk (some 5), anIlk none] } };
      Assoc.find (st .k f).tasks 0 = some (f tk) ∧ (st .k f).moves (f tk) = true ∧ RegsOk ((f tk).sq .k) ∧
      ((f tk).sq .k).ilk = [anIlk (some 5)] ++ anIlk none :: [] ∧ (anIlk (some 5)).land ≠ none ∧ (anIlk none).land = none ∧
      (anIlk none).val.isSome = true ∧ (anIlk none).code ≠ 0) := by
  unfold Ready NothingHeld MemoriesOk RegsOk; decide +kernel

/-- A fence of the K-seq that waits for nothing more. -/
def fenced (t : Task) : Task :=
  { t with kq := { t.kq with barriers := [{ id := 5, preds := [], holds := 1, wb := false, inv := false, scope := 1,
                                            partner := none, k := 0, fork := none }] } }

theorem meets_TokenQueues :
    (Ready (st .k id) 0 .k tk [.s (SReg.x 3).code] ∧ (tk.sq .k).fencing = false ∧
      (tk.tokensOf (tokenQueue .k .l)).length < tk.tt.slip ∧ tk.tokensOf (tokenQueue .l .k) = []) ∧
    (Ready (st .k fenced) 0 .k (fenced tk) [.s (SReg.x 3).code] ∧ ((fenced tk).sq .k).fencing = true) ∧
    (∀ n ∈ [63, 64], let f := fun t : Task => { t with tokens := [(tokenQueue .k .l, List.replicate n []), (tokenQueue .l .k, [[]])] };
      Ready (st .k f) 0 .k (f tk) [.s (SReg.x 3).code] ∧
      ((f tk).tt.slip ≤ ((f tk).tokensOf (tokenQueue .k .l)).length ↔ n = 64) ∧
      (f tk).tokensOf (tokenQueue .l .k) = [[]]) ∧
    (∀ u ∈ [8, 9], let h : Held := { uid := 9, acc := .store 0 3 0 (.spad 0), after := [4] };
      let f := fun t : Task => { t with tokens := [(tokenQueue .l .k, [[u]])], kq := { t.kq with held := [h] } };
      Ready (st .k f) 0 .k (f tk) [.s (SReg.x 3).code] ∧ (f tk).tokensOf (tokenQueue .l .k) = [[u]] ∧
      (u ∈ (f tk).outstanding ↔ u = 9) ∧ u ∉ (f tk).heldWrites) := by
  unfold Ready; decide +kernel

/-- Task 0 with a record index and a word number in x1, beside record 1 as `r`. -/
def patching (r : LaunchRec) (v : Word) : State := withRec (st .k (reg .k (.x 1) v)) 1 r

/-- A request of the task is next at the hub. -/
def asking (req : HubReq) (t : Task) : Task := { t with hubq := [{ uid := 9, req := req, after := [] }] }

/-- It arrives as the next step. -/
def Arrives (s : State) (t : Task) : Prop :=
  Assoc.find s.tasks 0 = some t ∧ s.moves t = true ∧ t.kq.returned = none ∧ t.hubq.length = 1 ∧
  ∀ h ∈ t.hubq, t.clear h.after = true

theorem meets_LaunchRecords :
    Ready (st .k id) 0 .k tk [.s (SReg.x 3).code, .s (SReg.x 1).code, .s (SReg.x 2).code] ∧
    (∀ r ∈ [LaunchRec.free, rec0 .armed 0, rec0 .idle 0, rec0 .done 0, rec0 .idle goodWord],
      ∀ q ∈ [HubReq.patch 1 27 5, .patch 1 28 5, .arm 1],
        let s := withRec (st .k (asking q)) 1 r; Arrives s (asking q tk) ∧ s.poison = [] ∧ s.lrec 1 = r) ∧
    LaunchRec.free.ctx ≠ some tk.ctx ∧
    ((rec0 .armed 0).ctx = some tk.ctx ∧ (rec0 .armed 0).state ≠ .idle ∧ (rec0 .armed 0).state ≠ .done) ∧
    ((rec0 .idle 0).state = .idle ∧ (rec0 .idle 0).fieldsOk = false) ∧
    (let r := rec0 .idle goodWord;
      r.fieldsOk = true ∧ (seen (patching r 1) 0 (reg .k (.x 1) 1 tk)).objectsOk 1 tk.ctx r = true ∧
      (r.kind = 0 → r.gang = true → r.total ≤ 128 * r.maxDie)) := by
  unfold Ready Arrives
  decide +kernel

/-- Task 0 with queue 5 of `ctx`, its number in x1. -/
def queueing (ctx : Nat) (es : List Word) (n : Word) : State :=
  { st .k (reg .k (.x 1) n) with queues := [(5, { ctx := ctx, k := 1, fixed := false, entries := es, waiters := [], taken := 0 })] }

theorem meets_QueuesAndIdentity :
    (∀ e ∈ [(0, [], (5 : Word)), (0, [1], 5), (0, [1, 2], 5), (1, [], 5), (0, [], 256)],
      let f := reg .k (.x 1) e.2.2;
      Ready (queueing e.1 e.2.1 e.2.2) 0 .k (f tk) [.s (SReg.x 3).code, .s (SReg.x 1).code, .s (SReg.x 2).code] ∧
      ((f tk).sq .k).wait = none ∧ (f tk).popped = none ∧ (f tk).hubq = [] ∧ (queueing e.1 e.2.1 e.2.2).poison = []) ∧
    (let f := fun t => asking (.stat 0) (reg .k (.x 1) 5 t); (f tk).hubq ≠ []) ∧
    (∀ es ∈ [[], [1], [1, 2]], ∀ c ∈ [0, 1], ∀ q ∈ [HubReq.stat 0, .push 5 3, .len 5],
      let s := { queueing c es 5 with tasks := [(0, asking q tk)] };
      Arrives s (asking q tk) ∧ (Assoc.find s.queues 5).map (fun k => (k.ctx, k.entries, decide (k.entries.length < 2 ^ k.k))) =
        some (c, es, decide (es ≠ [1, 2]))) ∧
    (let f := fun t : Task => { t with popped := some (5, 3, 9) }; Ready (st .k f) 0 .k (f tk) [.s (SReg.x 3).code]) ∧
    (∀ m ∈ [0, 2], let s := (st .k id).setCore 0 0 { CoreState.start with mode := m };
      Ready s 0 .k tk [.s (SReg.x 3).code] ∧ ((s.core tk.die tk.core).mode = 0 ↔ m = 0)) ∧
    (∀ es : Fin 3, let l := (List.range es.val).map (BitVec.ofNat 64);
      (Assoc.find (queueing 0 l 5).queues 5 = some { ctx := 0, k := 1, fixed := false, entries := l, waiters := [], taken := 0 }) ∧
      (l.length < 2 ^ 1 ↔ es.val ≤ 1) ∧ (2 ^ 1 ≤ l.length ↔ es.val = 2) ∧ (l = [] ↔ es.val = 0)) ∧
    (∀ k, Assoc.find (queueing 1 [] 5).queues 5 = some k → k.ctx ≠ tk.ctx) ∧ 256 ≤ (256 : Word).toNat ∧
    (Ready (st .k id) 0 .k tk [.s (SReg.x 3).code, .s (SReg.x 1).code, .s (SReg.x 2).code] ∧
      (st .k id).domain ≤ 1 ∧ (st .k id).pkgIndex = 0 ∧ 0 < (st .k id).domain ∧
      (st .k id).physDie 0 0 = some 0 ∧ (st .k id).physDie 0 1 = none ∧
      ({ st .k id with ctxs := [(0, { asid := 0, root := 0, job := 0, allow := 3, vdies := [(0, 0), (1, 3)], stripe := 0, image := none, interval := 0, evq := none, produced := 0, lost := 0 })] } : State).physDie 0 1 = some 3) := by
  unfold Ready Arrives
  and_intros <;> decide +kernel

/-- A descriptor of `rows` rows of 16 f16 elements at offset 0, on side A or B. -/
def desc (side : Bool) : Desc :=
  { moff := 0, sparse := false, tag0 := 0, soff := 0, eoff := 0, pitch := 32, klen := 16, rows := 16, side := side, blk := 0,
    ty := .f16 }

/-- The words of such a descriptor at offset 0 of the scratchpad. -/
def described (t : Task) : Task :=
  { t with spad := writeBytes [] 0 (toBytes 32 (2 + 16 * 2 ^ 8 + 16 * 2 ^ 18 + 32 * 2 ^ 38)) }

/-- Four lots, their shape at width 16, and a selector on either side. -/
def shaped (t : Task) : Task :=
  { t with lots := 4, demand := 2, shape := shapeWord 2 63 3 64 4,
           selectors := [(0, { desc := desc false, cur := 0 }), (1, { desc := desc true, cur := 0 })] }

/-- A product of two chunks onto the tiles from 0 on. -/
def product (t : Task) : MatOp :=
  (shaped t).product .c 3 0 { desc := desc false, cur := 0 } { desc := desc true, cur := 0 } 2 false

/-- That product committed. -/
def committed (t : Task) : Task :=
  { shaped t with batches := [{ num := some 1, ops := [product t], planned := 0 }], batchCtr := 1 }

/-- A set that walks generator 0, or waits behind it. -/
def aset : AgSet := { par := AgParams.start, uid := 3, after := [], xl := [] }

/-- Generator 0 of the L-seq as `g`. -/
def gen0 (g : Gen) (t : Task) : Task := { t with gens := Assoc.set Gen.start [] 0 g }

/-- Generator 4 has written one operand of packed lanes, which end inside a period whose bytes run from chunk 0 into chunk 1, at the
scratchpad's start. -/
def tailed (t : Task) : Task :=
  let p : AgParams := { AgParams.start with base := 0xFF0000000000800, chunk := 10, bound := [(0, 4)], stride := [(0, -2048)],
                                            unp := true, per := 23, nf := 2 }
  { t with gens := [(4, { Gen.start with active := some { aset with par := p }, pos := 1 })] }

theorem meets_GeneratorInstructions :
    Ready (st .l id) 0 .l tk [.s (SReg.a 3).code, .s (SReg.a 1).code] ∧ Assoc.wf Gen.start tk.gens = true ∧
    (tk.gen 0).active = none ∧ (tk.gen 0).queued = none ∧ (tk.gen 0).halt = none ∧ (tk.gen 0).shadow.refused = false ∧
    (tk.gen 0).shadow.operands ≠ 0 ∧ (tk.gen 0).busy = false ∧
    (∀ g ∈ [{ Gen.start with shadow := { AgParams.start with chunk := 13 } }, { Gen.start with active := some aset },
        { Gen.start with active := some aset, busy := true }, { Gen.start with halt := some { cause := 2, addr := 64 } }],
      Ready (st .l (gen0 g)) 0 .l (gen0 g tk) [.s (SReg.a 3).code] ∧ Assoc.wf Gen.start (gen0 g tk).gens = true ∧
      (gen0 g tk).gen 0 = g) ∧
    (∀ b ∈ [false, true], let f := fun t => tailed (if b then committed t else t);
      Ready (st .w f) 0 .w (f tk) [.s (SReg.a 3).code] ∧ Assoc.wf Gen.start (f tk).gens = true ∧ ((f tk).gen 4).busy = false ∧
      ((f tk).gen 4).halt = none ∧
      ((f tk).gen 4).active.map (fun a => (f tk).partsHeld ((seen (st .w f) 0 (f tk)).tailParts (f tk) ((f tk).gen 4) a.par)) =
        some b) ∧
    ({ AgParams.start with chunk := 13 } : AgParams).refused = true ∧ (1 : Fin 5) ≠ 0 := by
  unfold Ready; decide +kernel

theorem meets_PortAndCacheInstructions :
    (∀ v ∈ [64, 2 ^ 60, 2 ^ 60 - 1], let f := reg .l (.a 1) (BitVec.ofNat 64 v);
      Ready (st .l f) 0 .l (f tk) [.s (SReg.a 1).code] ∧ (((f tk).sq .l).rd (.a 1) + BitVec.ofInt 64 (0 * 4096)).toNat = v ∧
      (2 ^ 60 ≤ v ↔ v = 2 ^ 60) ∧ (v % 64 = 0 ↔ v ≠ 2 ^ 60 - 1)) ∧
    (∀ g < 8, (tk.gen g).active = none ∧ (tk.gen g).queued = none ∧ (tk.gen g).halt = none) ∧
    (∀ e ∈ [(2 ^ 60, 0), (0, 2 ^ 21 + 1), (2 ^ 60 - 1, 2 ^ 21), (0, 64)],
      let f := fun t => reg .l (.a 1) (BitVec.ofNat 64 e.1) (reg .l (.a 2) (BitVec.ofNat 64 e.2) t);
      Ready (st .l f) 0 .l (f tk) [.s (SReg.a 1).code, .s (SReg.a 2).code] ∧
      (((f tk).sq .l).rd (.a 1)).toNat = e.1 ∧ (((f tk).sq .l).rd (.a 2)).toNat = e.2) ∧
    ((seen (st .l id) 0 tk).checkVa tk 0 64 .nothing).toOption = some () ∧
    (let f := fun t => reg .l (.a 1) 0x0FF00000000FFFC0 (reg .l (.a 2) 64 t);
      Ready (st .l f) 0 .l (f tk) [.s (SReg.a 1).code, .s (SReg.a 2).code] ∧
      (((f tk).sq .l).rd (.a 1)).toNat = 0xFF0 * 2 ^ 48 + 0xFFFC0 ∧ 0xFFFC0 + 64 ≤ 32768 * (f tk).tt.spd ∧
      (f tk).tt.spd ≤ 32 ∧ 0xFFFC0 % 64 = 0 ∧ ((f tk).sq .l).barriers = [] ∧ NothingHeld (f tk) ∧
      MemoriesOk (st .l f) (f tk) ∧ (f tk).spadReserved 0xFFFC0 (0xFFFC0 + 64) = false) ∧
    (let f := fun t => reg .k (.x 1) (2 ^ 22) (reg .k (.x 2) 64 (walled t));
      Ready (st .k f) 0 .k (f tk) [.s (SReg.x 1).code, .s (SReg.x 2).code] ∧
      (seen (st .k f) 0 (f tk)).walkHeld (f tk) .k (2 ^ 22) 64 = true ∧ (seen (st .l id) 0 tk).walkHeld tk .l 0 64 = false) := by
  unfold Ready NothingHeld MemoriesOk
  and_intros <;> decide +kernel

/-- A mark of the L-seq towards the K-seq, waiting for its partner. -/
def marked (t : Task) : Task :=
  { t with lq := { t.lq with barriers := [{ id := 5, preds := [], holds := 15, wb := false, inv := false, scope := 0,
                                            partner := some Seq.k.code, k := 1, fork := none }] } }

theorem meets_FencesAndMarks :
    Ready (st .c id) 0 .c tk [] ∧ ¬((0 : BitVec 4) = 0 ∧ (1 : BitVec 5) = 0 ∧ false = false ∧ false = false) ∧
    (Seq.k ≠ .l ∧ Ready (st .k id) 0 .k tk [] ∧ tk.markOf .l .k (Assoc.get 0 (tk.sq .k).marks Seq.l.code + 1) = none) ∧
    (Ready (st .k marked) 0 .k (marked tk) [] ∧
      ((marked tk).markOf .l .k (Assoc.get 0 ((marked tk).sq .k).marks Seq.l.code + 1)).isSome = true) := by
  unfold Ready; decide +kernel

/-- Eight copies outstanding on the L-seq. -/
def crowded (t : Task) : Task :=
  { t with eng := (List.range 8).map fun n => EngOp.new n .copy .l (BitVec.ofNat 32 (n + 1)) none .none [] }

theorem meets_EngineForksAndJoins :
    (∀ e ∈ [(0, 47), (2 ^ 20 - 128, 48), (2 ^ 20, 0), (64, 0)],
      let f := fun t => reg .k (.x 1) (BitVec.ofNat 64 e.1) (reg .k (.x 2) (BitVec.ofNat 64 e.2) t);
      Ready (st .k f) 0 .k (f tk) [.s (SReg.x 3).code, .s (SReg.x 1).code, .s (SReg.x 2).code] ∧ RegsOk ((f tk).sq .k) ∧
      ((f tk).sq .k).late = [] ∧ (SReg.x 3).code ≠ 0 ∧ (((f tk).sq .k).rd (.x 1)).toNat = e.1 ∧
      (((f tk).sq .k).rd (.x 2)).toNat % 64 = e.2 ∧ (f tk).forkBlocked .k = false ∧ (f tk).walkBlocked = false ∧
      (e.1 < 2 ^ 20 → e.1 + 128 ≤ 32768 * (f tk).tt.spd) ∧ (f tk).clear ((f tk).forkAfter .k) = true ∧
      (f tk).clear ((f tk).sq .k).xlFences = true) ∧
    (∀ e ∈ [0, 64], let f := fun t => reg .k (.x 1) (BitVec.ofNat 64 e) (walled t);
      Ready (st .k f) 0 .k (f tk) [.s (SReg.x 3).code, .s (SReg.x 1).code, .s (SReg.x 2).code] ∧
      (f tk).clear ((f tk).forkAfter .k) = false ∧ (f tk).forkBlocked .k = false) ∧
    (Ready (st .l crowded) 0 .l (crowded tk) [.s (SReg.a 3).code, .s (SReg.a 1).code, .s (SReg.a 2).code] ∧
      RegsOk ((crowded tk).sq .l) ∧ ((crowded tk).sq .l).late = [] ∧ (crowded tk).forkBlocked .l = true) ∧
    (∀ n ∈ [0, 1, 2], let f := fun t => reg .k (.x 1) (BitVec.ofNat 64 n) (forked .copy t);
      Ready (st .k f) 0 .k (f tk) [.s (SReg.x 3).code, .s (SReg.x 1).code] ∧
      (precedes ((f tk).sq .k).forks (BitVec.ofNat 32 n) = true ↔ n = 2) ∧ (f tk).faults = [] ∧
      ((∃ o ∈ (f tk).eng, o.seq = Seq.k.code ∧ o.engine = .copy ∧
        covered ((f tk).sq .k).forks o.num (BitVec.ofNat 32 n) = true) ↔ n ≠ 0)) ∧
    (let f := reg .k (.x 1) (2 ^ 31); Ready (st .k f) 0 .k (f tk) [.s (SReg.x 3).code, .s (SReg.x 1).code] ∧
      (2 ^ 31 : BitVec 32) - ((f tk).sq .k).forks = 2 ^ 31 ∧ (2 ^ 31 : BitVec 32) - (f tk).walkCtr = 2 ^ 31) ∧
    (∀ n ∈ [0, 1, 2], let f := fun t => reg .k (.x 1) (BitVec.ofNat 64 n) { forked .tmu t with walkCtr := 1 };
      Ready (st .k f) 0 .k (f tk) [.s (SReg.x 3).code, .s (SReg.x 1).code] ∧
      (precedes (f tk).walkCtr (BitVec.ofNat 32 n) = true ↔ n = 2) ∧
      ((∃ o ∈ (f tk).eng, o.engine = .tmu ∧ covered (f tk).walkCtr o.num (BitVec.ofNat 32 n) = true) ↔ n ≠ 0) ∧
      ∀ o ∈ (f tk).eng, o.engine = .tmu → o.armed = none) ∧
    (let o := { EngOp.new 7 .tmu .k 1 (some 0) .none [] with armed := some (0, 1) };
      let f := fun t => reg .k (.x 1) 1 { t with walkCtr := 1, eng := [o] };
      Ready (st .k f) 0 .k (f tk) [.s (SReg.x 3).code, .s (SReg.x 1).code] ∧ o ∈ (f tk).eng ∧
      (f tk).eng.find? (fun o => o.engine == .tmu && (o.num == 1 && o.armed.isSome)) = some o) := by
  unfold Ready RegsOk
  and_intros <;> decide +kernel

/-- A pair of marks between the K-seq and the L-seq. -/
def paired (t : Task) : Task :=
  let b : Barrier := { id := 5, preds := [], holds := 15, wb := false, inv := false, scope := 0, partner := some Seq.l.code, k := 1, fork := none }
  { t with kq := { t.kq with barriers := [b], marks := [(Seq.l.code, 1)] },
           lq := { t.lq with barriers := [{ b with id := 6, partner := some Seq.k.code }], marks := [(Seq.k.code, 1)] } }

theorem meets_RecordsAndCounters :
    (let f := fun t => reg .k (.x 1) 64 { t with recs := [(64, [1, 2])] };
      Ready (st .k f) 0 .k (f tk) [.s (SReg.x 3).code, .s (SReg.x 1).code, .s (SReg.x 2).code] ∧
      (f tk).recs.find? (fun e => e.1 == (64 : Word)) = some (64, [1, 2]) ∧ ((f tk).kq.rd (.x 1)).toNat = 64 ∧
      ((f tk).sq .k).forking = false ∧ ((f tk).sq .k).marking = false ∧
      (seen (st .k f) 0 (f tk)).walkHeld (f tk) .k 64 64 = false ∧
      (seen (st .k f) 0 (f tk)).poisonAt (.rcache 0 64) = none) ∧
    (let f := fun t => reg .k (.x 1) (2 ^ 22) (walled t);
      Ready (st .k f) 0 .k (f tk) [.s (SReg.x 3).code, .s (SReg.x 1).code, .s (SReg.x 2).code] ∧
      ((f tk).sq .k).forking = false ∧ (seen (st .k f) 0 (f tk)).walkHeld (f tk) .k (2 ^ 22) 64 = true) ∧
    (let f := fun t => reg .k (.x 1) 64 { t with kq := { t.kq with barriers := (walled t).kq.barriers.map fun b => { b with fork := some 3 } } };
      Ready (st .k f) 0 .k (f tk) [.s (SReg.x 3).code, .s (SReg.x 1).code, .s (SReg.x 2).code] ∧
      ((f tk).sq .k).forking = true) ∧
    (let f := fun t => reg .k (.x 1) 64 (paired t);
      Ready (st .k f) 0 .k (f tk) [.s (SReg.x 3).code, .s (SReg.x 1).code, .s (SReg.x 2).code] ∧
      ((f tk).sq .k).marking = true) ∧
    (∀ e ∈ [(0, 0x4000000000), (2 ^ 60 - 64, 0x4000007FC0)],
      let f := fun t => reg .k (.x 1) (BitVec.ofNat 64 e.1) (reg .k (.x 2) (BitVec.ofNat 64 e.2) t);
      Ready (st .k f) 0 .k (f tk) [.s (SReg.x 3).code, .s (SReg.x 1).code, .s (SReg.x 2).code] ∧
      ((f tk).kq.rd (.x 1)).toNat = e.1 ∧ ((f tk).kq.rd (.x 2)).toNat = e.2 ∧ e.1 % 64 = 0 ∧ e.1 < 2 ^ 60 ∧
      e.2 % 2 ^ 15 % 64 = 0 ∧ e.2 / 2 ^ 32 % 2 ^ 16 = 64 ∧ e.2 % 2 ^ 15 + 64 ≤ 4096 * (f tk).tt.mdd ∧
      (f tk).forkBlocked .k = false) ∧
    (∀ v ∈ [47, 48, 64, 128], let f := reg .k (.x 1) (BitVec.ofNat 64 v);
      Ready (st .k f) 0 .k (f tk) [.s (SReg.x 3).code, .s (SReg.x 1).code, .s (SReg.x 2).code] ∧
      ((f tk).kq.rd (.x 1)).toNat = v ∧ ((v % 64 ≤ 47 ∧ v / 2 ^ 7 = 0) ↔ (v = 47 ∨ v = 64))) := by
  unfold Ready
  and_intros <;> decide +kernel

theorem meets_WeighmasterInstructions :
    (∀ v ∈ [0x00000, 0x10000, 0x50003, 0x60000], let f := reg .k (.x 1) (BitVec.ofNat 64 v);
      Ready (st .k f) 0 .k (f tk) [.s (SReg.x 3).code, .s (SReg.x 1).code, .s (SReg.x 2).code] ∧
      ((f tk).kq.rd (.x 1)).toNat = v ∧ ((1 ≤ v / 2 ^ 16 % 8 ∧ v / 2 ^ 16 % 8 ≤ 5) ↔ v = 0x10000 ∨ v = 0x50003)) ∧
    ((st .k id).psr (psrKey 0 1)).history.find? (fun h => !precedes ((st .k id).lrec tk.lr).epoch h.epoch) =
      some { epoch := 0, gen := 0, fmt := 6, blk := 1, width := 2 } ∧
    Assoc.find (st .k id).evidence (evKey tk.die (psrKey 0 1)) = none ∧
    (let s := { st .k id with evidence := [(evKey 0 (psrKey 0 1), { n := 1, qn := 2, qc := 3, reports := 1 })] };
      Ready s 0 .k tk [.s (SReg.x 3).code, .s (SReg.x 1).code, .s (SReg.x 2).code] ∧
      Assoc.find s.evidence (evKey tk.die (psrKey 0 1)) = some { n := 1, qn := 2, qc := 3, reports := 1 }) ∧
    (tk.gvDone = none ∧ ((st .k id).govClass 0).target ≤ ((st .k id).govClass 0).arrivals + 1) ∧
    (let s := (st .k id).setClass 0 { GovClass.start with target := 2 };
      Ready s 0 .k tk [.s (SReg.x 3).code, .s (SReg.x 1).code, .s (SReg.x 2).code] ∧
      (s.govClass 0).arrivals + 1 < (s.govClass 0).target ∧ (s.lrec tk.lr).gclass = 0) ∧
    (let f := fun t : Task => { t with gvDone := some 1 };
      Ready (st .k f) 0 .k (f tk) [.s (SReg.x 3).code, .s (SReg.x 1).code, .s (SReg.x 2).code] ∧ (f tk).gvDone = some 1) := by
  unfold Ready
  and_intros <;> decide +kernel

/-- Task 0 with a handle in x1 and its memberships, beside die phaser 3 as `p`. -/
def phasing (h : Nat) (l : List Member) (p : Phaser) : State :=
  { st .k (fun t => reg .k (.x 1) (BitVec.ofNat 64 h) { t with members := l }) with phasers := [(3, p)] }

/-- A phaser of context 0 with `n` seats of which `k` have signalled. -/
def ph (n k : Nat) : Phaser := { Phaser.unbound with ctx := some 0, phase := 5, nsig := n, sigd := k }

/-- A membership of phaser 3. -/
def mem3 (mode : Nat) (wph : BitVec 32) : Member := { key := 3, mode := mode, sph := 5, wph := wph, sent := false }

theorem meets_PhasersAndBarriers :
    (∀ e ∈ [(3, [], ph 2 0), (3, [mem3 0 5], ph 2 0), (3, [mem3 0 5], ph 2 1), (3, [mem3 1 4], ph 2 0), (3, [mem3 1 5], ph 2 0),
        (3, [mem3 2 5], ph 2 1), (2 ^ 11, [], ph 2 0), (2 ^ 10 + 256, [], ph 2 0), (3, [], { ph 2 0 with ctx := some 1 })],
      let f := fun t => reg .k (.x 1) (BitVec.ofNat 64 e.1) { t with members := e.2.1 };
      Ready (phasing e.1 e.2.1 e.2.2) 0 .k (f tk) [.s (SReg.x 3).code, .s (SReg.x 1).code] ∧
      ((f tk).kq.rd (.x 1)).toNat = e.1 ∧ (phasing e.1 e.2.1 e.2.2).phaser 3 = e.2.2 ∧ (f tk).die = 0) ∧
    (tk.member 3 = none ∧ (2 : Fin 4).val ≠ 3 ∧ tk.members.length < 8 ∧ NothingHeld tk) ∧
    ((mem3 0 5).mode = 0 ∧ (mem3 0 5).sph = (ph 2 0).phase ∧ (ph 2 0).sigd + 1 < (ph 2 0).nsig ∧
      (ph 2 1).sigd + 1 = (ph 2 1).nsig ∧ (ph 2 1).waiting = [] ∧ (ph 2 1).drops < (ph 2 1).nsig ∧
      (mem3 2 5).wph = (ph 2 1).phase ∧ (mem3 1 4).mode ≠ 0) ∧
    (precedes (mem3 1 4).wph (ph 2 0).phase = true ∧ precedes (mem3 1 5).wph (ph 2 0).phase = false) ∧
    (∀ e ∈ [(15, some 0, some 0), (15, some 0, none), (16, some 0, none), (15, some 1, none)],
      let f := reg .k (.x 1) (BitVec.ofNat 64 e.1);
      let b : Superstep := { Superstep.unbound with ctx := e.2.1, lr := e.2.2, step := 4 };
      let s := { st .k f with barriers := [(15, b)] };
      Ready s 0 .k (f tk) [.s (SReg.x 3).code, .s (SReg.x 1).code] ∧ ((f tk).kq.rd (.x 1)).toNat = e.1 ∧ s.barrier 15 = b ∧
      0 ∉ b.arrived ∧ (s.lrec (f tk).lr).gang = false ∧ Assoc.find (f tk).ssArrived 15 = none) ∧
    (let r : LaunchRec := { rec0 .running 4 with words := [(2, 1), (3, 2), (6, 4)] };
      r.gang = true ∧ r.total = 2 ∧ ({ Superstep.unbound with ctx := some 0, lr := some 0 } : Superstep).arr + 1 < r.total ∧
      (withRec (st .k id) 0 r).lrec 0 = r) ∧
    (∀ n ∈ [3, 4], let f := fun t : Task => { t with ssArrived := [(15, BitVec.ofNat 32 n)] };
      Ready (st .k f) 0 .k (f tk) [.s (SReg.x 3).code, .s (SReg.x 1).code] ∧
      (Assoc.find (f tk).ssArrived 15).isSome = true ∧ (precedes (BitVec.ofNat 32 n) 4 = true ↔ n = 3)) := by
  unfold Ready NothingHeld
  and_intros <;> decide +kernel

theorem meets_AccumulatorAtomics : ∀ ty ∈ [0, 1, 2], (∀ r ∈ [0, 0x7FFF],
    let v := 2 ^ 50 * ty + r;
    let f := reg .w (.a 1) (BitVec.ofNat 64 v);
    let t := f tk;
    let n := v / 2 ^ 10 % 2 ^ 5;
    Ready (st .w f) 0 .w t [.s (SReg.a 3).code, .s (SReg.a 1).code, .s (SReg.a 2).code] ∧
    ((t.sq .w).rd (.a 1)).toNat = v ∧ v / 2 ^ 52 = 0 ∧ v / 2 ^ 50 % 2 ^ 2 = ty ∧ v / 2 ^ 15 % 2 ^ 2 = 0 ∧ v % 2 ^ 50 < 2 ^ 15 ∧
    n < t.tt.accd ∧ (t.sq .w).peers = [] ∧ (t.sq .w).barriers = [] ∧ (t.sq .w).ilk = [] ∧ t.tileBusy n = false ∧
    (t.tile n).psn = false ∧ (st .w f).accPoison 0 n (v % 2 ^ 10) = none ∧ Assoc.wf 0 (t.tile n).m = true ∧
    Assoc.wf Tile.start t.tiles = true) ∧
    (let v := 2 ^ 50 * ty + 2 ^ 18 + 2 ^ 17 + 0x7FFF;
      let f := reg .w (.a 1) (BitVec.ofNat 64 v); let t := f tk; let p := { tk with wid := 1, core := 1 };
      let s := withRec { st .w f with tasks := [(0, t), (1, p)] } 0 (rec0 .running 4);
      Ready s 0 .w t [.s (SReg.a 3).code, .s (SReg.a 1).code, .s (SReg.a 2).code] ∧ ((t.sq .w).rd (.a 1)).toNat = v ∧
      v / 2 ^ 17 % 2 = 1 ∧ v / 2 ^ 15 % 2 ^ 2 = 0 ∧ v / 2 ^ 18 % 2 ^ 32 = 1 ∧ (s.lrec t.lr).gang = true ∧ TasksOk s ∧
      (seen s 0 t).peerOf t 1 = some (1, p) ∧ s.moves p = true ∧ 31 < p.tt.accd ∧ p.tileBusy 31 = false ∧
      Assoc.wf Tile.start p.tiles = true ∧ (p.tile 31).psn = false ∧ s.accPoison 1 31 1023 = none) := by
  unfold Ready TasksOk; decide +kernel

/-- The C-seq's task after a change. -/
def cst (f : Task → Task) : State := st .c f

/-- No predicate. -/
def p0 : Pfx := ⟨0, false⟩

/-- One operand waiting in each of some load ports, two in the first. -/
def loaded (t : Task) : Task :=
  let e : Operand := { data := [(0, 5), (1023, 7)], mask := BitVec.allOnes 1024 }
  { t with loadPorts := [(0, [e, e]), (1, [e]), (2, [e]), (3, [e])] }

/-- Store port 0 holds `n` entries. -/
def stored (n : Nat) (t : Task) : Task :=
  { t with storePorts := [(0, (List.range n).map fun k => { id := k, op := none })] }

theorem meets_VectorArithmeticAndFunctions :
    NumType.bf16 ≠ .fxa ∧ VecReady (cst id) 0 tk p0 [.v 0, .v 31, .v 7] [.v 15] ∧ VecReady (cst id) 0 tk p0 [.v 0, .v 31] [.v 15] ∧
    VecReady (cst loaded) 0 (loaded tk) p0 [.lq 3] [.sq 3] ∧ VecReady (cst loaded) 0 (loaded tk) p0 [.lq 0, .lq 0] [.sq 0] ∧
    VecReady (cst (stored 3)) 0 (stored 3 tk) ⟨3, true⟩ [] [.sq 0] := by
  unfold VecReady Ready
  and_intros <;> decide +kernel

theorem meets_VectorMoves :
    VecReady (cst loaded) 0 (loaded tk) p0 [.lq 0, .v 16] [.v 31] ∧ VecReady (cst loaded) 0 (loaded tk) p0 [.lq 0] [.v 31] := by
  unfold VecReady Ready; exact ⟨by decide +kernel, by decide +kernel⟩

theorem meets_VectorReductionsAndConversions :
    NumType.i32 ≠ .fxa ∧ NumType.e4m3 ≠ .fxa ∧ VecReady (cst loaded) 0 (loaded tk) ⟨5, true⟩ [.lq 2] [.sq 1] ∧
    VecReady (cst loaded) 0 (loaded tk) p0 [.lq 2, .lq 3] [.sq 1] ∧ VecReady (cst id) 0 tk p0 [.v 4] [.sq 0, .v 31] := by
  unfold VecReady Ready; and_intros <;> decide +kernel

theorem meets_OptimiserSteps :
    VecReady (cst loaded) 0 (loaded tk) p0 [.lq 0, .lq 1, .lq 2, .lq 3] [.sq 0, .sq 1, .sq 2] ∧
    VecReady (cst loaded) 0 (loaded tk) p0 [.lq 0, .lq 1, .lq 2] [.sq 0, .sq 1] := by
  unfold VecReady Ready; exact ⟨by decide +kernel, by decide +kernel⟩

theorem meets_VectorPredicates :
    Ready (cst id) 0 .c tk [.p 15] ∧ VecReady (cst loaded) 0 (loaded tk) p0 [.v 1, .lq 0] [] ∧
    VecReady (cst id) 0 tk p0 [.v 1] [] ∧ tk.active p0 ≠ 0 ∧ tk.pushReady (.sq 3) = true ∧
    Ready (cst id) 0 .c tk (.p 15 :: pfxNames p0 ++ [.p 0, .p 14] ++ dstNames tk (.sq 3)) := by
  unfold VecReady Ready
  and_intros <;> decide +kernel

theorem meets_VectorActivityAndFlow :
    (Ready (cst id) 0 .c tk (pfxNames ⟨1, false⟩ ++ srcNames tk [.v 1, .v 2] ++ dstNames tk (.v 3)) ∧ tk.active ⟨1, false⟩ = 0 ∧
      (seen (cst id) 0 tk).vecHeld 0 tk = false) ∧
    (Ready (cst id) 0 .c tk (pfxNames p0 ++ srcNames tk [.lq 0, .v 2] ++ dstNames tk (.v 3)) ∧ tk.active p0 ≠ 0 ∧
      tk.popsReady [.lq 0, .v 2] = false) ∧
    (Ready (cst (stored 4)) 0 .c (stored 4 tk) (pfxNames p0 ++ srcNames tk [.v 1, .v 2] ++ dstNames tk (.sq 0)) ∧
      (stored 4 tk).active p0 ≠ 0 ∧ (stored 4 tk).popsReady [.v 1, .v 2] = true ∧ (stored 4 tk).pushReady (.sq 0) = false ∧
      (stored 3 tk).pushReady (.sq 0) = true) ∧
    ((loaded tk).loadPort 0).length = 2 ∧
    (vecForm (.vadd 0 p0 .f32 .rsr false (.v 3) (.lq 0) (.v 2)) = some (p0, .rsr, [.lq 0, .v 2], [.v 3], []) ∧
      vecForm (.vsqrt 0 p0 .f32 .rne false (.sq 0) (.lq 0)) = some (p0, .rne, [.lq 0], [.sq 0], []) ∧
      (vecForm (.vcmpeq 0 p0 .f32 5 (.v 1) (.v 2))).isSome = true ∧ (vecForm (.vadam 0 p0)).isSome = true) ∧
    (∀ f ∈ [id, loaded, fun t => stored 4 (loaded t)], ∀ p ∈ [p0, ⟨1, false⟩],
      Ready (cst f) 0 .c (f tk) (pfxNames p ++ srcNames (f tk) [.lq 0, .lq 1, .lq 2, .lq 3] ++
        [VDst.sq 0, .sq 1, .sq 2].flatMap (dstNames (f tk))) ∧ Assoc.wf [] (f tk).loadPorts = true ∧
      ((f tk).active p = 0 ↔ p.p = 1) ∧ (seen (cst f) 0 (f tk)).vecHeld 0 (f tk) = false) ∧
    (tk.popsReady [.lq 0, .lq 1, .lq 2, .lq 3] = false ∧ (stored 4 (loaded tk)).popsReady [.lq 0, .lq 1, .lq 2, .lq 3] = true ∧
      [VDst.sq 0, .sq 1, .sq 2].all (stored 4 (loaded tk)).pushReady = false) ∧
    (∀ j ∈ [0, 1], ((loaded tk).loadPort 0)[(portsOf ([VSrc.lq 0, .lq 0].take j)).count 0]?.isSome = true ∧
      [VSrc.lq 0, .lq 0][j]? = some (.lq 0)) ∧ [VSrc.v 31][0]? = some (.v 31) ∧
    (∀ n ∈ [0, 1, 2], let f := reg .c (.lc 3) (BitVec.ofNat 64 n);
      Ready (cst f) 0 .c (f tk) [.s (48 + 3), .p 15] ∧ RegsOk (f tk).cq ∧ Assoc.wf 0 (f tk).p = true ∧ (f tk).cq.late = [] ∧
      ((f tk).cq.rd (.lc 3)).toNat = n) := by
  unfold Ready RegsOk
  and_intros <;> first | decide +kernel | rfl

/-- That product behind a copy that has not retired. -/
def behind (t : Task) : Task :=
  { forked .copy t with batches := [{ num := some 1, ops := [{ product t with after := [7] }], planned := 0 }] }

theorem meets_MatrixSetupAndLots :
    (AccReady (cst id) 0 tk [.s 48] [] [] ∧ ((cst id).core 0 0).mode = 0 ∧
      (let s := (cst id).setCore 0 0 { CoreState.start with mode := 2 };
        AccReady s 0 tk [.s 51] [] [] ∧ (s.core 0 0).mode ≠ 0 ∧ tk.matrixIdle = true)) ∧
    (AccReady (cst described) 0 (described tk) [] [] [3] ∧ (described tk).cq.barriers = [] ∧
      256 * 0 + 32 ≤ 32768 * (described tk).tt.spd ∧ (cst described).poisonAt (.scratch 0 0) = none ∧
      (let s := { cst described with poison := [(.scratch 0 0, 3)] };
        AccReady s 0 (described tk) [] [] [3] ∧ s.poisonAt (.scratch 0 0) = some 3) ∧
      Desc.parse (wordsOf (readBytes (described tk).spad 0 32) 4) = some (desc false) ∧ (desc false).extentTrap tk.tt = none ∧
      Desc.parse (wordsOf (readBytes tk.spad 0 32) 4) = none) ∧
    (AccReady (cst id) 0 tk [] [31] [] ∧ tk.tileBusy 31 = false ∧ AccReady (cst committed) 0 (committed tk) [] [0] [] ∧
      (committed tk).tileBusy 0 = true) ∧
    (AccReady (cst id) 0 tk [] ((List.range 32).map (0 + ·)) [] ∧ ∀ j < 32, tk.tileBusy (0 + j) = false) ∧
    (AccReady (cst shaped) 0 (shaped tk) [] [] [] ∧ (shaped tk).lots + (shaped tk).leaving + 28 ≤ 32 ∧
      (∀ r ∈ (cst shaped).lotQueue 0 0, r.task ≠ 0) ∧ (shaped tk).demand + 2 ≤ (shaped tk).lots ∧ (shaped tk).matrixIdle = true ∧
      (shaped tk).lots < (shaped tk).demand + 3) ∧
    (∀ n ∈ [28, 29], let s := { cst shaped with lotq := [(0, [{ task := 0, n := n, prio := 0, stall := 0 }])] };
      Assoc.wf [] s.lotq = true ∧ s.lotQueue 0 0 = [{ task := 0, n := n, prio := 0, stall := 0 }] ∧
      Assoc.find s.tasks 0 = some (shaped tk) ∧ s.moves (shaped tk) = true ∧ (n ≤ s.freeLots 0 0 ↔ n = 28)) := by
  unfold AccReady Ready RegsOk
  and_intros <;> decide +kernel

theorem meets_MatrixProductsAndChunks :
    (AccReady (cst shaped) 0 (shaped tk) [] [0] [0, 1] ∧ ((shaped tk).productTiles 0).any (shaped tk).tilePending = false ∧
      (shaped tk).sync = none ∧ (0 : Fin 4) ≠ 1 ∧
      ((shaped tk).checkProduct .c (cst shaped).uid 0 0 1 2 false false).toOption.isSome = true ∧
      ((shaped tk).checkProduct .c (cst shaped).uid 0 0 1 0 false false).toOption.isSome = false ∧
      ((shaped tk).checkProduct .c (cst shaped).uid 0 0 1 2 false true).toOption.isSome = true ∧
      ((shaped tk).checkProduct .c (cst shaped).uid 0 1 0 2 false true).toOption.isSome = false) ∧
    (let f := fun t => { shaped t with sync := some { op := { product t with done := 2 }, stall := 0, detached := false } };
      AccReady (cst f) 0 (f tk) [] [0] [0, 1] ∧ ((product tk).finished = false) ∧
      ({ product tk with done := 2 } : MatOp).finished = true ∧ (product tk).skew = false) ∧
    (∀ n ∈ [0, 1, 2], let f := fun t => reg .c (.lc 0) (BitVec.ofNat 64 n) (committed t);
      AccReady (cst f) 0 (f tk) [.s 48] [] [] ∧ AccReady (cst f) 0 (f tk) [.p 15, .s 48] [] [] ∧ Assoc.wf 0 (f tk).p = true ∧
      (f tk).batches.length < 8 ∧ (precedes (f tk).batchCtr (BitVec.ofNat 32 n) = true ↔ n = 2) ∧
      ((f tk).batchRetired (BitVec.ofNat 32 n) = true ↔ n = 0) ∧ (f tk).faults = [] ∧
      (BitVec.ofNat 32 n - (f tk).batchCtr ≠ 2 ^ 31)) ∧
    (let f := fun t => { committed t with batches := List.replicate 8 { num := some 1, ops := [], planned := 0 } };
      AccReady (cst f) 0 (f tk) [.s 48] [] [] ∧ 8 ≤ (f tk).batches.length) ∧
    (Assoc.find (cst committed).tasks 0 = some (committed tk) ∧ (cst committed).moves (committed tk) = true ∧
      (committed tk).runningMat = some (product tk) ∧ (committed tk).clear (product tk).after = true ∧
      (product tk).done + 1 < (product tk).depth ∧ (cst committed).poison = [] ∧ product tk ∈ (committed tk).reserving) ∧
    ((behind tk).runningMat = some { product tk with after := [7] } ∧ (cst behind).moves (behind tk) = true ∧
      (behind tk).clear [7] = false) := by
  unfold AccReady Ready RegsOk
  and_intros <;> decide +kernel

theorem meets_AccumulatorOps :
    (AccReady (cst id) 0 tk [] [31] [] ∧ Assoc.wf 0 (tk.tile 31).m = true ∧ tk.tileBusy 31 = false ∧ (tk.tile 31).psn = false ∧
      (tk.tile 31).x + 63 ≤ 32767 ∧ (cst id).tilePoison 0 31 (fun _ => true) = none ∧
      (let s := { cst id with poison := [(.acc 0 (1024 * 31 + 8), 2)] };
        AccReady s 0 tk [] [31] [] ∧ (s.tilePoison 0 31 (fun _ => true)).isSome = true)) ∧
    (AccReady (cst committed) 0 (committed tk) [] [0] [] ∧ (committed tk).tileBusy 0 = true) ∧
    (let f := fun t => t.setTile 2 { Tile.start with psn := true };
      AccReady (cst f) 0 (f tk) [] [2] [] ∧ (f tk).tileBusy 2 = false ∧ ((f tk).tile 2).psn = true) ∧
    (AccReady (cst id) 0 tk [] [0, 31] [] ∧ AccReady (cst id) 0 tk [] [4, 4] []) ∧
    (AccReady (cst loaded) 0 (loaded tk) (srcNames (loaded tk) [.lq 0, .lq 0]) [1] [] ∧ (loaded tk).popsReady [.lq 0, .lq 0] = true ∧
      ∀ x ∈ ((loaded tk).readSrcs [.lq 0, .lq 0]).2, Assoc.wf 0 x = true) ∧
    (AccReady (cst id) 0 tk (dstNames tk (.sq 0) ++ pfxNames p0) [31] [] ∧ tk.pushReady (.sq 0) = true ∧ tk.active p0 ≠ 0 ∧
      (tk.tile 31).ovf = false) ∧
    (let f := fun t => t.setTile 2 { Tile.start with ovf := true, ote := true };
      AccReady (cst f) 0 (f tk) (dstNames (f tk) (.v 3) ++ pfxNames p0) [2] [] ∧ ((f tk).tile 2).nan = false ∧
      ((f tk).tile 2).ovf = true ∧ ((f tk).tile 2).ote = true ∧ ((f tk).tile 2).psn = false) := by
  unfold AccReady Ready RegsOk
  and_intros <;> decide +kernel

/-- A GEMV operation over the 1 × `n` matrix of e4m3 codes at the scratchpad's start, with its block at 256. -/
def gemvOp (n : Nat) (f : Option EngFault) : EngOp :=
  { EngOp.new 7 .gemv .c 1 (some 256)
      (.gemv [0xFF0 * 2 ^ 48, 2, BitVec.ofNat 64 (2 ^ 32 + n)] [0, 0, 3, 2 ^ 32] 0x1000 0x80 0 3 true 0 false) [] with
    started := true, fault := f }

/-- The task runs it. -/
def gemving (n : Nat) (f : Option EngFault) (t : Task) : Task := { t with eng := [gemvOp n f], gemvCtr := 1 }

theorem meets_GemvOperations :
    (AccReady (cst id) 0 tk [.s (48 + 3)] [] [] ∧ ∀ o ∈ [(0xFF : BitVec 12), 0xFFF],
      ((32768 * tk.tt.spd < 256 * o.toNat + 128) ↔ tk.tt.spd ≤ 31 ∧ o = 0xFFF) ∧ (tk.gemvCtr - tk.gemvJoined).toNat < 4) ∧
    (let f := fun t : Task => { t with gemvCtr := 4 };
      AccReady (cst f) 0 (f tk) [.s 48] [] [] ∧ 4 ≤ ((f tk).gemvCtr - (f tk).gemvJoined).toNat ∧ (f tk).eng = [] ∧
      (f tk).faults = [] ∧ precedes (f tk).gemvCtr 4 = false ∧ precedes (f tk).gemvCtr 5 = true ∧
      (5 : BitVec 32) - (f tk).gemvCtr ≠ 2 ^ 31 ∧ (2 ^ 31 + 4 : BitVec 32) - (f tk).gemvCtr = 2 ^ 31) ∧
    (AccReady (cst (gemving 1 none)) 0 (gemving 1 none tk) [.s 48] [] [] ∧ gemvOp 1 none ∈ (gemving 1 none tk).eng ∧
      precedes (gemving 1 none tk).gemvCtr 1 = false ∧ (gemvOp 1 none).engine = .gemv ∧
      covered (gemving 1 none tk).gemvCtr (gemvOp 1 none).num 1 = true) ∧
    (∀ f ∈ [none, some (EngFault.at_ 8 0)], ∀ n ∈ [0, 1],
      Assoc.find (cst (gemving n f)).tasks 0 = some (gemving n f tk) ∧ (cst (gemving n f)).moves (gemving n f tk) = true ∧
      (gemving n f tk).gemvs.find? (fun o => !(gemving n f tk).gemvHeld o) = some (gemvOp n f) ∧
      (cst (gemving n f)).noWalks = false ∧ (gemving n f tk).clear (gemvOp n f).xl = true) ∧
    (let f := fun t => let t := committed t; { t with eng := [{ gemvOp 1 none with block := some 0 }], gemvCtr := 1 };
      Assoc.find (cst f).tasks 0 = some (f tk) ∧ (cst f).moves (f tk) = true ∧ (f tk).gemvs ≠ [] ∧
      ∀ o ∈ (f tk).gemvs, (f tk).gemvHeld o = true) ∧
    (∀ n ∈ [0, 1], let r := [0xFF0 * 2 ^ 48, 2, BitVec.ofNat 64 (2 ^ 32 + n)];
      (tsrExt r 0 = 0 ↔ n = 0) ∧ tsrExt r 1 ≠ 0) ∧
    (let r := [0xFF0 * 2 ^ 48, 2, BitVec.ofNat 64 (2 ^ 32 + 1)];
      ((cst (gemving 1 none)).gemvOutputs 0 (gemving 1 none tk) { tsr := r, tlr := [0, 0, 3, 2 ^ 32] } 0
        ((List.range (tsrExt r 0)).map ((cst (gemving 1 none)).gemvX 0 (gemving 1 none tk) 0x1000 3))
        (List.range (tsrExt r 1))).2.toOption.map List.length = some 1) := by
  unfold AccReady Ready RegsOk
  and_intros <;> decide +kernel

/-- Processor 0 runs a kernel over a packet of `n` bytes, with some registers set. -/
def running (n : Nat) (f : PitchRun → PitchRun) : PitchRun :=
  f { pkt := { walkFlow := some 0, job := 0, src := 0, srcPkg := 0, mode := .rod, payload := List.replicate n 7, hdr := none },
      flow := 0, seq := 0, pc := 5, q := [(0, 3)], k := [(0, 0xFFFF), (1, 0x8001)], window := List.replicate n 7, budget := 4,
      rep := none, stores := [], pushes := [], emits := [] }

/-- The machine in which it does, its flow 0 being valid and of job 0, its context 0 owning queue 7. -/
def kernel (r : PitchRun) : State :=
  let s := State.reset.placeProgram .k []
  { s with cur := .pitch 0, agenda := [], pitches := [(0, { store := [], queue := [], run := some r })],
           flows := [0, 1].map fun f => (f, { ctl := BitVec.ofNat 128 (2 ^ 111 + 2 ^ 100 + 3 * 2 ^ 81), state := [] }), ports := 0x8,
           queues := [(7, { ctx := 0, k := 4, fixed := false, entries := [], waiters := [], taken := 0 })] }

theorem meets_PitchArithmetic :
    PitchReady (kernel (running 64 id)) 0 (running 64 id) ∧ (1 ≤ (running 64 id).budget) ∧ (running 64 id).mask 1 = 0x8001 ∧
    (let r := running 64 fun r => { r with budget := 0 }; PitchReady (kernel r) 0 r ∧ r.budget < 1) ∧
    (∃ m' : BitVec 16, ∀ j < 8, m'.getLsbD (2 * j) = ((running 64 id).mask 1).getLsbD (2 * j) ∧
      m'.getLsbD (2 * j + 1) = ((running 64 id).mask 1).getLsbD (2 * j)) := by
  unfold PitchReady
  refine ⟨?_, ?_, ?_, ?_, 3, ?_⟩ <;> and_intros <;> decide +kernel

theorem meets_PitchMemoryAndControl :
    (∀ n ∈ [128, 127], let r := running n id; PitchReady (kernel r) 0 r ∧ 4 ≤ r.budget ∧ loadCost (kernel r) 0 ≤ r.budget ∧
      ((∀ i < 16, (r.mask 1).getLsbD i = true → 4 * 16 + 4 * i + 4 ≤ r.window.length) ↔ n = 128) ∧
      (∀ j < 15, (r.mask 1).getLsbD j = true → 4 * 16 + 4 * j + 4 ≤ r.window.length)) ∧
    (∀ f ∈ [1, 2], let r := running 64 fun r => { r with q := [(0, BitVec.ofNat 32 f)] }; PitchReady (kernel r) 0 r ∧
      (kernel r).poisonAt (.flow 0 f 1) = none ∧
      ({ kernel r with poison := [(.flow 0 f 1, 3)] } : State).poisonAt (.flow 0 f 1) ≠ none ∧
      (((kernel r).flow 0 ((r.lane 0 0).toNat % 2 ^ 12)).valid = true ∧
        ((kernel r).flow 0 ((r.lane 0 0).toNat % 2 ^ 12)).job = ((kernel r).flow 0 r.flow).job ↔ f = 1)) ∧
    (let r := running 64 id;
      r.mask 1 ≠ 0 ∧ r.mask 2 = 0 ∧ 2 ≤ r.budget ∧ (kernel r).ctxOfJob ((kernel r).flow 0 0).job = some 0 ∧
      (kernel r).ownsQueue 0 7 = true ∧ (kernel r).ownsQueue 0 8 = false ∧ 64 * (0 + 1) ≤ r.window.length ∧
      (kernel r).inJob ((kernel r).flow 0 0).job (((kernel r).flow 0 0).f 80 75) = true ∧
      (kernel r).ports.getLsbD (((kernel r).flow 0 0).f 84 81) = true ∧ r.window.length < 64 * (1 + 1) ∧
      (kernel r).fullQueue r = none ∧ r.pkt.hdr = none ∧ ((kernel r).pitch 0).queue = [] ∧
      Assoc.wf Pitch.start (kernel r).pitches = true) ∧
    (∀ n ∈ [16, 17], let r := running 64 fun r => { r with pushes := List.replicate n (7, 5), budget := 2 };
      PitchReady (kernel r) 0 r ∧ 2 ≤ r.budget ∧ ((kernel r).fullQueue r = some 7 ↔ n = 17) ∧
      ((kernel r).fullQueue r = none ↔ n = 16)) ∧
    (∀ e ∈ [(1, 0, 0), (0, 0, 0), (0, 0, 3), (0, 9, 0)],
      let h : XferHdr := { pkg := e.1, job := e.2.2, lrec := e.2.1, wid := 0, addr := 0, op := 0, rcnt := 0, total := 0, xid := 0, walk := 0 };
      let r := running 64 fun r => { r with pkt := { r.pkt with hdr := some h } };
      PitchReady (kernel r) 0 r ∧ (kernel r).fullQueue r = none ∧ r.pkt.hdr = some h ∧ (h.pkg = (kernel r).pkgIndex ↔ e.1 = 0) ∧
      (((kernel r).lrec h.lrec).ctx = none ↔ e.2.1 = 9) ∧
      (((kernel r).lrec h.lrec).ctx.map (kernel r).jobOf = some h.job ↔ e.2 = (0, 0))) ∧
    (let r := running 64 id; let s := { kernel r with pitches := [(0, { store := [], queue := [(0, r.pkt)], run := some r })] };
      Assoc.wf Pitch.start s.pitches = true ∧ (s.pitch 0).queue = [(0, r.pkt)]) := by
  unfold PitchReady
  and_intros <;> decide +kernel

/-- Ring `n` moves, enabled at 0 with a completion ring at 2^12, for context 0. Context 1 has nothing. -/
def ringing (n : Nat) : State :=
  let s := withRec (withRec (State.reset.placeProgram .k []) 5 LaunchRec.free) 6 (rec0 .idle goodWord)
  let r := { Ring.start with enabled := true, cbase := 0x1000, live := (0, 0x1000, 4 + 2 ^ 63) }
  let c : Ctx := { asid := 1, root := 0, job := 1, allow := 1, vdies := [], stripe := 0, image := none, interval := 0,
                   evq := none, produced := 0, lost := 0 }
  { s with cur := .ring n, agenda := [], rings := [(n, r)], boot := 6, bootDies := true, ctxs := s.ctxs ++ [(1, c)], auctions := [(5, 0)],
           queues := [(7, { ctx := 0, k := 1, fixed := false, entries := [4], waiters := [], taken := 0 }),
                      (8, { ctx := 0, k := 1, fixed := false, entries := [4, 5], waiters := [], taken := 0 })] }

/-- The page tables of context 0: eight 64 KiB pages of its stacks from 0 on, and one of the host. Stack 1 has only two frames
in use, the second being the page. -/
def paged (s : State) : State :=
  let word := fun (m : Memory) (e : Nat × Nat) => writeBytes m e.1 (toBytes 8 e.2)
  let tables := [(0x8000, 0x10001), (0x10000, 0x11001), (0x11000, 0x12001), (0x12000, 0x13001)]
  let leaves := (List.range 8).map fun d => (0x13000 + 8 * d, d * 2 ^ 37 + (if d = 1 then 0x10000 else 0x20000) + 15)
  { s with mem := (tables ++ leaves ++ [(0x13040, 2 ^ 51 + 2 ^ 60 + 7)]).foldl word [],
           ctxs := (s.ctxs.take 1).map fun e => (e.1, { e.2 with root := 0x8000 }),
           dies := Assoc.set Die.start s.dies 1 { Die.start with working := true, lostBytes := stackBytes - 0x20000 } }

/-- The link of die 0 sleeps, and the L1 of its first core holds a line. -/
def dozing (s : State) (pa : Nat) : State :=
  let c : L1Sector := { valid := true, dirty := false, streaming := false, data := [] }
  { s.setDie 0 { s.die 0 with linkAsleep := true } with l1 := [(0, [{ line := pa / 128, asid := 0, s0 := c, s1 := c }])] }

/-- That package on ring 3, with or without an L1 behind a sleeping link that holds a sector of the page at 0x10000. -/
def pagedOn (b : Bool) : State :=
  paged (match b with
    | false => ringing 3
    | true => dozing (ringing 3) (2 ^ 37 + 0x10000))

theorem meets_LaunchCommands :
    (onMgmt (ringing 0) ∧ (ringing 0).hasCtx 0 = true ∧ ((ringing 0).lrec 5).state = .free ∧ ((ringing 0).lrec 4095).state = .free ∧
      ((ringing 0).lrec 0).state ≠ .free ∧ ((ringing 0).lrec 5).live = false ∧ Assoc.wf 0 (ringing 0).counters = true ∧
      (∀ n ∈ [0, 5], let s := withRec ({ ringing 0 with tasks := [(0, { tk with lr := n })] }) 5 (rec0 .idle 0);
        Assoc.wf LaunchRec.free s.recs = true ∧ (s.lrec 5).live = false ∧
        ((∀ e ∈ s.tasks, ¬ (5 ≤ e.2.lr ∧ e.2.lr < 6)) ↔ n = 0))) ∧
    onRing (ringing 3) 3 0 ∧ (ringing 3).firstRefused 0 [6] [] = none ∧
    (((ringing 3).lrec 0).ctx = some 0 ∧ ((ringing 3).lrec 0).live = true ∧ ((ringing 3).lrec 4095).ctx ≠ some 0 ∧
      ((ringing 3).stopLaunch 0).tasksOf 0 ≠ [] ∧ (({ ringing 3 with tasks := [] } : State).stopLaunch 0).tasksOf 0 = [] ∧
      ∀ e ∈ (ringing 3).tasks, e.2.lr = 0 → e.2.wid = tk.wid → e.2.life ≠ .halted) ∧
    (∀ b ∈ [true, false], let s := { ringing 3 with cpq := if b then [.finish 0] else [] };
      onRing s 3 0 ∧ (s.lrec 0).ctx = some 0 ∧ (s.lrec 0).live = true ∧ s.completes 0 = b) ∧
    (∀ q ∈ [7, 8], (Assoc.find (ringing 3).queues q).map (fun w => (w.ctx, decide (w.entries.length < 2 ^ w.k))) = some (0, q == 7)) ∧
    (∀ b ∈ [true, false], let s := (ringing 3).setTask 0 { tk with life := .halted };
      let s := if b then s else s.setDie 0 { s.die 0 with working := false };
      (s.tasks.find? fun e => e.2.lr == 0 && e.2.wid == tk.wid && e.2.life == .halted) = some (0, { tk with life := .halted }) ∧
      ((((s.setTask 0 { tk with life := .cut }).pickCore 0 0 tk.prio tk.tt tk.lots).isSome = true) ↔ b = true)) ∧
    Assoc.wf 0 (ringing 3).hostMem = true := by
  unfold onMgmt onRing
  and_intros <;> decide +kernel

theorem meets_ManagementAndCompletions :
    (Assoc.wf 0 (ringing 3).hostMem = true ∧ Assoc.wf Ring.start (ringing 3).rings = true ∧ (ringing 3).cur = .ring 3 ∧
      (ringing 3).bootFail = false ∧
      (let s := { ringing 0 with bootFail := true }; s.cur = .ring 0 ∧ s.bootFail = true) ∧
      (let s := { ringing 3 with bootFail := true }; s.cur = .ring 3 ∧ s.bootFail = true) ∧
      Assoc.has (ringing 3).ctxs ((ringing 3).ringAt 3).context = true ∧
      Assoc.has ({ ringing 3 with ctxs := [] } : State).ctxs (({ ringing 3 with ctxs := [] } : State).ringAt 3).context = false) ∧
    (commandKind (.recBind 1 0 1 0) = some (true, false, 1) ∧ commandKind (.attest 1 0 0) = some (true, true, 1) ∧
      commandKind (.launchStats 1 0 0) = some (false, false, 1)) ∧
    (onMgmt (ringing 0) ∧ (ringing 0).hasCtx 9 = false ∧ (ringing 0).hasCtx 0 = true ∧
      (∀ e ∈ (ringing 0).recs, e.2.ctx = some 1 → e.2.live = false) ∧ ((ringing 0).ctxs.map (·.1)).Pairwise (· < ·) ∧
      (∀ c ∈ [0, 1], (∀ e ∈ [(0, { tk with ctx := c })], e.2.ctx ≠ 1) ↔ c = 0)) ∧
    ((Assoc.find (ringing 0).ctxs 0).map (·.lost) = some 0 ∧
      (let s' := (ringing 0).modCtx 0 (fun k => { k with stripe := 0 });
        s'.stripesFit (s'.ctxs.map fun e => e.2.stripe).sum = true)) ∧
    ((Assoc.find (paged (ringing 0)).ctxs 0).map (·.root) = some 0x8000 ∧ (∀ d < 8, (paged (ringing 0)).pagesAll 0x8000 (0 + d * (0x80000 / 8))
        (0x80000 / 8) (fun pa => !isHostPa pa && stackOf pa == d) = true) ∧
      (paged (ringing 0)).pagesAll 0x8000 0x80000 0x10000 isHostPa = true) ∧
    (((ringing 0).phaser 8191).ctx = none ∧ ((ringing 0).phaser (8192 + 255)).ctx = none ∧ ((ringing 0).barrier 15).ctx = none ∧
      ((ringing 0).barrier 15).lr = none ∧ Assoc.find (ringing 0).auctions 59 = none ∧ Assoc.find (ringing 0).auctions 5 = some 0) ∧
    (((ringing 0).govClass ((ringing 0).psr (psrKey 65535 5)).cls).due = [] ∧ ((ringing 0).govClass 15).due = [] ∧
      ((ringing 0).govClass 15).arrivals < 1 ∧ Assoc.wf GovClass.start (ringing 0).classes = true ∧
      (let s := (ringing 0).setClass 0 { GovClass.start with due := [{ task := none, evidence := [] }] };
        onMgmt s ∧ (s.govClass (s.psr (psrKey 65535 5)).cls).due ≠ [] ∧ Assoc.wf GovClass.start s.classes = true ∧
        (s.ringAt 0).psrWait = none ∧
        (∀ e ∈ [0, 7], let s := s.setRing 0 { s.ringAt 0 with busy := true, psrWait := some e };
          onMgmt s ∧ (s.govClass (s.psr (psrKey 65535 5)).cls).due ≠ [] ∧ (s.ringAt 0).psrWait = some e ∧
          (e = (s.govClass (s.psr (psrKey 65535 5)).cls).ended ↔ e = 0)))) ∧
    ((ringing 0).holdsDie 7 = false ∧ ((ringing 0).die 7).hot = false ∧ ((ringing 0).die 7).capped = false ∧
      Assoc.wf Die.start (ringing 0).dies = true ∧
      (let s := withRec { ringing 0 with tasks := [(0, { tk with fixedPop := true })] } 0 { (ringing 0).lrec 0 with words := Assoc.set 0 [] 6 (2 ^ 3) };
        onMgmt s ∧ s.holdsDie 0 = true ∧ Assoc.wf Die.start s.dies = true)) ∧
    (∀ z ∈ [0, 2 ^ 32], (controlOk { ctl := BitVec.ofNat 128 z, state := writeBytes [] 0 ((ringing 0).hostRead 0 128) } = true ↔ z = 0)) ∧
    (Assoc.wf { ctl := 0, state := [] } (ringing 0).flows = true ∧
      imageOk [0] = false ∧ imageOk (encode .pdrop) = true ∧ Assoc.wf 0 ((ringing 0).pitch 31).store = true ∧
      Assoc.wf Pitch.start (ringing 0).pitches = true) ∧
    (onRing (ringing 3) 3 0 ∧ (ringing 3).heldIn 0 0 64 = false ∧
      (let h : Held := { uid := 9, acc := .load 0x38 3 (.phys 0x38 false), after := [] };
        ((ringing 3).setTask 0 { tk with kq := { tk.kq with held := [h] } }).heldIn 0 0 64 = true)) ∧
    (onRing (pagedOn true) 3 0 ∧ onRing (pagedOn false) 3 0) ∧ (paged (ringing 3)).leafOf 0x8000 0x10000 walkLevels =
      some (0x13008, 2 ^ 37 + 0x10000 + 15, 16) ∧ (paged (ringing 3)).paOk (2 ^ 37 + 0x10000) = true := by
  unfold onMgmt onRing
  and_intros <;> decide +kernel

theorem meets_MemoryCommands :
    Assoc.wf 0 (ringing 0).hostMem = true ∧ Assoc.wf 0 (ringing 0).mem = true ∧ onMgmt (ringing 0) ∧ onRing (ringing 3) 3 0 ∧
    (ringing 0).poison = [] ∧ (ringing 0).physRange (96 * 2 ^ 30 - 8) 8 = true ∧ (ringing 0).physRange (96 * 2 ^ 30) 8 = false ∧
    ((ringing 0).recallAll 64).holdersOf 64 = [] ∧ (let s := dozing (ringing 0) 64; onMgmt s ∧ (s.recallAll 64).holdersOf 64 ≠ []) ∧
    (∀ b, let s := pagedOn b; let ps := copyPieces 0x10000 8;
      let pa := fun (s : State) (a : Nat) => s.hubPa 0 a .write;
      onRing s 3 0 ∧ (s.recallPieces pa ps).piecesHeld pa ps = b) := by
  unfold onMgmt onRing
  decide +kernel

theorem meets_RingsAndRegisters :
    (∀ s ∈ [ringing 3, State.reset], Assoc.wf Ring.start s.rings = true) ∧
    ((State.reset.ringAt 63).enabled = false ∧ State.reset.ringAllowed 63 = false) ∧
    (((ringing 3).ringAt 4).enabled = false ∧ (ringing 3).ringAllowed 4 = true) ∧
    (((ringing 3).ringAt 3).enabled = true ∧ ((ringing 3).ringAt 3).busy = false) ∧
    (let s := (ringing 3).setRing 3 { (ringing 3).ringAt 3 with busy := true };
      (s.ringAt 3).enabled = true ∧ (s.ringAt 3).busy = true) := by
  and_intros <;> decide +kernel

/-- Of a stack's two frames, the first is found wherever the search starts, when the second is in use. -/
theorem findFrame_two (used : List (Nat × Nat)) (base size k : Nat) (h0 : frameFree used base size = true)
    (h1 : frameFree used (base + size) size = false) : findFrame 2 used base size 2 k = some base := by
  have z : ∀ k, k % 2 = 0 → frameFree used (base + k % 2 * size) size = true := by intro k h; simp [h, h0]
  rcases Nat.mod_two_eq_zero_or_one k with h | h
  · simp [findFrame, h, h0]
  · simp [findFrame, h, h1, h0, show (k + 1) % 2 = 0 by omega]

/-- The frames in use in that package. -/
def usedFrames (s : State) : List (Nat × Nat) :=
  s.ctxs.flatMap fun e => (s.leavesOf e.2.root walkLevels).map (·.2) ++ s.tablesOf e.2.root walkLevels

theorem pickFrame_two (s : State) (stack size : Nat) (n : (stackBytes - (s.die stack).lostBytes) / size = 2)
    (w : s.dieWorks stack = true) (h0 : frameFree (usedFrames s) (stack * 2 ^ 37) size = true)
    (h1 : frameFree (usedFrames s) (stack * 2 ^ 37 + size) size = false) : s.pickFrame stack size = some (stack * 2 ^ 37) := by
  have f := findFrame_two (usedFrames s) (stack * 2 ^ 37) size (Config.freeChoice s.fresh) h0 h1
  unfold usedFrames at f
  unfold State.pickFrame
  simp only [n, w, show (2 == 0 || !true) = false from rfl, Bool.false_eq_true, if_false]
  exact f

/-- A table whose entries past the first are invalid lists what the first lists. -/
theorem flatMap_first {α : Type} (f : Nat → List α) (n : Nat) (h : ∀ i < n, f (i + 1) = []) : (List.range (n + 1)).flatMap f = f 0 := by
  rw [List.range_succ_eq_map, List.flatMap_cons, List.flatMap_map]
  have : (List.range n).flatMap (fun i => f (i + 1)) = [] := by simpa [List.flatMap_eq_nil_iff] using h
  simp [this]

/-- The entries of a table past the first are invalid. -/
def onlyFirst (s : State) (table n : Nat) : Prop := ∀ i < n, bitAt (leNat (s.physRead (table + 8 * (i + 1)) 8)) 0 = false

theorem leavesOf_first (s : State) (table level shift n k : Nat) (rest : List (Nat × Nat × Nat)) (hk : 2 ^ n = k + 1)
    (h : onlyFirst s table k) : s.leavesOf table ((level, shift, n) :: rest) =
      (let e := leNat (s.physRead table 8)
       if isHostPa table || !inHbm table || !bitAt e 0 || malformed level shift e then []
       else if bitAt e 1 then [(table, bits e 51 8 * 256, 2 ^ shift)] else s.leavesOf (bits e 51 8 * 256) rest) := by
  rw [State.leavesOf, hk, flatMap_first]
  · simp
  · intro i hi
    simp [h i hi]

theorem tablesOf_first (s : State) (table level shift n k : Nat) (rest : List (Nat × Nat × Nat)) (hk : 2 ^ n = k + 1)
    (h : onlyFirst s table k) : s.tablesOf table ((level, shift, n) :: rest) = (table, 8 * 2 ^ n) ::
      (let e := leNat (s.physRead table 8)
       if isHostPa table || !inHbm table || !bitAt e 0 || malformed level shift e || bitAt e 1 then []
       else s.tablesOf (bits e 51 8 * 256) rest) := by
  rw [State.tablesOf, hk, flatMap_first]
  · simp
  · intro i hi
    simp [h i hi]

/-- A value that is listed at a key stands in the list. -/
theorem find_mem {α : Type} (m : Assoc α) (k : Nat) (v : α) (h : Assoc.find m k = some v) : (k, v) ∈ m := by
  induction m with
  | nil => simp [Assoc.find] at h
  | cons e r ih =>
    obtain ⟨j, w⟩ := e
    unfold Assoc.find at h
    split at h
    · simp_all
    · split at h
      · cases h
      · exact List.mem_cons_of_mem _ (ih h)

/-- An entry's valid bit is the lowest of its first byte. -/
theorem valid_bit (m : Memory) (a : Nat) (h : Memory.wf m = true) :
    bitAt (leNat (readBytes m a 8)) 0 = (Assoc.get 0 m a).getLsbD 0 := by
  have g := readBytes_getElem? m a 8 0 h (by decide)
  match e : readBytes m a 8, g with
  | [], g => simp at g
  | b :: r, g =>
    simp only [List.getElem?_cons_zero, Option.some.injEq, Nat.add_zero] at g
    rw [show Assoc.get 0 m a = b from g.symm]
    simp only [bitAt, leNat, List.foldr_cons, BitVec.getLsbD, Nat.testBit_zero, Nat.pow_zero, Nat.div_one]
    have : (b.toNat + 256 * List.foldr (fun b n => b.toNat + 256 * n) 0 r) % 2 = b.toNat % 2 := by omega
    rw [this]
    rfl

/-- The entries of a table past the first are invalid where no odd byte begins one. -/
theorem onlyFirst_of (s : State) (table n : Nat) (h : Memory.wf s.mem = true) (ht : table + 8 * (n + 1) < 2 ^ 51)
    (hb : s.mem.all (fun e => !e.2.getLsbD 0 || decide (e.1 < table + 8) || decide (table + 8 * (n + 1) ≤ e.1)) = true) :
    onlyFirst s table n := by
  intro i hi
  have hh : isHostPa (table + 8 * (i + 1)) = false := by
    have : (table + 8 * (i + 1)) / 2 ^ 51 = 0 := Nat.div_eq_of_lt (by omega)
    unfold isHostPa bitAt
    rw [this]
    rfl
  rw [State.physRead, hh]
  simp only [Bool.false_eq_true, if_false]
  rw [valid_bit _ _ h]
  unfold Assoc.get
  cases f : Assoc.find s.mem (table + 8 * (i + 1)) with
  | none => rfl
  | some v =>
    have := List.all_eq_true.mp hb _ (find_mem _ _ _ f)
    simp only [Bool.or_eq_true, decide_eq_true_eq, Bool.not_eq_true', Option.getD_some] at this ⊢
    rcases this with (hv | hv) | hv
    · exact hv
    · omega
    · omega

/-- The root table of the one context, and the first entries of the tables below it, the others being invalid. -/
def Tabled (s : State) : Prop :=
  (s.ctxs.map (fun e => e.2.root) = [0x8000] ∧ leNat (s.physRead 0x8000 8) = 0x10001 ∧ leNat (s.physRead 0x10000 8) = 0x11001 ∧
    leNat (s.physRead 0x11000 8) = 0x12001 ∧ leNat (s.physRead 0x12000 8) = 0x13001) ∧
  onlyFirst s 0x8000 4095 ∧ onlyFirst s 0x10000 511 ∧ onlyFirst s 0x11000 511 ∧ onlyFirst s 0x12000 511

theorem paged_tabled (b : Bool) : Tabled (pagedOn b) := by
  have w : Memory.wf (pagedOn b).mem = true := by revert b; decide +kernel
  refine ⟨by revert b; decide +kernel, ?_, ?_, ?_, ?_⟩
  all_goals exact onlyFirst_of _ _ _ w (by decide) (by revert b; decide +kernel)

/-- The leaves of that context are those of its last table, and its tables the five on the way there. -/
theorem Tabled.walk {α : Type} (s : State) (h : Tabled s) (f : List (Nat × Nat × Nat) → List (Nat × Nat) → List α) :
    s.ctxs.flatMap (fun e => f (s.leavesOf e.2.root walkLevels) (s.tablesOf e.2.root walkLevels)) =
      f (s.leavesOf 0x13000 [(0, 16, 5)])
        ([(0x8000, 0x8000), (0x10000, 0x1000), (0x11000, 0x1000), (0x12000, 0x1000)] ++ s.tablesOf 0x13000 [(0, 16, 5)]) := by
  obtain ⟨⟨roots, e4, e3, e2, e1⟩, h4, h3, h2, h1⟩ := h
  have c : ∀ l : Assoc Ctx, ∀ g : Nat → List α, l.map (fun e => e.2.root) = [0x8000] →
      l.flatMap (fun e => g e.2.root) = g 0x8000 := by
    intro l g h
    match l, h with
    | [], h => cases h
    | [e], h => simp only [List.map_cons, List.map_nil, List.cons.injEq, and_true] at h; simp [h]
    | _ :: _ :: _, h => simp at h
  rw [c s.ctxs (fun r => f (s.leavesOf r walkLevels) (s.tablesOf r walkLevels)) roots, walkLevels,
    leavesOf_first s 0x8000 4 48 12 4095 _ rfl h4, tablesOf_first s 0x8000 4 48 12 4095 _ rfl h4, e4]
  rw [if_neg (by decide), if_neg (by decide), if_neg (by decide), show bits 0x10001 51 8 * 256 = 0x10000 from rfl,
    leavesOf_first s 0x10000 3 39 9 511 _ rfl h3, tablesOf_first s 0x10000 3 39 9 511 _ rfl h3, e3]
  rw [if_neg (by decide), if_neg (by decide), if_neg (by decide), show bits 0x11001 51 8 * 256 = 0x11000 from rfl,
    leavesOf_first s 0x11000 2 30 9 511 _ rfl h2, tablesOf_first s 0x11000 2 30 9 511 _ rfl h2, e2]
  rw [if_neg (by decide), if_neg (by decide), if_neg (by decide), show bits 0x12001 51 8 * 256 = 0x12000 from rfl,
    leavesOf_first s 0x12000 1 21 9 511 _ rfl h1, tablesOf_first s 0x12000 1 21 9 511 _ rfl h1, e1]
  rw [if_neg (by decide), if_neg (by decide), if_neg (by decide), show bits 0x13001 51 8 * 256 = 0x13000 from rfl]
  rfl

/-- The leaves of that package. -/
def pagedLeaves : List (Nat × Nat × Nat) :=
  (List.range 8).map (fun d => (0x13000 + 8 * d, d * 2 ^ 37 + (if d = 1 then 0x10000 else 0x20000), 0x10000)) ++
    [(0x13040, 2 ^ 51, 0x10000)]

theorem paged_last : ∀ b, (pagedOn b).leavesOf 0x13000 [(0, 16, 5)] = pagedLeaves ∧
    (pagedOn b).tablesOf 0x13000 [(0, 16, 5)] = [(0x13000, 0x100)] := by decide +kernel

/-- The frames in use in that package: the pages of its one context and their tables. -/
theorem paged_used (b : Bool) : usedFrames (pagedOn b) = pagedLeaves.map (·.2) ++
    [(0x8000, 0x8000), (0x10000, 0x1000), (0x11000, 0x1000), (0x12000, 0x1000), (0x13000, 0x100)] := by
  rw [usedFrames, (paged_tabled b).walk (f := fun l t => l.map (·.2) ++ t), (paged_last b).1, (paged_last b).2]
  rfl

/-- A write leaves the bytes below it as they were. -/
theorem physRead_below (s : State) (new a n : Nat) (bs : List Byte) (w : Memory.wf s.mem = true) (h : isHostPa new = false)
    (ha : a + n ≤ new) : (s.physWrite new bs).physRead a n = s.physRead a n := by
  unfold State.physRead State.physWrite
  simp only [h, Bool.false_eq_true, if_false]
  split
  · rfl
  · apply List.ext_getElem?
    intro i
    by_cases hi : i < n
    · rw [readBytes_getElem? _ _ _ _ (Memory.wf_writeBytes _ _ _ w) hi, readBytes_getElem? _ _ _ _ w hi,
        get_writeBytes_out _ _ _ _ w (.inl (by omega))]
    · rw [List.getElem?_eq_none (by rw [length_readBytes]; omega), List.getElem?_eq_none (by rw [length_readBytes]; omega)]

/-- A write above the tables leaves the leaves as they were. -/
theorem paged_leaves_after (bs : List Byte) : let s1 := (pagedOn false).physWrite (1 * 2 ^ 37) bs
    s1.ctxs.flatMap (fun x => s1.leavesOf x.2.root walkLevels) = pagedLeaves := by
  have w : Memory.wf (pagedOn false).mem = true := by decide +kernel
  have r : ∀ a n, a + n ≤ 1 * 2 ^ 37 →
      ((pagedOn false).physWrite (1 * 2 ^ 37) bs).physRead a n = (pagedOn false).physRead a n :=
    fun a n => physRead_below _ _ a n bs w (by decide)
  have c : ((pagedOn false).physWrite (1 * 2 ^ 37) bs).ctxs = (pagedOn false).ctxs := rfl
  have keeps : ∀ table n, table + 8 * (n + 1) ≤ 1 * 2 ^ 37 → onlyFirst (pagedOn false) table n →
      onlyFirst ((pagedOn false).physWrite (1 * 2 ^ 37) bs) table n := by
    intro table n ht h i hi
    rw [r _ _ (by omega)]
    exact h i hi
  have same : ((pagedOn false).physWrite (1 * 2 ^ 37) bs).leavesOf 0x13000 [(0, 16, 5)] = pagedLeaves := by
    rw [← (paged_last false).1, State.leavesOf, State.leavesOf]
    apply List.flatMap_congr
    intro i hi
    have hi := List.mem_range.mp hi
    simp only [r (0x13000 + 8 * i) 8 (by omega), State.leavesOf]
  obtain ⟨⟨roots, e4, e3, e2, e1⟩, h4, h3, h2, h1⟩ := paged_tabled false
  have t : Tabled ((pagedOn false).physWrite (1 * 2 ^ 37) bs) := by
    refine ⟨⟨by rw [c, roots], ?_, ?_, ?_, ?_⟩, keeps _ _ (by decide) h4, keeps _ _ (by decide) h3, keeps _ _ (by decide) h2,
      keeps _ _ (by decide) h1⟩
    · rw [r _ _ (by decide), e4]
    · rw [r _ _ (by decide), e3]
    · rw [r _ _ (by decide), e2]
    · rw [r _ _ (by decide), e1]
  exact (t.walk (f := fun l _ => l)).trans same

theorem paged_frame (b : Bool) : (pagedOn b).pickFrame 1 65536 = some (1 * 2 ^ 37) :=
  pickFrame_two _ 1 65536 (by revert b; decide +kernel) (by revert b; decide +kernel) (by rw [paged_used]; decide +kernel)
    (by rw [paged_used]; decide +kernel)

/-- A page is moved, or waits for a sector of it that an L1 does not give up. -/
theorem movePage_some (s : State) (ctx va stack root ea e shift new : Nat) (ok : Nat → Bool)
    (hc : (Assoc.find s.ctxs ctx).map (·.root) = some root) (hv : (regionOf va == 0) = true) (hl : s.leafOf root va walkLevels = some (ea, e, shift))
    (ho : (ok shift && s.paOk (bits e 51 8 * 256)) = true) (hp : s.pickFrame stack (2 ^ shift) = some new) :
    ∃ s1, s.movePage ctx va stack ok =
      if (s.recallPage (bits e 51 8 * 256) (2 ^ shift)).pageHeld (bits e 51 8 * 256) (2 ^ shift) then .waiting s1 else .moved s1 := by
  obtain ⟨c, hc, hr⟩ := Option.map_eq_some_iff.mp hc
  unfold State.movePage
  rw [hc]
  simp only [Option.bind_some, State.pageOf, hv, hr, hl, ho, if_true, hp]
  split
  · exact ⟨_, rfl⟩
  · exact ⟨_, rfl⟩

theorem paged_leaf (b : Bool) : (pagedOn b).leafOf 0x8000 0x10000 walkLevels = some (0x13008, 2 ^ 37 + 0x10000 + 15, 16) := by
  revert b; decide +kernel

theorem paged_held : ∀ b, ((pagedOn b).recallPage (bits (2 ^ 37 + 0x10000 + 15) 51 8 * 256) (2 ^ 16)).pageHeld
    (bits (2 ^ 37 + 0x10000 + 15) 51 8 * 256) (2 ^ 16) = b := by decide +kernel

theorem paged_moves (b : Bool) : ∃ s1, (pagedOn b).movePage 0 0x10000 1 (· == 16) = if b then .waiting s1 else .moved s1 := by
  obtain ⟨s1, h⟩ := movePage_some (pagedOn b) 0 0x10000 1 0x8000 _ _ 16 _ (· == 16) (by revert b; decide +kernel) (by decide) (paged_leaf b)
    (by revert b; decide +kernel) (paged_frame b)
  exact ⟨s1, by rw [h, paged_held b]⟩

theorem page_refused : (ringing 3).movePage 0 0 1 (· == 16) = .refused := by
  unfold State.movePage
  rw [show ((Assoc.find (ringing 3).ctxs 0).bind fun c => (ringing 3).pageOf c.root 0) = none by decide +kernel]

theorem meets_ResultsLandInTime :
    (∀ w : Stall, RegsOk (tk.sq .k) ∧ (tk.sq .k).late = [] ∧ (∀ i ∈ (tk.sq .k).ilk, i.land = none) ∧ (SReg.x 31).code ≠ 0 ∧
      Assoc.find (((st .k id).result 0 .k 4 (.x 31) 7).complete 0 .k w 4).tasks 0 ≠ none) ∧
    (∀ e ∈ [(2, 3), (5, 0)], let f := fun t : Task => { t with kq := { t.kq with clk := e.1, stall := e.2, late := [shadow] } };
      Assoc.find (st .k f).tasks 0 = some (f tk) ∧ (f tk).issues .k = true ∧ ((st .k f).die (f tk).die).halted = false ∧
      RegsOk (f tk).kq ∧ (f tk).kq.late = [shadow] ∧ (f tk).kq.ilk = [] ∧ (f tk).kq.clk ≤ shadow.land ∧ shadow.land ≤ (f tk).kq.clk + (f tk).kq.stall) ∧
    (let f := fun t : Task => { t with kq := { t.kq with clk := 2, stall := 3, ilk := [anIlk (some 5)] } };
      Assoc.find (st .k f).tasks 0 = some (f tk) ∧ (f tk).issues .k = true ∧ ((st .k f).die (f tk).die).halted = false ∧
      RegsOk (f tk).kq ∧ (f tk).kq.late = [] ∧ (f tk).kq.ilk = [anIlk (some 5)] ∧ (f tk).kq.clk ≤ 5 ∧
      5 ≤ (f tk).kq.clk + (f tk).kq.stall ∧ (anIlk (some 5)).code ≠ 0) ∧
    (∀ e ∈ [Late.vreg 31 3 [(0, 7), (1, 8)], .preg 0 3 1, .preg 15 3 1, .sq 3 1 { data := [(0, 7)], mask := 3 }],
      let f := fun t : Task => { loaded t with storePorts := [(3, [{ id := 1, op := none }])],
                                               cq := { t.cq with clk := 2, stall := 3, late := [{ land := 5, what := e }] } };
      Assoc.find (st .c f).tasks 0 = some (f tk) ∧ (f tk).issues .c = true ∧ ((st .c f).die (f tk).die).halted = false ∧
      (f tk).cq.late = [{ land := 5, what := e }] ∧ (f tk).cq.ilk = [] ∧ (f tk).cq.clk ≤ 5 ∧ 5 ≤ (f tk).cq.clk + (f tk).cq.stall ∧
      Assoc.wf [] (f tk).v = true ∧ Assoc.wf 0 ((f tk).vreg 31) = true ∧ Assoc.wf 0 [(0, (7 : BitVec 32)), (1, 8)] = true ∧
      Assoc.wf 0 (f tk).p = true ∧ Assoc.wf [] (f tk).storePorts = true) ∧
    (∀ r ∈ [Wait.pop [0], .push 3, .ttake, .tgive, .tend, .phaser],
      let f := fun t : Task => { t with kq := { t.kq with wait := some r } };
      Assoc.find (st .k f).tasks 0 = some (f tk) ∧ ((f tk).sq .k).wait = some r) ∧
    Assoc.wf CoreState.start (st .k id).cores = true ∧ Assoc.wf Die.start (st .k id).dies = true := by
  unfold RegsOk
  and_intros <;> decide +kernel

/-- Generator `g` walks one operand of a 4 KiB chunk from `base` on, or is inside the scratchpad's first; store generators have data
for it, and the walk waits for some fences before a page walk. -/
def walkingPast (xl : List Nat) (g base : Nat) (busy : Bool) (t : Task) : Task :=
  { t with gens := [(g, { Gen.start with active := some { aset with xl := xl, par := { AgParams.start with base := BitVec.ofNat 64 base } },
                                         busy := busy, begun := if busy then (List.range 64).map fun k => .spad (64 * k) else [] })],
           storePorts := if 4 ≤ g then [(g - 4, [{ id := 1, op := some { data := [(0, 5)], mask := BitVec.allOnes 1024 } }])] else [] }

/-- The walk with no fence to wait for. -/
def walking (g base : Nat) (busy : Bool) (t : Task) : Task := walkingPast [] g base busy t

theorem meets_GeneratorEvents :
    (∀ g ∈ [0, 3, 4, 7], ∀ b ∈ [false, true], let t := walking g 0xFF0000000000000 b tk;
      Assoc.find (st .l (walking g 0xFF0000000000000 b)).tasks 0 = some t ∧ Assoc.wf Gen.start t.gens = true ∧
      (st .l (walking g 0xFF0000000000000 b)).moves t = true ∧ Assoc.wf [] t.loadPorts = true ∧ Assoc.wf [] t.storePorts = true ∧ (t.gen g).active.isSome = true ∧ t.life = .running ∧
      (t.gen g).halt = none ∧ (t.gen g).busy = b ∧ (t.gen g).stopping = false ∧ t.clear aset.after = true ∧ t.portReady g = true ∧
      (b = true → (st .l (walking g 0xFF0000000000000 b)).partPoison 0 t ((st .l (walking g 0xFF0000000000000 b)).begunParts t g) = none ∧
        t.partsHeld ((st .l (walking g 0xFF0000000000000 b)).begunParts t g) = false)) ∧
    (∀ g ∈ [0, 3, 4, 7], ∀ b ∈ [false, true], let f := fun t => walkingPast [9] g (2 ^ 22) false (if b then walled t else t);
      Assoc.find (st .l f).tasks 0 = some (f tk) ∧ (st .l f).moves (f tk) = true ∧ (f tk).clear aset.after = true ∧ (f tk).portReady g = true ∧
      (({ AgParams.start with base := BitVec.ofNat 64 (2 ^ 22) }.operandPieces (decide (4 ≤ g)) 0).any fun y =>
        (st .l f).walkHeldBy (f tk) [9] y.va y.len) = b) ∧
    (∀ g ∈ [0, 3, 4, 7],
      let b : TlbEntry := { asid := 0, vbase := 2 ^ 21, size := 2 ^ 16, pbase := 0, perm := 7, mtype := 0 };
      let s := { st .l (walking g (2 ^ 21) false) with poison := [(.tlb 0 0 0 (2 ^ 21), 5)], coreTlb := [(0, [b])] };
      (s.operandFault (walking g (2 ^ 21) false tk) g { AgParams.start with base := BitVec.ofNat 64 (2 ^ 21) } 0).map (·.cause) = some 5) ∧
    (∀ g ∈ [0, 3, 4, 7], ∀ base ∈ [0xFF0000000000000, 2 ^ 59],
      let s := st .l (walking g base false);
      (s.operandFault (walking g base false tk) g { AgParams.start with base := BitVec.ofNat 64 base } 0).map (·.cause) =
        (if base = 0xFF0000000000000 then none else some 3) ∧
      (base = 0xFF0000000000000 → s.operandPoison 0 (walking g base false tk) { AgParams.start with base := BitVec.ofNat 64 base } 0 = none) ∧
      ({ AgParams.start with base := BitVec.ofNat 64 base }.inSpad (decide (4 ≤ g)) 0 = decide (base = 0xFF0000000000000))) ∧
    (∀ q ∈ [[], [(0, 3)], [(1, 0)]], let s := (st .l (walking 3 0xFF0000000000000 false)).setCore 0 0 { CoreState.start with agQ := q };
      Assoc.wf CoreState.start s.cores = true ∧ ((s.core 0 0).agQ.head? = some (0, 3) ↔ q = [(0, 3)])) ∧
    (let s := { st .l (walking 3 0xFF0000000000000 false) with poison := [(.scratch 0 64, 3)] };
      let p : AgParams := { AgParams.start with base := 0xFF0000000000000 };
      s.operandFault (walking 3 0xFF0000000000000 false tk) 3 p 0 = none ∧
      s.operandPoison 0 (walking 3 0xFF0000000000000 false tk) p 0 = some (3, 0xFF0000000000040)) ∧
    (let f := walking 3 0xFF0000000000000 true; let s := { st .l f with poison := [(.scratch 0 64, 3)] };
      s.partPoison 0 (f tk) (s.begunParts (f tk) 3) = some (3, 0xFF0000000000040)) ∧
    (let f := fun t => walking 4 0xFF0000000000000 true (committed t); let p : AgParams := { AgParams.start with base := 0xFF0000000000000 };
      Assoc.find (st .l f).tasks 0 = some (f tk) ∧ (st .l f).moves (f tk) = true ∧ (st .l f).operandFault (f tk) 4 p 0 = none ∧
      (f tk).partsHeld ((st .l f).begunParts (f tk) 4) = true ∧ ((f tk).storePort 0).length = 1) := by
  and_intros <;> decide +kernel

/-- An operation that runs. -/
def engOp (e : Engine) (job : EngJob) (pos : Nat) (f : Option EngFault) : EngOp :=
  { EngOp.new 7 e .k 1 (if e = .copy then none else some 256) job [] with started := true, pos := pos, fault := f }

/-- The task runs it. -/
def engaged (o : EngOp) (t : Task) : Task := { t with eng := [o] }

/-- A tensor of one dimension of `n` f32 elements, all at the same place of the scratchpad. -/
def tensor (n at_ : Nat) : Tensor :=
  { tsr := [BitVec.ofNat 64 (0xFF0 * 2 ^ 48 + at_), 1, BitVec.ofNat 64 n], tlr := [0, 0, 0, 2 ^ 32] }

/-- A committed product that reserves metadata. -/
def sparse (t : Task) : Task :=
  let a : Selector := { desc := { desc false with sparse := true, moff := 64 }, cur := 0 }
  let o : MatOp := { product t with sparse := true, a := a }
  { committed t with batches := [{ num := some 1, planned := 0, ops := [o] }] }

theorem meets_EngineEvents :
    (∀ n ∈ [1, 3], let w := BitVec.ofNat 64 n;
      let f := fun t => { forked .copy t with eng := [{ EngOp.new 7 .copy .k 1 none .none [] with waitMask := w }], evt := 1 };
      Assoc.find (st .k f).tasks 0 = some (f tk) ∧ (st .k f).moves (f tk) = true ∧ ((f tk).unstarted .copy).isSome = true ∧
      ((f tk).unstarted .copy).all (fun o => !o.job.isPending) = true ∧
      (((f tk).evt &&& w).toNat = n ↔ n = 1) ∧ (f tk).clear [] = true ∧ (∀ b ∈ enginesBefore .copy, (f tk).starts b = false)) ∧
    (let f := fun t => { forked .copy t with eng := [EngOp.new 7 .copy .k 1 (some 0) (.pending 0) []] };
      Assoc.find (st .k f).tasks 0 = some (f tk) ∧ ((f tk).unstarted .copy).any (fun o => o.job.isPending) = true) ∧
    (∀ e ∈ [Engine.copy, .hist], let o := engOp e .none 0 (some (EngFault.at_ 8 0)); let f := engaged o;
      Assoc.find (st .k f).tasks 0 = some (f tk) ∧ (st .k f).moves (f tk) = true ∧ (f tk).running e = some o ∧
      ((f tk).dropOp o).spadReserved (256 + 16) (256 + 24) = false) ∧
    (∀ n ∈ [0, 1], ∀ b ∈ [false, true], let o := engOp .copy (.mdld 0 64 4160) n none;
      let f := fun t => engaged o (if b then sparse t else t);
      Assoc.find (st .k f).tasks 0 = some (f tk) ∧ (st .k f).moves (f tk) = true ∧ (f tk).running .copy = some o ∧
      Assoc.wf 0 (f tk).md = true ∧ o.block = none ∧ o.kept = none ∧ (st .k f).noWalks = false ∧ (f tk).clear o.xl = true ∧
      (∀ y ∈ (f tk).eng, y.uid = o.uid → y = o) ∧ (f tk).tt.mdd ≤ 8 ∧ 64 + 4160 ≤ 4096 * (f tk).tt.mdd ∧ 4096 * n < 4160 ∧
      (f tk).mdReserved (64 + 4096 * n) (64 + 4096 * n + min 4096 (4160 - 4096 * n)) = (b && n == 0) ∧
      ((st .k f).engineRead 0 (f tk) (0 + 4096 * n) (min 4096 (4160 - 4096 * n))).toOption.isSome = true ∧
      (4160 ≤ 4096 * n + min 4096 (4160 - 4096 * n) ↔ n = 1)) ∧
    (let x := tensor 1 0; let k : Chunk := { bytes := [(0xFF0000000000040, [1, 2])], lossy := 0, last := false };
      let o := { engOp .copy (.copy x.tsr x.tlr x.tsr x.tlr false false 0) 0 none with kept := some k }; let f := engaged o; let s := st .k f;
      (f tk).running .copy = some o ∧ s.moves (f tk) = true ∧ o.fault = none ∧ s.noWalks = false ∧ (f tk).clear o.xl = true ∧
      (k.bytes.any fun r => s.rangeHeld (f tk) r.1 r.2.length) = false ∧ (s.writeAll 0 (f tk) k.bytes).2 = none) ∧
    (let x := tensor 0 0; let o := engOp .copy (.copy x.tsr x.tlr x.tsr x.tlr false false 0) 0 none; let f := engaged o; let s := st .k f;
      (f tk).running .copy = some o ∧ s.moves (f tk) = true ∧ o.fault = none ∧ o.kept = none ∧ s.noWalks = false ∧
      (f tk).clear o.xl = true ∧ o.block = none ∧ (∀ z ∈ (f tk).eng, z.uid = o.uid → z = o) ∧ x.count = 0) ∧
    (let x := tensor 1 0; let y := tensor 1 64;
      let o := engOp .copy (.copy x.tsr x.tlr y.tsr y.tlr false false 0) 0 none; let f := engaged o; let s := st .k f; let t := f tk;
      let c : CopyWalk := { src := x, dst := y, trans := false, enc := { ty := .f32, blk := 0 }, rnd := .rne, sat := false };
      t.running .copy = some o ∧ s.moves t = true ∧ o.kept = none ∧ s.noWalks = false ∧ t.clear o.xl = true ∧
      Assoc.find ((s.readElems 0 t c [0]).1.touchDst 0 t c [0]).1.tasks 0 = some t ∧ (s.writeEnc 0 t y).toOption = some c.enc ∧ 0 < c.src.count ∧
      (s.readElems 0 t c [0]).2.toOption.isSome = true ∧ ((s.readElems 0 t c [0]).1.touchDst 0 t c [0]).2 = none ∧
      (let es := (s.readElems 0 t c [0]).2.toOption.getD []; let s2 := ((s.readElems 0 t c [0]).1.touchDst 0 t c [0]).1;
        let rs := runs (s2.chunkImage 0 t c [0] [c.group t.wid o [0] es]);
        es.length = 1 ∧ rs.length = 1 ∧ (s2.writeAll 0 t rs).2 = none ∧ ∀ p ∈ rs, s2.rangeHeld t p.1 p.2.length = false)) ∧
    (let x := tensor 1 0; let o := engOp .hist (.hist x.tsr x.tlr 0) 0 none; let f := engaged o; let s := st .k f; let t := f tk;
      t.running .hist = some o ∧ s.moves t = true ∧ s.noWalks = false ∧ t.clear o.xl = true ∧ Assoc.wf 0 t.hist = true ∧ (t.dropOp o).spadReserved (256 + 16) (256 + 24) = false ∧ t.spadReserved (256 + 16) (256 + 24) = false ∧
      ((s.countBins (Tensor.count x) 0 t x 0 0 []).2.toOption.map (Assoc.wf 0)) = some true) := by
  and_intros <;> decide +kernel

/-- The words of a walk of `n` transfers of 64 bytes from the scratchpad's start to 4096 there, in the same task. -/
def walkRec (n : Nat) : List Word :=
  let v := 0xFF0 * 2 ^ 48 + (0xFF0 * 2 ^ 48 + 0x1000) * 2 ^ 64 + 64 * 2 ^ 128 + 63 * 2 ^ 165 +
    ((List.range 6).map fun d => (if d = 0 then n else 1) * 2 ^ (192 * d + 512)).sum
  (List.range 32).map fun k => BitVec.ofNat 64 (v / 2 ^ (64 * k))

/-- A walk whose transfers up to `k` are sent. -/
def walkOp' (n k : Nat) : EngOp :=
  { EngOp.new 7 .tmu .k 1 none (.walk (walkRec n) [] false) [] with started := true, pos := k }

/-- A transfer of 64 bytes to the scratchpad of the task of work identifier `wid` of launch 0 on package `pkg`. -/
def landing (wid pkg : Nat) : Xfer :=
  { id := 4, pkg := pkg, sender := none, job := 0, lrec := 0, wid := BitVec.ofNat 64 wid, addr := 0xFF0000000001000, op := 0,
    rcnt := 5, bytes := List.replicate 64 9, sse := none, part := none, rod := none }

theorem meets_TransferEvents :
    (∀ k ∈ [0, 1], let o := walkOp' 1 k; let f := engaged o; let s := st .k f; let t := f tk; let w := walkRec 1; let i := walkTuple w k;
      Assoc.find s.tasks 0 = some t ∧ s.moves t = true ∧ t.eng.find? EngOp.walkReady = some o ∧ o.fault = none ∧
      (walkTotal w ≤ k ↔ k = 1) ∧ t.life = .running ∧
      (k = 0 → walkWid (s.lrec t.lr) w i t.wid.toNat = some 0 ∧ walkPkg w i s.pkgIndex = s.pkgIndex ∧
        s.destination t.lr 0 = .resident 0 ∧ s.targetBad t (walkAddr (walkDbase w) (walkDstr w) i) (walkXfer w) (walkOp w) = none ∧
        s.walkHeldBy t o.xl (walkAddr (walkSbase w) (walkSstr w) i) (walkXfer w) = false ∧
        s.sourceBad 0 t (walkAddr (walkSbase w) (walkSstr w) i) (walkXfer w) = none ∧
        s.rangeBusy t (walkAddr (walkSbase w) (walkSstr w) i) (walkXfer w) = false ∧ walkSse w = false ∧
        (s.readVa t (walkAddr (walkSbase w) (walkSstr w) i) (walkXfer w) .read false).toOption.isSome = true)) ∧
    (∀ e ∈ [(0, 0), (1, 0), (0, 1)], let s := { st .k id with xfers := [landing e.1 e.2] }; let x := landing e.1 e.2;
      s.xfers.find? (fun y => y.id == x.id) = some x ∧ s.landsLater x = false ∧ x.sse = none ∧ s.moves tk = true ∧
      (e = (0, 0) → s.destination x.lrec x.wid = .resident 0) ∧ (e = (1, 0) → s.destination x.lrec x.wid = .gone) ∧ (x.pkg = s.pkgIndex ↔ e.2 = 0)) ∧
    (∀ g ∈ [none, some (EngFault.at_ 9 0)], let o := { walkOp' 2 1 with fault := g }; let x := { landing 1 0 with sender := some (0, 7, 0) };
      let s := { st .k (engaged o) with xfers := [x] };
      s.xfers.find? (fun y => y.id == x.id) = some x ∧ s.destination x.lrec x.wid = .gone ∧
      Assoc.find s.tasks 0 = some (engaged o tk) ∧ o.uid = 7 ∧ o.fault = g) ∧
    (let x := { landing 0 0 with addr := 0xFF0000000000000 }; let s := { st .k committed with xfers := [x] };
      s.landsLater x = false ∧ s.destination x.lrec x.wid = .resident 0 ∧ s.moves (committed tk) = true ∧
      s.targetBad (committed tk) x.addr.toNat x.bytes.length x.op = none ∧
      s.rangeHeld (committed tk) x.addr.toNat x.bytes.length = true) ∧
    (st .k fun t => { t with life := .cut }).destination 0 0 = .absent ∧
    (tk.tt.spd ≤ 32 ∧ 0x1000 + 64 ≤ 32768 * tk.tt.spd ∧ tk.spadReserved 0x1000 (0x1000 + 64) = false ∧ Assoc.wf 0 tk.spad = true ∧
      Assoc.wf (0, 0) tk.rcv = true) ∧
    (st .k id).xfers.find? (fun y => y.id == 4) = none := by
  and_intros <;> decide +kernel

/-- A fence of the K-seq that waits for nothing, or for access 9. -/
def due (preds : List Nat) (t : Task) : Task :=
  { t with kq := { t.kq with barriers := [{ id := 5, preds := preds, holds := 1, wb := false, inv := false, scope := 1,
                                            partner := none, k := 0, fork := none }] } }

theorem meets_OrderAndPageEvents :
    (∀ va ∈ [0x10000, 0x10000000], let s := paged (ringing 3);
      (Assoc.find s.ctxs 0).map (fun c => (c.asid, c.root)) = some (0, 0x8000) ∧ regionOf va = 0 ∧ Assoc.wf [] s.dieTlb = true ∧
      ((pageWalk s 0 0x8000 va walkLevels).toOption.isSome = true ↔ va = 0x10000)) ∧ regionOf (2 ^ 60) ≠ 0 ∧
    (let s := paged (ringing 3); Memory.wf s.mem = true ∧ isHostPa (2 ^ 37 + 0x10000) = false ∧
      bits (2 ^ 37 + 0x10000 + 15) 51 8 * 256 = 2 ^ 37 + 0x10000 ∧ stackOf (2 ^ 37 + 0x10000) = 1 ∧ isHostPa (1 * 2 ^ 37) = false ∧
      s.paOk (2 ^ 37 + 0x10000) = true) ∧
    ((paged (ringing 3)).leafOf 0x8000 0x10000 walkLevels = some (0x13008, 2 ^ 37 + 0x10000 + 15, 16) ∧
      (paged (ringing 3)).pickFrame 1 65536 = some (1 * 2 ^ 37)) ∧
    (∀ b, ((pagedOn b).recallPage (bits (2 ^ 37 + 0x10000 + 15) 51 8 * 256) (2 ^ 16)).pageHeld
      (bits (2 ^ 37 + 0x10000 + 15) 51 8 * 256) (2 ^ 16) = b) ∧
    (∀ bs, (let s1 := (pagedOn false).physWrite (1 * 2 ^ 37) bs;
      s1.ctxs.flatMap (fun x => s1.leavesOf x.2.root walkLevels) = pagedLeaves)) ∧
    ((∀ x ∈ pagedLeaves, x.1 + 8 ≤ 1 * 2 ^ 37) ∧
      ∀ x ∈ pagedLeaves, ∀ y ∈ pagedLeaves, x.1 = y.1 ∨ x.1 + 8 ≤ y.1 ∨ y.1 + 8 ≤ x.1) ∧
    (∀ l ∈ [[], [9]], let t := due l { tk with kq := { tk.kq with held := [{ uid := 9, acc := .load 0 3 (.spad 0), after := [] }] } };
      (st .k fun _ => t).moves t = true ∧ ((t.fenceDue .k).isSome = true ↔ l = [])) ∧
    ((paired tk).pairDue .k .l).isSome = true ∧ tk.pairDue .k .l = none ∧ tk.kq.held = [] ∧ tk.kq.peers = [] ∧ tk.wq.peers = [] ∧
    (∀ f ∈ [due [], fun t => { due [] t with holding := true }], (f tk).holding = true ∨ (st .k f).peerHeld 0 (f tk) = false) := by
  refine ⟨?_, ?_, ?_, ⟨paged_leaf false, paged_frame false⟩, paged_held, paged_leaves_after, ?_⟩ <;> and_intros <;> decide +kernel

/-- The contexts after a change. -/
def ctxWith (s : State) (f : Ctx → Ctx) : State := { s with ctxs := s.ctxs.map fun e => (e.1, f e.2) }

/-- The task watches a sector, and a wake of reason `r` is noted. -/
def watching (l : Option Loc) (r : Nat) (w : Option Wait) (t : Task) : Task :=
  { t with mon := { t.mon with sector := l, reason := r }, kq := { t.kq with wait := w, waited := 100 }, sto := 100 }

/-- Context 0 with an event queue of 16 slots at 0, of which `n` were written and `lost` records were not. -/
def queued (n lost : Nat) (s : State) : State :=
  { s with ctxs := s.ctxs.map fun e => (e.1, { e.2 with evq := some (0, 4), produced := BitVec.ofNat 64 n, lost := lost }) }

theorem meets_MonitorsAndWaits :
    (∀ v ∈ [2 ^ 60, 0xFF0000000000040, 0xFF0000000100000, 0xFF0000000140000], let f := reg .k (.x 1) (BitVec.ofNat 64 v);
      Ready (st .k f) 0 .k (f tk) [.s (SReg.x 3).code, .s (SReg.x 1).code] ∧ ((f tk).kq.rd (.x 1)).toNat = v) ∧
    (∀ e ∈ ([(0xFF0000000000040, Except.ok (Place.spad 64)), (0xFF0000000100000, .ok (.acc 0)), (0xFF0000000140000, .ok (.md 0)),
        (0xFF0000000200000, .error .address), (2 ^ 22, .error (.translation 1)), (64, .ok (.phys 64 false)), (2 ^ 23, .ok (.phys 0 true)),
        (2 ^ 24, .ok (.phys (2 ^ 51) false)), (0xFF1000000000000, .ok (.cluster 0)), (0xFF2000000000000, .ok (.stripe 0))] : List (Nat × Except Refuse Place)),
      let s := { ctxWith (st .k id) fun c => { c with stripe := 1 } with
                               coreTlb := [(0, [{ asid := 0, vbase := 0, size := 2 ^ 21, pbase := 0, perm := 7, mtype := 0 },
                                                { asid := 0, vbase := 2 ^ 23, size := 2 ^ 16, pbase := 0, perm := 7, mtype := 1 },
                                                { asid := 0, vbase := 2 ^ 24, size := 2 ^ 16, pbase := 2 ^ 51, perm := 7, mtype := 0 }])] };
      let t := { tk with tt := { tk.tt with clsd := 1 } }; s.resolve t e.1 .read = e.2 ∧ e.1 < 2 ^ 60) ∧
    (∀ e ∈ [(none, 0), (some (Loc.hbm 64), 0), (some (.hbm 64), 2)], let f := watching e.1 e.2 none;
      Ready (st .k f) 0 .k (f tk) [.s (SReg.x 3).code, .s (SReg.x 1).code] ∧ (f tk).mon.sector = e.1 ∧ (f tk).mon.reason = e.2) ∧
    (∀ w ∈ [none, some Wait.monitor], ∀ n ∈ [0, 2], let f := watching (some (.hbm 64)) n w;
      Assoc.find (st .k f).tasks 0 = some (f tk) ∧ (f tk).mon.spurious ≤ (f tk).streamClk ∧ (f tk).resident = true ∧
      (f tk).marksWaiting .k = [] ∧ (f tk).sto.toNat ≤ (f tk).kq.waited ∧ (f tk).kq.hung = false ∧ (f tk).sto ≠ 0 ∧
      ((f tk).kq.reason = 0 ↔ w = none) ∧ ((f tk).mon.reason ≠ 0 ↔ n = 2)) ∧
    (let f := fun t : Task => { t with mon := { t.mon with sector := some (.hbm 64), spurious := 2 ^ 20 } };
      (f tk).mon.sector = some (.hbm 64) ∧ (f tk).streamClk < (f tk).mon.spurious) ∧
    (∀ b ∈ [false, true], let f := watching (some (.hbm 64)) 0 (some .monitor);
      let s := (st .k f).setDie 0 { (st .k f).die 0 with halted := b };
      Assoc.find s.tasks 0 = some (f tk) ∧ s.moves (f tk) = !b) ∧
    (let s := queued 15 0 (st .k (watching none 0 (some .monitor)));
      (Assoc.find s.ctxs 0).map (fun c => (c.evq, c.lost, s.evqFree 0 4 c.produced)) = some (some (0, 4), 0, true) ∧
      Memory.wf s.hostMem = true) ∧
    (let s := { st .k id with queues := [(7, { ctx := 0, k := 1, fixed := false, entries := [4], waiters := [{ task := 0, code := 3, stall := 0 }], taken := 0 })] };
      (Assoc.find s.queues 7).isSome = true ∧ s.poisonAt (.wq 7 0) = none ∧ Assoc.find s.tasks 0 = some tk ∧
      ∀ b ∈ [false, true], let s := s.setDie 0 { s.die 0 with halted := b };
        s.moves tk = !b ∧ tk.fixedPop = false ∧ (s.die tk.die).hot = false) ∧
    ((withRec (st .k id) 0 { rec0 .running (2 ^ 3) with ready := some 0 }).lrec tk.lr).pers = true := by
  unfold Ready
  and_intros <;> decide +kernel

/-- An image of task 0 on die 1. -/
def savedTk : SavedTask := { place := 1, task := tk, marks := [] }

theorem meets_CutsAndTheirEnd :
    (∀ l ∈ [Life.running, .ending], let f := fun t : Task => { t with life := l };
      Ready (st .w f) 0 .w (f tk) [.s (SReg.a 15).code] ∧ (f tk).life = l ∧ (f tk).popped = none ∧ (f tk).sync = none ∧
      ((f tk).sq .w).late = []) ∧
    (∀ why ∈ [Cut.preempt, .withdraw, .halt, .interval, .image 3, .cancel, .replay 4], ∀ b ∈ [false, true],
      let f := fun t : Task => { t with life := .cutting why };
      let s := { paged (st .k f) with images := [(0, savedTk)] };
      let s := ctxWith s fun c => { c with image := if b then some (0, 2 ^ 19, 2 ^ 19, 2 ^ 16) else none };
      let s0 := (s.setTask 0 (f tk).retireOpen).settleTask 0;
      Assoc.find s.tasks 0 = some (f tk) ∧ (f tk).life = .cutting why ∧ s.moves (f tk) = true ∧ (f tk).matrixRuns = false ∧
      (∃ t0 ∈ Assoc.find s0.tasks 0, s0.cutReady t0 = true ∧ s0.imageFits t0 = b ∧ RegsOk t0.kq ∧ s0.movesTo t0 = none ∧
        (s0.die t0.die).lostCores.contains t0.core = false) ∧ TasksOk s0 ∧ Assoc.find s0.images 0 = some savedTk) ∧
    (∀ b ∈ [false, true], let f := fun t : Task => { t with life := .cutting (.replay 4) };
      let s := { paged (st .k f) with images := [(0, savedTk)] };
      let s := if b then ctxWith (withRec s 0 { s.lrec 0 with onDies := [] }) fun c => { c with vdies := [(0, 1)] }
        else s.setDie 0 { s.die 0 with lostCores := [0] };
      let s0 := (s.setTask 0 (f tk).retireOpen).settleTask 0;
      Assoc.find s.tasks 0 = some (f tk) ∧ s.moves (f tk) = true ∧ (f tk).matrixRuns = false ∧ TasksOk s0 ∧
      Assoc.find s0.images 0 = some savedTk ∧
      ∃ t0 ∈ Assoc.find s0.tasks 0, s0.cutReady t0 = true ∧ s0.movesTo t0 = (if b then some 1 else none) ∧
        ((s0.die t0.die).lostCores.contains t0.core = true ↔ b = false)) ∧
    (let f := fun t : Task => { committed t with life := .cutting .halt }; (f tk).matrixRuns = true) ∧
    (let f := fun t : Task => { gemving 1 none t with life := .cutting .halt }; let s := st .k f;
      let s0 := (s.setTask 0 (f tk).retireOpen).settleTask 0;
      (f tk).matrixRuns = false ∧ s.moves (f tk) = true ∧ (Assoc.find s0.tasks 0).map s0.cutReady = some false) ∧
    (∀ l ∈ [Life.running, .cut], let f := fun t : Task => { t with life := l };
      Assoc.find (st .k f).tasks 0 = some (f tk) ∧
      (l = .cut → ((st .k f).pickCore (f tk).die (f tk).lr (f tk).prio (f tk).tt (f tk).lots).isSome = true)) ∧
    (let s := (st .k fun t => { t with life := .cut }).setDie 0 { (st .k id).die 0 with working := false };
      s.pickCore 0 0 tk.prio tk.tt tk.lots = none) ∧
    (watching (some (.stripe 3 0 64)) 0 none tk).mon.sector = some (.stripe 3 0 64) ∧
    (∀ n ∈ [0, 5], let s := { st .k id with ctxs := (st .k id).ctxs.map fun e => (e.1, { e.2 with interval := n }) };
      TasksOk s ∧ (Assoc.find s.ctxs 0).map (·.interval) = some n ∧ tk.ctx = 0 ∧ tk.life = .running) := by
  unfold Ready RegsOk TasksOk
  and_intros <;> decide +kernel

/-- Launch 0 of context 0, of two tasks, whose first is placed. -/
def launched (f : LaunchRec → LaunchRec) : State :=
  let r := f { rec0 .running 0 with words := [(2, 1), (3, 2)], next := 1, ready := some 0, granted := [0], tt := some TaskType.placed }
  let s := withRec (st .k id) 0 r
  { s with retirements := [{ lr := 0, arming := 0, hold := 4 }], nextTask := 1 }

theorem meets_HubEvents :
    (st .k id).retirements = [] ∧
    (∀ n ∈ [0, 1], let s := launched fun r => { r with retired := n }; let r := s.lrec 0;
      Assoc.wf LaunchRec.free s.recs = true ∧ r.armcnt = 0 ∧ r.state = .running ∧ r.ready ≠ none ∧ (r.retired + 1 = r.total ↔ n = 1) ∧ r.kind = 0 ∧
      r.na = 0 ∧ r.ckind = 0 ∧ r.pushHeld = false ∧ s.cpq = []) ∧
    ((launched fun r => { r with armcnt := 1 }).lrec 0).armcnt ≠ 0 ∧ ((launched fun r => { r with ready := none }).lrec 0).ready = none ∧
    (∀ es ∈ [[1], [1, 2]], let s := launched fun r => { r with pushHeld := true, words := [(2, 1), (3, 2), (7, 2 + 7 * 2 ^ 8)] };
      let s := { s with queues := [(7, { ctx := 0, k := 1, fixed := false, entries := es, waiters := [], taken := 0 })] }; let r := s.lrec 0;
      r.pushHeld = true ∧ r.ckind = 2 ∧ r.ctgt = 7 ∧ r.kind = 0 ∧ r.na = 0 ∧ r.ctx.getD 0 = 0 ∧
      (Assoc.find s.queues 7).map (fun w => decide (w.entries.length < 2 ^ w.k)) = some (es.length == 1)) ∧
    (let s := launched id; let r := s.lrec 0; let tt := TaskType.placed;
      s.service = [0] ∧ 1 ∉ s.service ∧ r.gang = false ∧ r.tt = some tt ∧ r.next + 1 = r.total ∧ r.placed = [] ∧ 0 ∈ r.granted ∧
      ((s.homeDie r tt (r.widOf r.next).toNat).orElse fun _ => s.emptiest r) = some 0 ∧ s.physDie 0 0 = some 0 ∧
      (s.reservedDies 0).contains 0 = false ∧ (s.pickCore 0 0 r.prio tt (s.lotDemand r.epoch tt)).isSome = true ∧
      TasksOk s ∧ (∀ e ∈ s.tasks, e.1 < s.nextTask)) ∧
    (∀ b ∈ [false, true], let g := fun p : Word => { (launched id).lrec 0 with words := [(2, 1), (3, 2), (6, p)], next := 0 };
      let s := withRec (launched fun _ => g (if b then 4 else 0)) 1 (g 20);
      s.service = [1, 0] ∧ (s.lrec 1).gang = true ∧ (s.lrec 1).next = 0 ∧ (s.lrec 1).tt = some TaskType.placed ∧ TasksOk s ∧
      Assoc.wf LaunchRec.free s.recs = true ∧ (∀ e ∈ s.tasks, e.1 < s.nextTask) ∧
      (s.lrec 0).gang = b ∧ (s.lrec 0).prio ≤ (s.lrec 1).prio ∧ s.grantedDies (s.lrec 0) = [0] ∧ 0 ∈ s.reservedDies 0) ∧
    (let s := launched fun r => { r with words := [(2, 1), (3, 2), (6, 16)] };
      let s := s.setDie 0 { s.die 0 with lostCores := (List.range 31).map (· + 1) };
      let r := s.lrec 0; let tt := TaskType.placed;
      s.service = [0] ∧ r.gang = false ∧ r.tt = some tt ∧ r.next + 1 = r.total ∧ r.placed = [] ∧ 0 ∈ r.granted ∧
      ((s.homeDie r tt (r.widOf r.next).toNat).orElse fun _ => s.emptiest r) = some 0 ∧ s.physDie 0 0 = some 0 ∧
      (s.reservedDies 0).contains 0 = false ∧ s.pickCore 0 0 r.prio tt (s.lotDemand r.epoch tt) = none ∧
      s.cutsDone.bestVictims 0 0 r.prio tt (s.lotDemand r.epoch tt) = some (0, [0])) ∧
    (∀ n ∈ [0, 1], let s := kernel (running 64 id); let s := if n = 0 then s else { s with pitches := [] };
      Assoc.wf Pitch.start s.pitches = true ∧ Assoc.wf { ctl := 0, state := [] } s.flows = true ∧ Assoc.wf 0 s.dropped = true ∧
      s.flowOf 0 (running 64 id).pkt = some 0 ∧ s.flowOf 15 (running 64 id).pkt = none ∧ (running 64 id).pkt.mode ≠ .other ∧
      (running 64 id).pkt.hdr = none ∧ ((s.pitch 0).run = none ↔ n = 1) ∧ (s.pitch 0).queue = []) ∧
    (let s := queued 3 2 (st .k id);
      (Assoc.find s.ctxs 0).map (fun c => (c.evq, c.lost, s.evqFree 0 4 c.produced)) = some (some (0, 4), 2, true) ∧
      (Assoc.find (st .k id).ctxs 0).map (·.evq) = some none) := by
  unfold TasksOk
  and_intros <;> decide +kernel

/-- Number 5 is context 0's; the task's bids are `l`, and x1 and x2 name a number. -/
def bidding (v : Nat) (l : List Bid) : State :=
  { st .k (fun t => reg .k (.x 1) (BitVec.ofNat 64 v) { t with bids := l }) with auctions := [(5, 0)], lanes := [(1, { Lane.start with number := 5 })] }

/-- A bid on number `n`. -/
def aBid (n : Nat) (x : BidState) : Bid := ⟨n, 3, x, none, []⟩

/-- Lane `n` after a change. -/
def laned (n : Nat) (f : Lane → Lane) : State :=
  { bidding 5 [aBid 5 .posted] with lanes := Assoc.set Lane.start [] n (f Lane.start) }

theorem meets_AuctionsAndEvaluations :
    (∀ v ∈ [5, 6, 60], ∀ l ∈ [[], [aBid 5 .posted], [aBid 5 .entered], [aBid 5 (.result 7 true)],
        [aBid 1 .posted, aBid 2 .posted, aBid 3 .posted, aBid 4 .posted]],
      let s := bidding v l;
      s.cur = .seq 0 .k ∧ (Assoc.find s.tasks 0).map (fun t => ((t.kq.rd (.x 1)).toNat, t.bids, t.kq.barriers.length, t.ctx)) = some (v, l, 0, 0) ∧
      (v < 60 ∧ Assoc.find s.auctions v = some 0 ↔ v = 5) ∧ (Assoc.get Lane.start s.lanes (5 % 4)).number = 5) ∧
    (let f := fun t => reg .k (.x 1) 5 { t with bids := [aBid 5 .posted] };
      Ready (bidding 5 [aBid 5 .posted]) 0 .k (f tk) [.s (SReg.x 3).code, .s (SReg.x 1).code, .s (SReg.x 2).code]) ∧
    (∀ e ∈ [([], none), ([{ task := none, evidence := [] }], none), ([{ task := none, evidence := [] }], some 3)],
      let s := (st .k id).setClass 5 { GovClass.start with due := e.1, newTarget := e.2 };
      Assoc.wf GovClass.start s.classes = true ∧ (s.govClass 5).due = e.1 ∧ (s.govClass 5).newTarget = e.2 ∧ s.evaluation = none ∧
      s.psrFrom 5 0 = none ∧ s.launchesOf 5 = []) ∧
    (Assoc.get Ring.start ((st .k id).setRing 0 { Ring.start with busy := true, psrWait := some 0 }).rings 0).psrWait ≠ none ∧
    (laned 1 id).stands ⟨3, some 0⟩ = true ∧
    (∀ w ∈ [[], [7], [7, 2 ^ 32 - 1]], ∀ k' ∈ [psrKey 9 1, psrKey 9 2], let k := psrKey 9 1;
      let v : Evaluation := { cls := 5, psr := some k, wins := w, agreed := [], changes := none };
      let l := { Lane.start with round := some (62, [⟨3, none⟩]) };
      let p := { Psr.start with cls := 5 };
      let s := { st .k id with psrs := if k' = k then [(k, p)] else [(k, p), (k', p)], evaluation := some v, lanes := [(2, l)] };
      Assoc.wf Lane.start s.lanes = true ∧ s.lane 2 = l ∧ s.evaluation = some v ∧ s.launchesOf 5 = [] ∧ s.psrFrom 5 0 = some k ∧
      (s.psrFrom 5 (k + 1) = if k' = k then none else some k') ∧
      s.poisonAt (.psr (k / 8) (k % 8)) = none ∧ Assoc.get [] s.roleHist k = [] ∧ Assoc.wf Psr.start s.psrs = true ∧
      s.deferred (s.psr k) = false ∧ (s.psr k).wcur < (s.psr k).wcap ∧ entryEn ((s.psr k).entry ((s.psr k).wcur + 1)) = true) ∧
    (∃ key : BitVec 43, key ≠ 0 ∧ 2 ^ 32 - 1 - keyBid key.toNat < keyBid (5 * 2 ^ 11)) ∧
    (∀ f ∈ [id, fun l : Lane => { l with testing := true }, fun l => { l with run := 4 }, fun l => { l with round := some (5, [⟨3, some 0⟩]) },
        fun l => { l with round := some (5, [⟨3, some 0⟩]), rerun := true }],
      Assoc.wf Lane.start (laned 1 f).lanes = true ∧ (laned 1 f).lane 1 = f Lane.start) ∧
    (TasksOk (laned 1 id) ∧ (laned 1 id).nextNumber 1 = some 5 ∧ (laned 1 id).heartbeatDue = false ∧
      (Assoc.find (laned 1 id).tasks 0).map (fun t => (t.bidOf 5, t.bidding (aBid 5 .posted))) = some (some (aBid 5 .posted), true)) ∧
    (let s := { laned 3 id with heartbeatDue := true }; (s.lane 3).testing = false ∧ (s.lane 3).round = none ∧ (s.lane 3).run < 4 ∧
      s.heartbeatDue = true) ∧
    ((aBid 5 .entered).st = .entered ∧ (aBid 5 .entered).next = none ∧ Lane.start.retiredWires = 0) := by
  unfold Ready TasksOk
  and_intros <;> decide +kernel

theorem meets_ErrorEvents :
    (Assoc.wf 0 (st .k id).corrected = true ∧ (∀ d c pa, Loc.scratch 0 64 ≠ .l1 d c pa)) ∧
    ((st .k id).present (.scratch 0 64) = true ∧ (st .k id).present (.wq 7 0) = false) ∧
    (let s := queued 3 0 (st .k id); s.owners (.scratch 0 64) = [0] ∧ Memory.wf s.hostMem = true ∧
      (Assoc.find s.ctxs 0).map (fun c => (c.evq, c.lost, s.evqFree 0 4 c.produced)) = some (some (0, 4), 0, true)) ∧
    (∀ n ∈ [0, 1], let f := fun t : Task => { t with checks := List.replicate n { array := 3, cspace := 1, cause := 2, addr := 64 } };
      Assoc.find (st .k f).tasks 0 = some (f tk) ∧ ((f tk).checks = [] ↔ n = 0) ∧ (f tk).handler = none ∧ (f tk).life = .running ∧
      (st .k f).moves (f tk) = true ∧ TasksOk (st .k f) ∧ (f tk).resident = true ∧ Assoc.get 0 ((st .k f).core 0 0).parity 4 = 0) ∧
    ((let f := fun t : Task => { t with life := .cut }; (f tk).resident = false) ∧
      (Assoc.find { st .k id with images := [(0, savedTk)] }.images 0).isSome = true ∧ Assoc.find (st .k id).images 0 = none) ∧
    (let s := (st .k id).setCore 0 0 { CoreState.start with parity := [(4, 1)] };
      let s := s.setDie 0 { s.die 0 with spares := 1 };
      Assoc.find s.tasks 0 = some tk ∧ TasksOk s ∧ tk.resident = true ∧ Assoc.get 0 (s.core 0 0).parity 4 ≠ 0 ∧
      (s.die 0).lostCores.contains 0 = false ∧ 0 < (s.die 0).spares ∧ Assoc.wf Die.start s.dies = true ∧
      Assoc.wf CoreState.start s.cores = true) ∧
    (∀ e ∈ [(2, 32), (0, 32), (0, 0)], let x : Die := { (st .k id).die 0 with spareChannels := e.1, channels := e.2 };
      let s := (st .k id).setDie 0 x;
      Assoc.wf Die.start s.dies = true ∧ s.die 0 = x ∧ Assoc.wf 0 x.crc = true ∧ (0 < x.spareChannels ↔ e.1 = 2) ∧ s.dieWorks 0 = true) ∧
    ((st .k id).dieWorks 1 = false ∧
      (let s := (st .k id).setDie 0 { (st .k id).die 0 with linkAsleep := true, snoops := [(0, 64)] };
        (s.die 0).linkAsleep = true ∧ (s.die 0).snoops ≠ [] ∧ s.dieWorks 0 = true) ∧ (st .k id).boot ≠ 3) := by
  unfold TasksOk
  and_intros
  any_goals decide +kernel
  intro d c pa h
  cases h

theorem meets_OneWordRoundTrip : (Instr.nop 15).wf .w = true ∧ encode (.nop 15) = [0xF0000000] ∧
    ∀ p : PitchInstr, Instr.nop 15 ≠ p.toInstr := by
  refine ⟨by decide, by decide, ?_⟩
  intro p h
  cases p <;> cases h

theorem meets_TwoWordRoundTrip : (Instr.mshape 0 1 1 5).wf .c = true ∧ encode (.mshape 0 1 1 5) = [0x0AF10000, 0x45] := by
  decide +kernel

theorem meets_PitchRoundTrip : (PitchInstr.toInstr (.prepn 63 1)).wf .k = true ∧ (PitchInstr.toInstr (.pj 1)).wf .w = true ∧
    (PitchInstr.toInstr (.pbany 3 4095)).wf .l = true := by decide

theorem meets_PitchAndCommandRoundTrip : ∃ c : Command, ∀ tag op, c = .unsupportedCommand tag op →
    op.toNat ∉ ([1, 2, 3, 4, 5, 6, 0x10, 0x11, 0x20, 0x21, 0x22, 0x23, 0x24, 0x25, 0x26, 0x27, 0x28, 0x29, 0x2A, 0x2B, 0x2C, 0x30, 0x31,
      0x32, 0x40, 0x41, 0x42, 0x50, 0x51, 0x60, 0x61, 0x70] : List Nat) := by
  refine ⟨.unsupportedCommand 7 0xFFFF, ?_⟩
  intro tag op h
  cases h
  decide

theorem meets_DecodingIsExact : decode .k 0xF0000000 0 = .ok (.nop 15) ∧
    (0x2F ≤ 0x0BC00000 / 2 ^ 22 % 64 ∧ 0x0B800000 / 2 ^ 22 % 64 < 0x2F) ∧ (0x07FFFFFF / 2 ^ 22 % 64 < 0x20 ∧ 0x20 ≤ 0x08000000 / 2 ^ 22 % 64) ∧
    (0x04800000 / 2 ^ 22 % 64 = 0x12 ∧ 0x04C00000 / 2 ^ 22 % 64 = 0x13) := by decide +kernel

/-- The machine about to run a word of the C-seq, with a stall count or a PC of its own. -/
def about (pc : Word) (stall : Nat) (w : Nat) : State :=
  let s := State.reset.placeProgram .c (toBytes 8 w)
  { s with tasks := s.tasks.map fun e => (e.1, { e.2 with cq := { e.2.cq with pc := pc, stall := stall } }) }

theorem meets_StepRunsDecoded :
    (∀ e ∈ [(0, 0), (0, 3), (2 ^ 60, 0), (0xFF0 * 2 ^ 48 - 8, 0), (0xFF0 * 2 ^ 48, 0)], let s := about (BitVec.ofNat 64 e.1) e.2 0;
      s.settled.agenda = [.issue 0 .c] ∧ s.settled.poweredDown = false ∧
      (Assoc.find s.settled.tasks 0).map (fun t => (t.countMarks .c).issues .c && !(s.die t.die).halted && (t.countMarks .c).sync.isNone &&
        ((t.countMarks .c).sq .c).codeHeld == false && ((t.countMarks .c).sq .c).words.isNone && t.checks == []) = some true ∧
      (Assoc.find s.settled.tasks 0).map (fun t => (((t.countMarks .c).sq .c).stall, ((t.countMarks .c).sq .c).pc.toNat)) =
        some (e.2, e.1)) ∧
    (let s0 := about 0 0 0;
      let b : Barrier := { id := 5, preds := [9], holds := 16, wb := false, inv := false, scope := 1, partner := none, k := 0, fork := none };
      let held := fun t : Task => { t with cq := { t.cq with barriers := [b] } };
      let m := fun t : Task => { product t with done := 2 };
      let done := fun t : Task => { t with sync := some { op := m t, stall := 0, detached := true } };
      let waits := fun t : Task => { t with cq := { t.cq with words := some 0x0B80C801 } };
      (∀ f ∈ [held, done, waits], let s := s0.modTask 0 f;
        s.settled.agenda = [.issue 0 .c] ∧ s.settled.poweredDown = false ∧
        (Assoc.find s.settled.tasks 0).map (fun t => ((t.countMarks .c).issues .c, ((t.countMarks .c).sq .c).stall)) = some (true, 0)) ∧
      (∀ h ∈ [false, true],
        let f := fun t : Task => { forked .copy t with cq := { t.cq with barriers := [{ b with preds := [7], holds := 8 }] } };
        let s := (about (2 ^ 22) 0 0).modTask 0 (if h then f else id); let s1 : State := { s.settled with agenda := [] };
        s.settled.agenda = [.issue 0 .c] ∧ s.settled.poweredDown = false ∧
        (Assoc.find s.settled.tasks 0).map (fun t0 => let t := t0.countMarks .c; let s2 := { s1.setTask 0 t with cur := .seq 0 .c, curWord := 0 };
          t.issues .c && (t.sq .c).stall == 0 && (t.sq .c).words.isNone && !(t.sq .c).codeHeld && (t.sq .c).pc == 2 ^ 22 &&
            t.sync.isNone && s2.walkHeld t .c (2 ^ 22) Seq.c.size == h) = some true) ∧
      (held tk).cq.codeHeld = true ∧ (held tk).cq.words = none ∧ (done tk).cq.words = none ∧
      (done tk).sync.map (fun m => (m.detached, m.op.finished)) = some (true, true) ∧ (waits tk).cq.words = some 0x0B80C801 ∧
      decode .c 0x0B80C801 0 = .ok (.gemvwait 0 2)) ∧
    (∀ pc ∈ [2 ^ 60 - 1, 0xFF3 * 2 ^ 48], 0xFF3 * 2 ^ 48 ≤ pc ∧ pc < 2 ^ 60) ∧
    ((about 0 0 0).resolve tk (2 ^ 22) .exec = .error (.translation 1)) ∧
    (let s := about 0 0 0x0B80C801; (Assoc.find s.tasks 0).map (fun t => (s.resolve t 0 .exec).toOption) = some (some (.phys 0 false)) ∧
      isHostPa 0 = false ∧ s.poisonAt (.hbm (0 / 64 * 64)) = none ∧ s.physRead 0 8 = toBytes 8 0x0B80C801 ∧
      decode .c 0x0B80C801 0 = .ok (.gemvwait 0 2)) ∧
    (∀ f ∈ [(.k, 0x0BC00000, 0), (.k, 0x08000000, 0), (.l, 0x04800000, 0), (.k, 0x00000004 + 2 ^ 12, 0), (.c, 0, 1)],
      (decode f.1 f.2.1 f.2.2).toOption = none) ∧
    (∀ turn ∈ [Turn.event .heartbeatTick, .pitch 0, .ring 3, .hostMem 64 [1, 2], .service 0 0 3, .cp, .cycle 0], let s := { ringing 3 with agenda := [turn] };
      s.settled.agenda = [turn] ∧ s.settled.poweredDown = false) ∧
    (encode .heartbeatTick = [] ∧ (kernel (running 64 id)).kernelPoison 0 5 = false ∧ ((kernel (running 64 id)).pitch 0).run = some (running 64 id) ∧
      (readPitch 0x0C000000).isSome = true ∧
      (let s := (ringing 3).setRing 3 { (ringing 3).ringAt 3 with tail := 1 }; s.ringReady 3 = true)) := by
  and_intros <;> decide +kernel

theorem meets_PowerAndBoot :
    (∀ s ∈ [st .k id, (st .k id).setDie 0 { (st .k id).die 0 with hot := true, capped := true }], Assoc.wf Die.start s.dies = true ∧ 0 ∈ s.workingDies ∧
      s.holdsDie 0 = false ∧ s.dieWorks 0 = true ∧ ((s.die 0).hot = (s.die 0).capped)) ∧
    ((st .k id).therm ≠ 2 ∧ { st .k id with therm := 2 }.therm = 2) ∧ (∀ n < 7, ∀ b ∈ [false, true], let s := { st .k id with boot := n, bootFail := b }; s.boot = n ∧ s.bootFail = b) ∧
    (∀ b ∈ [false, true], let s := { st .k id with boot := 4 }; let s := s.setDie 7 { s.die 7 with leftOut := b };
      s.boot = 4 ∧ Assoc.wf Die.start s.dies = true ∧ (s.die 7).leftOut = b) ∧
    (let s := { st .k id with poweredDown := true, agenda := [Turn.pitch 0] }; s.poweredDown = true ∧ s.agenda = Turn.pitch 0 :: [] ∧
      (∀ a b c, Turn.pitch 0 ≠ .event (.boot a b c)) ∧ ∀ a bytes, Turn.pitch 0 ≠ .hostMem a bytes) := by
  refine ⟨by decide +kernel, by decide +kernel, by decide +kernel, by decide +kernel, rfl, rfl, ?_, ?_⟩
  · intro a b c h; cases h
  · intro a b h; cases h

theorem meets_MemoriesStayCanonical : ∃ t, MemoriesCanonical (about 0 0 0) ∧ step (about 0 0 0) = .next t :=
  match h : step (about 0 0 0), (by decide +kernel : (after (step (about 0 0 0))).isSome = true) with
  | .next t, _ => ⟨t, by unfold MemoriesCanonical; decide +kernel, rfl⟩

/-! ### One step each, with results worked out from the rules -/

/-- Scalar operands in x1 and x2. -/
def xs (a b : Word) (t : Task) : Task := reg .k (.x 1) a (reg .k (.x 2) b t)

/-- R157. -/
theorem test_add_wraps : result .k (xs (-1) 1) (.add 0 (.x 3) (.x 1) (.x 2)) (.x 3) = some 0 := by decide +kernel

/-- R149: the source is also the destination. -/
theorem test_sub_onto_source : result .k (xs 0 1) (.sub 0 (.x 2) (.x 1) (.x 2)) (.x 2) = some 0xFFFFFFFFFFFFFFFF := by decide +kernel

/-- R157: only xb[5:0] counts. -/
theorem test_sra_amount : result .k (xs (-8) 65) (.sra 0 (.x 3) (.x 1) (.x 2)) (.x 3) = some (-4) := by decide +kernel

/-- R157. -/
theorem test_comparisons : result .k (xs (-1) 0) (.slt 0 (.x 3) (.x 1) (.x 2)) (.x 3) = some 1 ∧
    result .k (xs (-1) 0) (.sltn 0 (.x 3) (.x 1) (.x 2)) (.x 3) = some 0 := by decide +kernel

/-- R158. -/
theorem test_high_products : result .k (xs (-1) (-1)) (.mulh 0 (.x 3) (.x 1) (.x 2)) (.x 3) = some 0 ∧
    result .k (xs (-1) (-1)) (.mulhn 0 (.x 3) (.x 1) (.x 2)) (.x 3) = some (-2) := by decide +kernel

/-- R158: division by 0, and −2^63 by −1. -/
theorem test_division_edges : result .k (xs 7 0) (.div 0 (.x 3) (.x 1) (.x 2)) (.x 3) = some (-1) ∧
    result .k (xs 7 0) (.remn 0 (.x 3) (.x 1) (.x 2)) (.x 3) = some 7 ∧
    result .k (xs 0x8000000000000000 (-1)) (.div 0 (.x 3) (.x 1) (.x 2)) (.x 3) = some 0x8000000000000000 ∧
    result .k (xs 0x8000000000000000 (-1)) (.rem 0 (.x 3) (.x 1) (.x 2)) (.x 3) = some 0 := by decide +kernel

/-- R158: the remainder takes the sign of the dividend. -/
theorem test_rem_sign : result .k (xs (-7) 2) (.rem 0 (.x 3) (.x 1) (.x 2)) (.x 3) = some (-1) := by decide +kernel

/-- R158. -/
theorem test_bit_counts : result .k (xs 0 0) (.clz 0 (.x 3) (.x 1)) (.x 3) = some 64 ∧
    result .k (xs 8 0) (.ctz 0 (.x 3) (.x 1)) (.x 3) = some 3 ∧ result .k (xs 1 0) (.brev 0 (.x 3) (.x 1)) (.x 3) = some 0x8000000000000000 ∧
    result .k (xs 1 3) (.lea8 0 (.x 3) (.x 1) (.x 2)) (.x 3) = some 25 := by decide +kernel

/-- R159: `addi x5, x0, -3`, and `sltni` against the unsigned value of −1. -/
theorem test_immediates : result .k id (.addi 0 (.x 5) (.x 0) (-3)) (.x 5) = some (-3) ∧
    result .k (xs (-1) 0) (.sltni 0 (.x 3) (.x 1) (-1)) (.x 3) = some 0 ∧
    result .k (xs (-2) 0) (.sltni 0 (.x 3) (.x 1) (-1)) (.x 3) = some 1 := by decide +kernel

/-- R160. -/
theorem test_constants : result .k id (.lui 0 (.x 3) 0x8000) (.x 3) = some 0xFFFFFFFF80000000 ∧
    result .k (reg .k (.x 3) 0x1234) (.lsh 0 (.x 3) 0x5678) (.x 3) = some 0x12345678 := by decide +kernel

/-- R123: x0 keeps no write. -/
theorem test_x0_keeps_nothing : result .k (xs 1 1) (.add 0 (.x 0) (.x 1) (.x 2)) (.x 0) = some 0 := by decide +kernel

/-- R120, R161: the target is the branch's own address plus 4 × the offset. -/
theorem test_branch_target : (after (exec (.beq 0 (.x 1) (.x 2) (-2)) (st .k (xs 5 5)))).map (·.kq.pc) = some (-8) ∧
    (after (exec (.beq 0 (.x 1) (.x 2) (-2)) (st .k (xs 5 6)))).map (·.kq.pc) = some 4 := by decide +kernel

/-- R163. -/
theorem test_loop_counts_down : (after (exec (.loop 0 2 (-3)) (st .l (reg .l (.lc 2) 2)))).map (·.lq.pc) = some (-12) ∧
    result .l (reg .l (.lc 2) 2) (.loop 0 2 (-3)) (.lc 2) = some 1 := by decide +kernel

/-- R167: a given token is taken. -/
theorem test_token : (after (exec (.tgive 0 .l) (st .k id))).map (fun t => (t.tokensOf (tokenQueue .k .l)).length) = some 1 := by decide +kernel

/-- The C-seq's operands in lane 0 of v1 to v3. -/
def vs (a b c : BitVec 32) (t : Task) : Task := { t with v := [(1, [(0, a)]), (2, [(0, b)]), (3, [(0, c)])] }

/-- A lane of a vector register once a C-seq instruction has run and its write has landed. -/
def lane (f : Task → Task) (i : Instr) (d k : Nat) : Option (BitVec 32) :=
  (after (exec i (st .c f))).map fun t =>
    Assoc.get 0 (Assoc.get [] (Task.land (t.modSq .c fun x => { x with clk := x.clk + 64 }) .c).v d) k

/-- R177, R39: a tie goes to the even code, and one more bit goes up. -/
theorem test_vadd_f32 : lane (vs 0x3F800000 0x33800000 0) (.vadd 0 p0 .f32 .rne false (.v 5) (.v 1) (.v 2)) 5 0 = some 0x3F800000 ∧
    lane (vs 0x3F800001 0x33800000 0) (.vadd 0 p0 .f32 .rne false (.v 5) (.v 1) (.v 2)) 5 0 = some 0x3F800002 := by decide +kernel

/-- R176: i32 saturates under SAT and wraps without. -/
theorem test_vadd_i32 : lane (vs 0x7FFFFFFF 1 0) (.vadd 0 p0 .i32 .rne true (.v 5) (.v 1) (.v 2)) 5 0 = some 0x7FFFFFFF ∧
    lane (vs 0x7FFFFFFF 1 0) (.vadd 0 p0 .i32 .rne false (.v 5) (.v 1) (.v 2)) 5 0 = some 0x80000000 := by decide +kernel

/-- R171, R177: elements of one lane are apart. -/
theorem test_vsub_n8 : lane (vs 0x01020304 0x01010105 0) (.vsub 0 p0 .n8 .rne false (.v 5) (.v 1) (.v 2)) 5 0 = some 0x000102FF := by
  decide +kernel

/-- R177: 3 × 5 + 1 and 1 − 3 × 5. -/
theorem test_vfma : lane (vs 0x40400000 0x40A00000 0x3F800000) (.vfma 0 p0 .f32 .rne false (.v 5) (.v 1) (.v 2) (.v 3)) 5 0 = some 0x41800000 ∧
    lane (vs 0x40400000 0x40A00000 0x3F800000) (.vfnma 0 p0 .f32 .rne false (.v 5) (.v 1) (.v 2) (.v 3)) 5 0 = some 0xC1600000 := by
  decide +kernel

/-- R178: −0 is less than +0, and a NaN gives the canonical NaN. -/
theorem test_vmin : lane (vs 0 0x80000000 0) (.vmin 0 p0 .f32 .rne false (.v 5) (.v 1) (.v 2)) 5 0 = some 0x80000000 ∧
    lane (vs 0x7F800001 0 0) (.vmin 0 p0 .f32 .rne false (.v 5) (.v 1) (.v 2)) 5 0 = some 0x7FC00000 := by decide +kernel

/-- R178: b greater than c gives c. -/
theorem test_vclmp : lane (vs 5 9 7) (.vclmp 0 p0 .i32 .rne false (.v 5) (.v 1) (.v 2) (.v 3)) 5 0 = some 7 := by decide +kernel

/-- R182: an active lane gets part e, extended by its sign. -/
theorem test_vextr : lane (vs 0x00008000 0 0) (.vextr 0 p0 .i8 (.v 5) (.v 1) 1) 5 0 = some 0xFFFFFF80 := by decide +kernel

/-- R184's example: the sum of a row is rounded once. -/
theorem test_vsumr : lane (fun t => { t with v := [(4, (0, 0x4B800000) :: (List.range 63).map fun c => (c + 1, 0x3F800000))] })
    (.vsumr 0 p0 .f32 .rne false (.v 5) (.v 4)) 5 63 = some 0x4B800020 := by decide +kernel

/-- R187's example: 10 and 0.3 quantised to e4m3 codes 0x7A and 0x52 under scale 0x7A. -/
theorem test_vqnt : let f := fun t : Task => { t with v := [(1, [(0, 0x41200000), (1, 0x3E99999A)])] };
    let i := Instr.vqnt 0 p0 .e4m3 .rne true (.v 2) (.v 1) 3 .b32;
    lane f i 2 0 = some 0x7A ∧ lane f i 2 1 = some 0x52 ∧ lane f i 3 31 = some 0x7A ∧ lane f i 3 32 = some 0 := by decide +kernel

/-- R188: 0x52 under that scale is 0.3125. -/
theorem test_vdqn : lane (vs 0x52 0x7A 0) (.vdqn 0 p0 .e4m3 .rne false (.v 5) (.v 1) (.v 2)) 5 0 = some 0x3EA00000 := by decide +kernel

/-- R39: in mk8 the tie 48 goes to 32, and 2^−7 to 0. -/
theorem test_vcvt_mk8 : lane (vs 0x42400000 0 0) (.vcvt 0 p0 .mk8 .rne true (.v 5) (.v 1) none .f32) 5 0 = some 0x7E ∧
    lane (vs 0x3C000000 0 0) (.vcvt 0 p0 .mk8 .rne true (.v 5) (.v 1) none .f32) 5 0 = some 0 := by decide +kernel

/-- R173: an inactive lane keeps what it held. -/
theorem test_inactive_lane : lane (fun t => { vs 1 2 3 t with p := [(3, 2)] }) (.vadd 0 ⟨3, false⟩ .i32 .rne false (.v 3) (.v 1) (.v 2)) 3 0 = some 3 := by
  decide +kernel

/-- A predicate's bit once a C-seq instruction has run and its write has landed. -/
def pbit (f : Task → Task) (i : Instr) (d k : Nat) : Option Bool :=
  (after (exec i (st .c f))).map fun t => (Assoc.get 0 (Task.land (t.modSq .c fun x => { x with clk := x.clk + 64 }) .c).p d).getLsbD k

/-- R181. -/
theorem test_vcmplt : pbit (vs 0xFFFFFFFF 0 0) (.vcmplt 0 p0 .i32 5 (.v 1) (.v 2)) 5 0 = some true ∧
    pbit (vs 0xFFFFFFFF 0 0) (.vcmplt 0 p0 .n32 5 (.v 1) (.v 2)) 5 0 = some false ∧
    pbit (vs 0xFFFFFFFF 0 0) (.vcmplt 0 p0 .i32 5 (.v 1) (.v 2)) 5 1 = some false := by decide +kernel

/-- R195: rows below y and columns below x. -/
theorem test_pset : pbit id (.pset 0 p0 5 2 3) 5 (64 + 2) = some true ∧ pbit id (.pset 0 p0 5 2 3) 5 3 = some false ∧
    pbit id (.pset 0 p0 5 2 3) 5 128 = some false := by decide +kernel

/-- R29's example, and R33's: 0x13 is 0.296875, and 0x5 and 0xF under scale 0x82 are 24 and −48. -/
theorem test_number_formats : convert .f32 (valOf .mk8 0x13) .rne false 0 = 0x3E980000 ∧ convert .f32 (valOf .mk8 0xD0) .rne false 0 = 0xBFC00000 ∧
    convert .f32 (blockValue .e2m1 1 0x82 0x5) .rne false 0 = 0x41C00000 ∧
    convert .f32 (blockValue .e2m1 1 0x82 0xF) .rne false 0 = 0xC2400000 := by decide +kernel

/-- R203's example: a product of 0.75 of the window's unit is cut off. -/
theorem test_group_sum : groupSum [.fin false 1 20, .fin false 3 (-9), .zero] = some (2 ^ 27, 20) := by decide +kernel

/-- R226. -/
theorem test_asetx : (after (exec (.asetx 0 4 true 0xFF8) (st .c id))).map (fun t => ((t.tile 4).x, (t.tile 4).ote)) = some (-8, true) := by
  decide +kernel

/-- A lane of a pitch register after one instruction on registers q1, q2 and mask k1. -/
def qlane (i : Instr) (a b : List (BitVec 32)) (d k : Nat) : Option (BitVec 32) :=
  let q := a.zipIdx.map (fun e => (16 + e.2, e.1)) ++ b.zipIdx.map fun e => (32 + e.2, e.1)
  match exec i (kernel (running 64 fun r => { r with q := q })) with
  | .next s => ((s.pitch 0).run).map fun r => r.lane (Fin.ofNat 16 d) k
  | _ => none

/-- R355, R359: a carry goes from the low lane of a pair to the high one. -/
theorem test_pfxa : qlane (.pfxa 3 1 2 0) [0xFFFFFFFF, 1] [1, 1] 3 0 = some 0 ∧ qlane (.pfxa 3 1 2 0) [0xFFFFFFFF, 1] [1, 1] 3 1 = some 3 := by
  decide +kernel

/-- R355. -/
theorem test_padd_and_pmin : qlane (.padd 3 1 2 0) [0xFFFFFFFF, 1] [1, 1] 3 0 = some 0 ∧
    qlane (.pmin 3 1 2 0) [0xFFFFFFFF, 1] [1, 2] 3 0 = some 0xFFFFFFFF ∧ qlane (.pmaxn 3 1 2 0) [0xFFFFFFFF, 1] [1, 2] 3 1 = some 2 := by
  decide +kernel

/-- R118, R131: the fates of the spec's table. -/
theorem test_fates : decode .k 0x00430420 0 = .ok (.add 0 (.x 3) (.x 1) (.x 2)) ∧ decode .l 0x00430420 0 = .error .illegalRegister ∧
    decode .c 0x00430420 0 = .error .wrongSequencer ∧ decode .c 0x00430420 1 = .error .illegalInstruction ∧
    decode .k 0x00E18808 0 = .error .illegalRegister ∧ decode .l 0x00E18808 0 = .ok (.addi 0 (.a 1) (.a 2) 8) ∧
    decode .k 0x00000008 0 = .error .illegalInstruction ∧ decode .c 0x03300000 0 = .error .illegalInstruction ∧
    decode .k 0x01C00300 0 = .error .illegalInstruction ∧ decode .w 0x0BC00000 0 = .error .illegalInstruction ∧
    decode .k 0x08020210 0 = .error .wrongSequencer ∧
    decode .c 0x08020210 0 = .ok (.vadd 0 p0 .f32 .rne false (.v 2) (.v 0) (.lq 1)) ∧
    decode .c 0x08020250 0 = .error .illegalRegister ∧
    decode .c 0x08020210 0x00C11000 = .ok (.vadd 0 ⟨3, false⟩ .bf16 .rne true (.v 2) (.v 0) (.lq 1)) := by decide +kernel

end Sys2Proof.Tests
end

section
/-! SUPPORT and PROOFS. Scalar arithmetic and loops (R157, R163, R164): the model's word operations as arithmetic on their
operands' values, what a ready instruction of each shape comes to, and the statements they settle. -/

namespace Sys2Proof.Machine

open Sys2Proof.Safety

/-! ### Shifts, comparisons and targets as arithmetic -/

theorem shl_amount (x y : Word) : x <<< amount y = BitVec.ofNat 64 (x.toNat * 2 ^ (y.toNat % 64)) := by
  apply BitVec.eq_of_toNat_eq
  simp [amount, Nat.shiftLeft_eq]

theorem shr_amount (x y : Word) : x >>> amount y = BitVec.ofNat 64 (x.toNat / 2 ^ (y.toNat % 64)) := by
  have hlt : x.toNat / 2 ^ (y.toNat % 64) < 2 ^ 64 := (Nat.div_le_self _ _).trans_lt x.isLt
  apply BitVec.eq_of_toNat_eq
  rw [BitVec.toNat_ushiftRight, BitVec.toNat_ofNat, Nat.mod_eq_of_lt hlt, Nat.shiftRight_eq_div_pow, amount]

theorem sra_amount (x y : Word) :
    x.sshiftRight (amount y) = BitVec.ofInt 64 (x.toInt / 2 ^ (y.toNat % 64)) := by
  simp [BitVec.sshiftRight, amount, Int.shiftRight_eq_div_pow]

@[simp] theorem ltS_iff (x y : Word) : ltS x y = true ↔ x.toInt < y.toInt := decide_eq_true_iff

@[simp] theorem ltU_iff (x y : Word) : ltU x y = true ↔ x.toNat < y.toNat := decide_eq_true_iff

theorem minS_eq (x y : Word) : (if ltS y x then y else x) = if x.toInt ≤ y.toInt then x else y := by
  simp only [ltS_iff, ← Int.not_le, ite_not]

theorem minU_eq (x y : Word) : (if ltU y x then y else x) = if x.toNat ≤ y.toNat then x else y := by
  simp only [ltU_iff, ← Nat.not_le, ite_not]

/-- Operands of one value are one word, so that a maximum may take either. -/
theorem maxS_eq (x y : Word) : (if ltS x y then y else x) = if x.toInt ≤ y.toInt then y else x := by
  rcases lt_trichotomy x.toInt y.toInt with h | h | h
  · simp [h, h.le]
  · simp [BitVec.eq_of_toInt_eq h]
  · simp [h.not_gt, h.not_ge]

/-- Operands of one value are one word, so that a maximum may take either. -/
theorem maxU_eq (x y : Word) : (if ltU x y then y else x) = if x.toNat ≤ y.toNat then y else x := by
  rcases lt_trichotomy x.toNat y.toNat with h | h | h
  · simp [h, h.le]
  · simp [BitVec.eq_of_toNat_eq h]
  · simp [h.not_gt, h.not_ge]

theorem flag_ltS (x y : Word) : flag (ltS x y) = if x.toInt < y.toInt then 1 else 0 := by
  simp only [flag, ltS_iff]

theorem flag_ltU (x y : Word) : flag (ltU x y) = if x.toNat < y.toNat then 1 else 0 := by
  simp only [flag, ltU_iff]

theorem flag_beq (x y : Word) : flag (x == y) = if x = y then 1 else 0 := by
  simp only [flag, beq_iff_eq]

theorem flag_bne (x y : Word) : flag (x != y) = if x = y then 0 else 1 := by
  simp only [flag, bne_iff_ne, ite_not]

/-- R120's target: the instruction's own address plus four times the signed offset. -/
theorem target_eq {n : Nat} (pc : Word) (o : BitVec n) : target pc o = pc + BitVec.ofInt 64 (4 * o.toInt) := by
  simp [target, BitVec.ofInt_mul, BitVec.signExtend]

/-- The K-, L- and W-seq step by 4 bytes (R113). -/
theorem following_of_ne_c (t : Task) {q : Seq} (hq : q ≠ .c) : following t q = (t.sq q).pc + 4 := by
  simp [following, hq]

/-! ### What a ready instruction comes to -/

section
variable {s : State} {tid : Nat} {q : Seq} {t : Task} {w : Stall}

/-- A ready instruction that computes xd from xa and xb by `f` completes with the value `f` gives pending. -/
theorem exec_of_binary {d a b : SReg} {i : Instr} {lat : Nat} {f : Word → Word → Word} {v : Word}
    (h : Ready s tid q t [.s d.code, .s a.code, .s b.code])
    (hi : exec i s = s.binary w lat d a b f) (hv : f ((t.sq q).rd a) ((t.sq q).rd b) = v) :
    exec i s = ends ((seen s tid t).result tid q lat d v) tid q t w := by
  rw [hi, State.binary_ready w lat f h, hv]

/-- The rule for a ready `loop`, both outcomes: no write at 0 (R163), else the count less one, and the jump while that is
not 0. -/
theorem exec_loop {l : Fin 4} (o : BitVec 20) (h : Ready s tid q t [.s (48 + l.val)]) :
    exec (.loop w l o) s =
      if (t.sq q).rd (.lc l) = 0 then ends (seen s tid t) tid q t w
      else goes ((seen s tid t).result tid q 1 (.lc l) ((t.sq q).rd (.lc l) - 1)) tid q w
        (if (t.sq q).rd (.lc l) - 1 = 0 then following t q else target (t.sq q).pc o) := by
  have harm : exec (.loop w l o) s = execLoop w l o s := rfl
  rw [harm, execLoop, State.issue_scalars (rs := [lcReg l]) w _ h, lcReg]
  by_cases hn : (t.sq q).rd (.lc l) = 0
  · simp only [hn, if_true, Eff.settle_done, ends, seen]
  · by_cases h1 : (t.sq q).rd (.lc l) - 1 = 0
    · simp only [hn, h1, if_true, if_false, Eff.settle_done, goes, seen]
    · simp only [hn, h1, if_false, Eff.settle_jump, goes, seen]

/-- Setting a loop counter completes with the zero-extended immediate pending (R164). -/
theorem exec_lcset {l : Fin 4} (m : BitVec 16) (h : Ready s tid q t [.s (48 + l.val)]) :
    exec (.lcset w l m) s = ends ((seen s tid t).result tid q 1 (.lc l) (m.setWidth 64)) tid q t w := by
  have harm : exec (.lcset w l m) s = execLcset w l m s := rfl
  rw [harm, execLcset, State.issue_scalars (rs := [lcReg l]) w _ h, BitVec.ofNat_toNat, Eff.settle_done]
  rfl

end

end Sys2Proof.Machine

open Sys2Proof Sys2Proof.Machine Sys2Proof.Safety

/-- Settles O1: each ALU instruction is of the binary form, and its function of xa and xb is the rule's. -/
theorem aluResults : Obligations.AluResults := by
  unfold Obligations.AluResults
  refine ⟨by decide +kernel, fun s tid q t w d a b h => ?_⟩
  have run {i : Instr} (f : Word → Word → Word) {v : Word} (hv : f ((t.sq q).rd a) ((t.sq q).rd b) = v)
      (hi : exec i s = s.binary w 1 d a b f) : exec i s = ends ((seen s tid t).result tid q 1 d v) tid q t w :=
    exec_of_binary h hi hv
  refine ⟨run (· + ·) rfl rfl, run (· - ·) rfl rfl, run (· &&& ·) rfl rfl, run (· ||| ·) rfl rfl,
    run (· ^^^ ·) rfl rfl, ?shl, ?shr, ?sra, ?min, ?max, ?minn, ?maxn, ?slt, ?sltn, ?seq, ?sne⟩
  case shl => exact run (fun x y => x <<< amount y) (shl_amount _ _) rfl
  case shr => exact run (fun x y => x >>> amount y) (shr_amount _ _) rfl
  case sra => exact run (fun x y => x.sshiftRight (amount y)) (sra_amount _ _) rfl
  case min => exact run (fun x y => if ltS y x then y else x) (minS_eq _ _) rfl
  case max => exact run (fun x y => if ltS x y then y else x) (maxS_eq _ _) rfl
  case minn => exact run (fun x y => if ltU y x then y else x) (minU_eq _ _) rfl
  case maxn => exact run (fun x y => if ltU x y then y else x) (maxU_eq _ _) rfl
  case slt => exact run (fun x y => flag (ltS x y)) (flag_ltS _ _) rfl
  case sltn => exact run (fun x y => flag (ltU x y)) (flag_ltU _ _) rfl
  case seq => exact run (fun x y => flag (x == y)) (flag_beq _ _) rfl
  case sne => exact run (fun x y => flag (x != y)) (flag_bne _ _) rfl

/-- Settles O4, by whether the counter reads 0 when `loop` issues. -/
theorem loopCounters : Obligations.LoopCounters := by
  unfold Obligations.LoopCounters
  refine ⟨⟨by decide +kernel, fun s tid q t w l o hq h => ⟨fun hn => ?zero, fun hn => ?counts⟩⟩,
    by decide +kernel, by decide +kernel, fun s tid q t w l m h => exec_lcset m h⟩
  case zero => rw [exec_loop o h, if_pos hn, ends, following_of_ne_c t hq, goes]
  case counts => rw [exec_loop o h, if_neg hn, following_of_ne_c t hq, target_eq]
end
